-- ==== Sys2Proof/Word.lean ====
section
/-! DEFINITION. The word types of the ZH72 (R11, R16) and the numbers of its places (R4). -/
namespace Sys2Proof

/-- A 64-bit register or memory word. -/
abbrev Word := BitVec 64
/-- A byte of memory. -/
abbrev Byte := BitVec 8
/-- An instruction word (R66). -/
abbrev IWord := BitVec 32
/-- A 512-bit vector register (R16). -/
abbrev VWord := BitVec 512
/-- Number of an x register. -/
abbrev XReg := BitVec 5
/-- Number of a v register. -/
abbrev VReg := BitVec 5
/-- Number of a k register. -/
abbrev KReg := BitVec 3
/-- Number of an accumulator. -/
abbrev ZReg := BitVec 3

/-- A sparse map from numbers to values: entries in strictly rising order of key, none equal to the
map's default. The operations are in Machine/FMap.lean. -/
abbrev FMap (α : Type) := List (Nat × α)

/-- Acquire, release and scope (R72): scope 0 core, 1 cluster, 2 die, 3 wafer. -/
structure Ord where
  aq : Bool
  rl : Bool
  scope : BitVec 2
  deriving DecidableEq, Repr

/-- No acquire, no release, scope 0. -/
def Ord.plain : Ord := { aq := false, rl := false, scope := 0 }

end Sys2Proof
end

