-- ==== Sys2Proof/Config.lean ====
section
/-! DEFINITION. What an implementation fixes and the spec leaves open: opaque constants without a body, so that no proof can
rest on their values. notes/assumptions names each of them. -/
namespace Sys2Proof

/-- The seal of word 0 of a capability under the key drawn at a reset (R116): the spec gives the function no form.
Entry 8. -/
opaque Config.seal : Nat → Word → Word

/-- What the SECDED code computes for a word with three or more flipped bits, from the stored data and the flipped bits
(R126): kind 0 a valid codeword, 1 corrected to the word given, 2 uncorrectable (kinds taken mod 3). Entry 10. -/
opaque Config.ecc : Word → BitVec 72 → Nat × Word

/-- Signature of a completed scan pattern of a core, by slot and pass (R125). Entry 11. -/
opaque Config.scanSignature : Nat → Nat → BitVec 48

/-- The golden signature that the region controller holds for a core (R125). Entry 11. -/
opaque Config.goldenSignature : Nat → BitVec 48

/-- SHA3-512 of a byte string (R423). Entry 9. -/
opaque Config.sha3 : List Byte → BitVec 512

/-- Vendor key hash in fuses (R423). Entry 9. -/
opaque Config.vendorKeyHash : BitVec 512

/-- Verification of an ML-DSA-87 signature: public key, hash, signature (R423). Entry 9. -/
opaque Config.verify : List Byte → BitVec 512 → List Byte → Bool

/-- CRC-32 of the bytes of a frame (R414): the spec names no polynomial. Entry 135. -/
opaque Config.crc32 : List Byte → BitVec 32

/-- Public key of the alias pair derived from M0 (R424), 2,592 bytes. Entry 9. -/
opaque Config.aliasKey : BitVec 512 → List Byte

/-- Signature of the alias key's certificate by the identity key (R424), 4,627 bytes. Entry 9. -/
opaque Config.aliasCertificate : BitVec 512 → List Byte

/-- Signature of a byte string by the alias key derived from M0 (R424), 4,627 bytes. Entry 9. -/
opaque Config.aliasSign : BitVec 512 → List Byte → List Byte

/-- Wafer serial number, from fuses (R418, R424). Entry 9. -/
opaque Config.serialNumber : Word

/-- Security version in fuses (R423, R424). Entry 9. -/
opaque Config.securityVersion : Word

/-- Thermal ceiling code of a core (R354): sensor data the spec does not give. Entry 9. -/
opaque Config.thermalCeiling : Nat → BitVec 6

/-- Free values, by a counter that the step advances: what sp, a1 and gvwid hold where a dispatch check fails before they
are read (R36), and the error codes of kind-9 notices that the spec does not name (R278, R282), entry 14; the spilled records
and the frames in use once their area is set anew under them (R33), and what follows a ring out of step (R257), entry 12. -/
opaque Config.freeWord : Nat → Word

end Sys2Proof
end

