-- ==== Sys2Proof/Syntax.lean ====
section
/-! DEFINITION. The one syntax of the ZH72's steps: a constructor for each row of spec/opcode_table.json.

First the instruction forms with an encoding (R69, R77 to R82): a branch's and a store's immediate is the published
12-bit field, jal's is the published 20-bit field, U-type is imm[31:12]. `fence` and `fence.i` have no operand, since
their fields are ignored (R70). Six rows with one small operand (`fence.sc`, `fence.eng`, `fence.mx`, `mx.zero`,
`task.self`, `task.prio`) carry that operand in the constructor's name, since Lean's
runtime allows 244 constructors with arguments; the functions after the type take it as an argument.
Last the 104 events of the machine: steps that no instruction word names. What an event acts on (its place and its
payload) is plain data of the state, the argument of the event that is due (Machine.Arg). -/
namespace Sys2Proof

/-- A step of the machine: an instruction, or an event of the wafer. -/
inductive Instr where
  | lb (rd rs1 : XReg) (imm : BitVec 12)  -- R96 lb
  | lh (rd rs1 : XReg) (imm : BitVec 12)  -- R96 lh
  | lw (rd rs1 : XReg) (imm : BitVec 12)  -- R96 lw
  | ld (rd rs1 : XReg) (imm : BitVec 12)  -- R96 ld
  | lbu (rd rs1 : XReg) (imm : BitVec 12)  -- R96 lbu
  | lhu (rd rs1 : XReg) (imm : BitVec 12)  -- R96 lhu
  | lwu (rd rs1 : XReg) (imm : BitVec 12)  -- R96 lwu
  | sb (rs2 rs1 : XReg) (imm : BitVec 12)  -- R96 sb
  | sh (rs2 rs1 : XReg) (imm : BitVec 12)  -- R96 sh
  | sw (rs2 rs1 : XReg) (imm : BitVec 12)  -- R96 sw
  | sd (rs2 rs1 : XReg) (imm : BitVec 12)  -- R96 sd
  | addi (rd rs1 : XReg) (imm : BitVec 12)  -- R69 addi
  | slti (rd rs1 : XReg) (imm : BitVec 12)  -- R69 slti
  | sltiu (rd rs1 : XReg) (imm : BitVec 12)  -- R69 sltiu
  | xori (rd rs1 : XReg) (imm : BitVec 12)  -- R69 xori
  | ori (rd rs1 : XReg) (imm : BitVec 12)  -- R69 ori
  | andi (rd rs1 : XReg) (imm : BitVec 12)  -- R69 andi
  | slli (rd rs1 : XReg) (sh : BitVec 6)  -- R69 slli
  | srli (rd rs1 : XReg) (sh : BitVec 6)  -- R69 srli
  | srai (rd rs1 : XReg) (sh : BitVec 6)  -- R69 srai
  | auipc (rd : XReg) (imm : BitVec 20)  -- R69 auipc
  | addiw (rd rs1 : XReg) (imm : BitVec 12)  -- R69 addiw
  | slliw (rd rs1 : XReg) (sh : BitVec 5)  -- R69 slliw
  | srliw (rd rs1 : XReg) (sh : BitVec 5)  -- R69 srliw
  | sraiw (rd rs1 : XReg) (sh : BitVec 5)  -- R69 sraiw
  | amoswapW (aq rl : Bool) (rd rs1 rs2 : XReg)  -- R96 amoswap.w
  | amoaddW (aq rl : Bool) (rd rs1 rs2 : XReg)  -- R96 amoadd.w
  | amoxorW (aq rl : Bool) (rd rs1 rs2 : XReg)  -- R96 amoxor.w
  | amoandW (aq rl : Bool) (rd rs1 rs2 : XReg)  -- R96 amoand.w
  | amoorW (aq rl : Bool) (rd rs1 rs2 : XReg)  -- R96 amoor.w
  | amominW (aq rl : Bool) (rd rs1 rs2 : XReg)  -- R96 amomin.w
  | amomaxW (aq rl : Bool) (rd rs1 rs2 : XReg)  -- R96 amomax.w
  | amominuW (aq rl : Bool) (rd rs1 rs2 : XReg)  -- R96 amominu.w
  | amomaxuW (aq rl : Bool) (rd rs1 rs2 : XReg)  -- R96 amomaxu.w
  | lrW (aq rl : Bool) (rd rs1 : XReg)  -- R96 lr.w
  | scW (aq rl : Bool) (rd rs1 rs2 : XReg)  -- R96 sc.w
  | amoswapD (aq rl : Bool) (rd rs1 rs2 : XReg)  -- R96 amoswap.d
  | amoaddD (aq rl : Bool) (rd rs1 rs2 : XReg)  -- R96 amoadd.d
  | amoxorD (aq rl : Bool) (rd rs1 rs2 : XReg)  -- R96 amoxor.d
  | amoandD (aq rl : Bool) (rd rs1 rs2 : XReg)  -- R96 amoand.d
  | amoorD (aq rl : Bool) (rd rs1 rs2 : XReg)  -- R96 amoor.d
  | amominD (aq rl : Bool) (rd rs1 rs2 : XReg)  -- R96 amomin.d
  | amomaxD (aq rl : Bool) (rd rs1 rs2 : XReg)  -- R96 amomax.d
  | amominuD (aq rl : Bool) (rd rs1 rs2 : XReg)  -- R96 amominu.d
  | amomaxuD (aq rl : Bool) (rd rs1 rs2 : XReg)  -- R96 amomaxu.d
  | lrD (aq rl : Bool) (rd rs1 : XReg)  -- R96 lr.d
  | scD (aq rl : Bool) (rd rs1 rs2 : XReg)  -- R96 sc.d
  | add (rd rs1 rs2 : XReg)  -- R69 add
  | sub (rd rs1 rs2 : XReg)  -- R69 sub
  | sll (rd rs1 rs2 : XReg)  -- R69 sll
  | slt (rd rs1 rs2 : XReg)  -- R69 slt
  | sltu (rd rs1 rs2 : XReg)  -- R69 sltu
  | xor (rd rs1 rs2 : XReg)  -- R69 xor
  | srl (rd rs1 rs2 : XReg)  -- R69 srl
  | sra (rd rs1 rs2 : XReg)  -- R69 sra
  | or (rd rs1 rs2 : XReg)  -- R69 or
  | and (rd rs1 rs2 : XReg)  -- R69 and
  | mul (rd rs1 rs2 : XReg)  -- R96 mul
  | mulh (rd rs1 rs2 : XReg)  -- R96 mulh
  | mulhsu (rd rs1 rs2 : XReg)  -- R96 mulhsu
  | mulhu (rd rs1 rs2 : XReg)  -- R96 mulhu
  | div (rd rs1 rs2 : XReg)  -- R96 div
  | divu (rd rs1 rs2 : XReg)  -- R96 divu
  | rem (rd rs1 rs2 : XReg)  -- R96 rem
  | remu (rd rs1 rs2 : XReg)  -- R96 remu
  | lui (rd : XReg) (imm : BitVec 20)  -- R69 lui
  | addw (rd rs1 rs2 : XReg)  -- R69 addw
  | subw (rd rs1 rs2 : XReg)  -- R69 subw
  | sllw (rd rs1 rs2 : XReg)  -- R69 sllw
  | srlw (rd rs1 rs2 : XReg)  -- R69 srlw
  | sraw (rd rs1 rs2 : XReg)  -- R69 sraw
  | mulw (rd rs1 rs2 : XReg)  -- R96 mulw
  | divw (rd rs1 rs2 : XReg)  -- R96 divw
  | divuw (rd rs1 rs2 : XReg)  -- R96 divuw
  | remw (rd rs1 rs2 : XReg)  -- R96 remw
  | remuw (rd rs1 rs2 : XReg)  -- R96 remuw
  | beq (rs1 rs2 : XReg) (imm : BitVec 12)  -- R66 beq
  | bne (rs1 rs2 : XReg) (imm : BitVec 12)  -- R66 bne
  | blt (rs1 rs2 : XReg) (imm : BitVec 12)  -- R66 blt
  | bge (rs1 rs2 : XReg) (imm : BitVec 12)  -- R66 bge
  | bltu (rs1 rs2 : XReg) (imm : BitVec 12)  -- R66 bltu
  | bgeu (rs1 rs2 : XReg) (imm : BitVec 12)  -- R66 bgeu
  | jalr (rd rs1 : XReg) (imm : BitVec 12)  -- R66 jalr
  | jal (rd : XReg) (imm : BitVec 20)  -- R66 jal
  | csrrw (rd : XReg) (csr : BitVec 12) (rs1 : XReg)  -- R21 csrrw
  | csrrs (rd : XReg) (csr : BitVec 12) (rs1 : XReg)  -- R21 csrrs
  | csrrc (rd : XReg) (csr : BitVec 12) (rs1 : XReg)  -- R21 csrrc
  | csrrwi (rd : XReg) (csr : BitVec 12) (zimm : BitVec 5)  -- R21 csrrwi
  | csrrsi (rd : XReg) (csr : BitVec 12) (zimm : BitVec 5)  -- R21 csrrsi
  | csrrci (rd : XReg) (csr : BitVec 12) (zimm : BitVec 5)  -- R21 csrrci
  | sfenceVma (rs1 rs2 : XReg)  -- R349 sfence.vma
  | taskChain (rs1 : XReg)  -- R101 task.chain
  | taskSpawn (rl : Bool) (scope : BitVec 2) (rs1 : XReg)  -- R102 task.spawn
  | taskJoin (rs1 : XReg)  -- R104 task.join
  | msgSend (rl : Bool) (scope : BitVec 2) (rs1 rs2 : XReg)  -- R113 msg.send
  | msgSendl (rl : Bool) (scope : BitVec 2) (rs1 rs2 : XReg)  -- R113 msg.sendl
  | msgReply (rl : Bool) (scope : BitVec 2) (rs1 rs2 : XReg)  -- R114 msg.reply
  | msgFwd (rl : Bool) (scope : BitVec 2) (rs1 rs2 : XReg)  -- R114 msg.fwd
  | capMint (rd rs1 rs2 : XReg)  -- R118 cap.mint
  | capNarrow (rd rs1 rs2 : XReg)  -- R120 cap.narrow
  | capCheck (rd rs1 rs2 : XReg)  -- R121 cap.check
  | rcvPreserve (rs1 : XReg)  -- R177 rcv.preserve
  | txnBegin (rs1 : XReg)  -- R178 txn.begin
  | txnElse (rs1 : XReg)  -- R178 txn.else
  | sysHalt (rs1 : XReg)  -- R123 sys.halt
  | sysResume (rs1 : XReg)  -- R123 sys.resume
  | sysInspect (rd rs1 rs2 : XReg)  -- R124 sys.inspect
  | sysScan (rd rs1 : XReg)  -- R125 sys.scan
  | sysSig (rd rs1 : XReg)  -- R125 sys.sig
  | sysRemap (rs1 rs2 : XReg)  -- R127 sys.remap
  | sysInject (rs1 rs2 : XReg)  -- R126 sys.inject
  | feLd (o : Ord) (rd rs1 : XReg)  -- R251 fe.ld
  | feLdk (o : Ord) (rd rs1 : XReg)  -- R251 fe.ldk
  | feSt (o : Ord) (rs1 rs2 : XReg)  -- R251 fe.st
  | feStf (o : Ord) (rs1 rs2 : XReg)  -- R251 fe.stf
  | feClr (o : Ord) (rs1 : XReg)  -- R251 fe.clr
  | feTest (o : Ord) (rd rs1 : XReg)  -- R251 fe.test
  | edgePut (rl : Bool) (scope : BitVec 2) (rs1 rs2 : XReg)  -- R259 edge.put
  | edgePutv (rl : Bool) (scope : BitVec 2) (rs1 : XReg) (vs2 : VReg)  -- R259 edge.putv
  | edgeDone (rl : Bool) (scope : BitVec 2) (rs1 : XReg)  -- R259 edge.done
  | strSample (rd rs1 : XReg)  -- R264 str.sample
  | engWr (rs1 rs2 : XReg)  -- R229 eng.wr
  | engRd (rd rs1 : XReg)  -- R229 eng.rd
  | engSwap (rd rs1 rs2 : XReg)  -- R229 eng.swap
  | mxMma (o : Ord) (rd : XReg) (zc : ZReg)  -- R237 mx.mma
  | mxMmac (o : Ord) (rd : XReg) (zc : ZReg) (za : ZReg)  -- R238 mx.mmac
  | mxStore (o : Ord) (rd : XReg) (zc : ZReg)  -- R239 mx.store
  | cpGo (o : Ord) (rd rs1 rs2 : XReg)  -- R266 cp.go
  | cpGomx (o : Ord) (rd rs1 rs2 : XReg)  -- R270 cp.gomx
  | cpGath (o : Ord) (rd rs1 rs2 : XReg)  -- R266 cp.gath
  | cpScat (o : Ord) (rd rs1 rs2 : XReg)  -- R266 cp.scat
  | layGo (o : Ord) (rd rs1 rs2 : XReg)  -- R298 lay.go
  | dramReq (o : Ord) (rd rs1 rs2 : XReg)  -- R340 dram.req
  | dramReqv (o : Ord) (rd rs1 : XReg) (vs2 : VReg)  -- R340 dram.reqv
  | barArrive (o : Ord) (rd rs1 : XReg)  -- R283 bar.arrive
  | barJoin (o : Ord) (rd rs1 : XReg)  -- R283 bar.join
  | barLeave (o : Ord) (rs1 : XReg)  -- R283 bar.leave
  | barPhase (o : Ord) (rd rs1 : XReg)  -- R283 bar.phase
  | nbAddD (o : Ord) (rd rs1 rs2 : XReg)  -- R277 nb.add.d
  | nbAddW (o : Ord) (rd rs1 rs2 : XReg)  -- R277 nb.add.w
  | nbAddfD (o : Ord) (rd rs1 rs2 : XReg)  -- R278 nb.addf.d
  | nbAddfW (o : Ord) (rd rs1 rs2 : XReg)  -- R278 nb.addf.w
  | nbFaddD (o : Ord) (rd rs1 rs2 : XReg)  -- R277 nb.fadd.d
  | nbFaddW (o : Ord) (rd rs1 rs2 : XReg)  -- R277 nb.fadd.w
  | nbMinD (o : Ord) (rs1 rs2 : XReg)  -- R277 nb.min.d
  | nbMinW (o : Ord) (rs1 rs2 : XReg)  -- R277 nb.min.w
  | nbMaxD (o : Ord) (rs1 rs2 : XReg)  -- R277 nb.max.d
  | nbMaxW (o : Ord) (rs1 rs2 : XReg)  -- R277 nb.max.w
  | nbMinuD (o : Ord) (rs1 rs2 : XReg)  -- R277 nb.minu.d
  | nbMinuW (o : Ord) (rs1 rs2 : XReg)  -- R277 nb.minu.w
  | nbMaxuD (o : Ord) (rs1 rs2 : XReg)  -- R277 nb.maxu.d
  | nbMaxuW (o : Ord) (rs1 rs2 : XReg)  -- R277 nb.maxu.w
  | nbFminD (o : Ord) (rs1 rs2 : XReg)  -- R277 nb.fmin.d
  | nbFminW (o : Ord) (rs1 rs2 : XReg)  -- R277 nb.fmin.w
  | nbFmaxD (o : Ord) (rs1 rs2 : XReg)  -- R277 nb.fmax.d
  | nbFmaxW (o : Ord) (rs1 rs2 : XReg)  -- R277 nb.fmax.w
  | nbAndD (o : Ord) (rs1 rs2 : XReg)  -- R277 nb.and.d
  | nbAndW (o : Ord) (rs1 rs2 : XReg)  -- R277 nb.and.w
  | nbOrD (o : Ord) (rs1 rs2 : XReg)  -- R277 nb.or.d
  | nbOrW (o : Ord) (rs1 rs2 : XReg)  -- R277 nb.or.w
  | nbXorD (o : Ord) (rs1 rs2 : XReg)  -- R277 nb.xor.d
  | nbXorW (o : Ord) (rs1 rs2 : XReg)  -- R277 nb.xor.w
  | nbSwapD (o : Ord) (rd rs1 rs2 : XReg)  -- R277 nb.swap.d
  | nbSwapW (o : Ord) (rd rs1 rs2 : XReg)  -- R277 nb.swap.w
  | nbCasD (o : Ord) (rd rs1 rs2 : XReg)  -- R277 nb.cas.d
  | nbCasW (o : Ord) (rd rs1 rs2 : XReg)  -- R277 nb.cas.w
  | nbVaddD (o : Ord) (rs1 rs2 : XReg)  -- R279 nb.vadd.d
  | nbVaddW (o : Ord) (rs1 rs2 : XReg)  -- R279 nb.vadd.w
  | nbVfaddD (o : Ord) (rs1 rs2 : XReg)  -- R279 nb.vfadd.d
  | nbVfaddW (o : Ord) (rs1 rs2 : XReg)  -- R279 nb.vfadd.w
  | nbVfminD (o : Ord) (rs1 rs2 : XReg)  -- R279 nb.vfmin.d
  | nbVfminW (o : Ord) (rs1 rs2 : XReg)  -- R279 nb.vfmin.w
  | nbVfmaxD (o : Ord) (rs1 rs2 : XReg)  -- R279 nb.vfmax.d
  | nbVfmaxW (o : Ord) (rs1 rs2 : XReg)  -- R279 nb.vfmax.w
  | nbVandD (o : Ord) (rs1 rs2 : XReg)  -- R279 nb.vand.d
  | nbVandW (o : Ord) (rs1 rs2 : XReg)  -- R279 nb.vand.w
  | nbVorD (o : Ord) (rs1 rs2 : XReg)  -- R279 nb.vor.d
  | nbVorW (o : Ord) (rs1 rs2 : XReg)  -- R279 nb.vor.w
  | nbVxorD (o : Ord) (rs1 rs2 : XReg)  -- R279 nb.vxor.d
  | nbVxorW (o : Ord) (rs1 rs2 : XReg)  -- R279 nb.vxor.w
  | vadd (w : BitVec 2) (km : KReg) (vd vs1 vs2 : VReg)  -- R135 vadd
  | vsub (w : BitVec 2) (km : KReg) (vd vs1 vs2 : VReg)  -- R135 vsub
  | vmul (w : BitVec 2) (km : KReg) (vd vs1 vs2 : VReg)  -- R135 vmul
  | vmulh (w : BitVec 2) (km : KReg) (vd vs1 vs2 : VReg)  -- R135 vmulh
  | vmin (w : BitVec 2) (km : KReg) (vd vs1 vs2 : VReg)  -- R135 vmin
  | vminu (w : BitVec 2) (km : KReg) (vd vs1 vs2 : VReg)  -- R135 vminu
  | vmax (w : BitVec 2) (km : KReg) (vd vs1 vs2 : VReg)  -- R135 vmax
  | vmaxu (w : BitVec 2) (km : KReg) (vd vs1 vs2 : VReg)  -- R135 vmaxu
  | vand (w : BitVec 2) (km : KReg) (vd vs1 vs2 : VReg)  -- R135 vand
  | vor (w : BitVec 2) (km : KReg) (vd vs1 vs2 : VReg)  -- R135 vor
  | vxor (w : BitVec 2) (km : KReg) (vd vs1 vs2 : VReg)  -- R135 vxor
  | vsll (w : BitVec 2) (km : KReg) (vd vs1 vs2 : VReg)  -- R135 vsll
  | vsrl (w : BitVec 2) (km : KReg) (vd vs1 vs2 : VReg)  -- R135 vsrl
  | vsra (w : BitVec 2) (km : KReg) (vd vs1 vs2 : VReg)  -- R135 vsra
  | vfadd (w : BitVec 2) (km : KReg) (vd vs1 vs2 : VReg)  -- R136 vfadd
  | vfsub (w : BitVec 2) (km : KReg) (vd vs1 vs2 : VReg)  -- R136 vfsub
  | vfmul (w : BitVec 2) (km : KReg) (vd vs1 vs2 : VReg)  -- R136 vfmul
  | vfdiv (w : BitVec 2) (km : KReg) (vd vs1 vs2 : VReg)  -- R136 vfdiv
  | vfsqrt (w : BitVec 2) (km : KReg) (vd vs1 : VReg)  -- R136 vfsqrt
  | vfmin (w : BitVec 2) (km : KReg) (vd vs1 vs2 : VReg)  -- R137 vfmin
  | vfmax (w : BitVec 2) (km : KReg) (vd vs1 vs2 : VReg)  -- R137 vfmax
  | vfmadd (w : BitVec 2) (km : KReg) (vd vs1 vs2 : VReg)  -- R137 vfmadd
  | vfmsub (w : BitVec 2) (km : KReg) (vd vs1 vs2 : VReg)  -- R137 vfmsub
  | vfnmadd (w : BitVec 2) (km : KReg) (vd vs1 vs2 : VReg)  -- R137 vfnmadd
  | vfnmsub (w : BitVec 2) (km : KReg) (vd vs1 vs2 : VReg)  -- R137 vfnmsub
  | vfsgnj (w : BitVec 2) (km : KReg) (vd vs1 vs2 : VReg)  -- R137 vfsgnj
  | vfsgnjn (w : BitVec 2) (km : KReg) (vd vs1 vs2 : VReg)  -- R137 vfsgnjn
  | vfclass (w : BitVec 2) (km : KReg) (vd vs1 : VReg)  -- R138 vfclass
  | vcomp24 (w : BitVec 2) (km : KReg) (vd : VReg) (kx : KReg) (vs1 : VReg)  -- R153 vcomp24
  | vbaq (w : BitVec 1) (km : KReg) (vd vs1 vs2 : VReg)  -- R154 vbaq
  | vdot4 (w : BitVec 1) (km : KReg) (vd vs1 vs2 : VReg)  -- R156 vdot4
  | vcvtf (w : BitVec 2) (km : KReg) (src : BitVec 2) (vd vs1 : VReg)  -- R140 vcvtf
  | vcvti (w : BitVec 2) (km : KReg) (vd vs1 : VReg)  -- R141 vcvti
  | vcvtx (w : BitVec 2) (km : KReg) (vd vs1 : VReg)  -- R141 vcvtx
  | vtenc (w : BitVec 1) (km : KReg) (p : BitVec 2) (vd vs1 : VReg)  -- R142 vtenc
  | vtdec (w : BitVec 2) (km : KReg) (p : BitVec 2) (vd vs1 : VReg)  -- R142 vtdec
  | vrepkPack (km : KReg) (p : BitVec 2) (vd vs1 : VReg)  -- R142 vrepk.pack
  | vrepkUnpk (km : KReg) (p : BitVec 2) (vd vs1 : VReg)  -- R142 vrepk.unpk
  | vcmpeq (w : BitVec 2) (km : KReg) (kd : KReg) (vs1 vs2 : VReg)  -- R144 vcmpeq
  | vcmplt (w : BitVec 2) (km : KReg) (kd : KReg) (vs1 vs2 : VReg)  -- R144 vcmplt
  | vcmpltu (w : BitVec 2) (km : KReg) (kd : KReg) (vs1 vs2 : VReg)  -- R144 vcmpltu
  | vfcmpeq (w : BitVec 2) (km : KReg) (kd : KReg) (vs1 vs2 : VReg)  -- R144 vfcmpeq
  | vfcmplt (w : BitVec 2) (km : KReg) (kd : KReg) (vs1 vs2 : VReg)  -- R144 vfcmplt
  | kand (kd ka kb : KReg)  -- R145 kand
  | kor (kd ka kb : KReg)  -- R145 kor
  | kxor (kd ka kb : KReg)  -- R145 kxor
  | kmv (kd : KReg) (rs1 : XReg)  -- R145 kmv
  | vld (w : BitVec 2) (km : KReg) (vd : VReg) (rs1 : XReg)  -- R146 vld
  | vst (w : BitVec 2) (km : KReg) (vs3 : VReg) (rs1 : XReg)  -- R146 vst
  | vlds (w : BitVec 2) (km : KReg) (vd : VReg) (rs1 : XReg) (rs2 : XReg)  -- R146 vlds
  | vsts (w : BitVec 2) (km : KReg) (vs3 : VReg) (rs1 : XReg) (rs2 : XReg)  -- R146 vsts
  | vldx (w : BitVec 2) (km : KReg) (vd : VReg) (rs1 : XReg) (vs2 : VReg)  -- R146 vldx
  | vstx (w : BitVec 2) (km : KReg) (vs3 : VReg) (rs1 : XReg) (vs2 : VReg)  -- R146 vstx
  | vldb (w : BitVec 2) (km : KReg) (vd : VReg) (rs1 : XReg)  -- R146 vldb
  | kst (ks : KReg) (rs1 : XReg)  -- R146 kst
  | vperm (w : BitVec 2) (km : KReg) (vd vs1 vs2 : VReg)  -- R151 vperm
  | vslup (w : BitVec 2) (km : KReg) (vd vs1 : VReg) (rs2 : XReg)  -- R151 vslup
  | vsldn (w : BitVec 2) (km : KReg) (vd vs1 : VReg) (rs2 : XReg)  -- R151 vsldn
  | vzip (w : BitVec 2) (km : KReg) (vd vs1 vs2 : VReg)  -- R151 vzip
  | vuzp (w : BitVec 2) (km : KReg) (vd vs1 vs2 : VReg)  -- R151 vuzp
  | vsplat (w : BitVec 2) (km : KReg) (vd : VReg) (rs1 : XReg)  -- R151 vsplat
  | vredadd (w : BitVec 2) (km : KReg) (rd : XReg) (vs1 : VReg) (rs2 : XReg)  -- R152 vredadd
  | vfredadd (w : BitVec 2) (km : KReg) (rd : XReg) (vs1 : VReg) (rs2 : XReg)  -- R152 vfredadd
  | vfredmax (w : BitVec 2) (km : KReg) (rd : XReg) (vs1 : VReg) (rs2 : XReg)  -- R152 vfredmax
  | fence  -- R96 fence
  | fenceI  -- R96 fence.i
  | ecall  -- R96 ecall
  | ebreak  -- R96 ebreak
  | mret  -- R96 mret
  | sret  -- R96 sret
  | wfi  -- R96 wfi
  | taskEnd  -- R39 task.end
  | taskSelf0  -- R105 task.self
  | taskSelf1  -- R105 task.self
  | taskSelf2  -- R105 task.self
  | taskSelf3  -- R105 task.self
  | taskSelf4  -- R105 task.self
  | taskSelf5  -- R105 task.self
  | taskSelf6  -- R105 task.self
  | taskSelf7  -- R105 task.self
  | taskSelf8  -- R105 task.self
  | taskSelf9  -- R105 task.self
  | taskSelf10  -- R105 task.self
  | taskSelf11  -- R105 task.self
  | taskSelf12  -- R105 task.self
  | taskSelf13  -- R105 task.self
  | taskSelf14  -- R105 task.self
  | taskSelf15  -- R105 task.self
  | taskSelf16  -- R105 task.self
  | taskSelf17  -- R105 task.self
  | taskSelf18  -- R105 task.self
  | taskSelf19  -- R105 task.self
  | taskSelf20  -- R105 task.self
  | taskSelf21  -- R105 task.self
  | taskSelf22  -- R105 task.self
  | taskSelf23  -- R105 task.self
  | taskSelf24  -- R105 task.self
  | taskSelf25  -- R105 task.self
  | taskSelf26  -- R105 task.self
  | taskSelf27  -- R105 task.self
  | taskSelf28  -- R105 task.self
  | taskSelf29  -- R105 task.self
  | taskSelf30  -- R105 task.self
  | taskSelf31  -- R105 task.self
  | taskPrio0  -- R106 task.prio
  | taskPrio1  -- R106 task.prio
  | taskPrio2  -- R106 task.prio
  | taskPrio3  -- R106 task.prio
  | taskPrio4  -- R106 task.prio
  | taskPrio5  -- R106 task.prio
  | taskPrio6  -- R106 task.prio
  | taskPrio7  -- R106 task.prio
  | taskPrio8  -- R106 task.prio
  | taskPrio9  -- R106 task.prio
  | taskPrio10  -- R106 task.prio
  | taskPrio11  -- R106 task.prio
  | taskPrio12  -- R106 task.prio
  | taskPrio13  -- R106 task.prio
  | taskPrio14  -- R106 task.prio
  | taskPrio15  -- R106 task.prio
  | taskPrio16  -- R106 task.prio
  | taskPrio17  -- R106 task.prio
  | taskPrio18  -- R106 task.prio
  | taskPrio19  -- R106 task.prio
  | taskPrio20  -- R106 task.prio
  | taskPrio21  -- R106 task.prio
  | taskPrio22  -- R106 task.prio
  | taskPrio23  -- R106 task.prio
  | taskPrio24  -- R106 task.prio
  | taskPrio25  -- R106 task.prio
  | taskPrio26  -- R106 task.prio
  | taskPrio27  -- R106 task.prio
  | taskPrio28  -- R106 task.prio
  | taskPrio29  -- R106 task.prio
  | taskPrio30  -- R106 task.prio
  | taskPrio31  -- R106 task.prio
  | rcvBegin  -- R178 rcv.begin
  | rcvEnd  -- R178 rcv.end
  | rcvFail  -- R178 rcv.fail
  | txnRetry  -- R188 txn.retry
  | txnEnd  -- R178 txn.end
  | txnAbort  -- R178 txn.abort
  | sysFreeze  -- R127 sys.freeze
  | fenceScCore  -- R286 fence.sc
  | fenceScCluster  -- R286 fence.sc
  | fenceScDie  -- R286 fence.sc
  | fenceScWafer  -- R286 fence.sc
  | fenceEngCore  -- R271 fence.eng
  | fenceEngCluster  -- R271 fence.eng
  | fenceEngDie  -- R271 fence.eng
  | fenceEngWafer  -- R271 fence.eng
  | fenceMxCore  -- R245 fence.mx
  | fenceMxCluster  -- R245 fence.mx
  | fenceMxDie  -- R245 fence.mx
  | fenceMxWafer  -- R245 fence.mx
  | mxZero0  -- R242 mx.zero
  | mxZero1  -- R242 mx.zero
  | mxZero2  -- R242 mx.zero
  | mxZero3  -- R242 mx.zero
  | mxZero4  -- R242 mx.zero
  | mxZero5  -- R242 mx.zero
  | mxZero6  -- R242 mx.zero
  | mxZero7  -- R242 mx.zero
  | csrWrite  -- R21
  | gvfmtWrite  -- R22
  | gvcodesWrite  -- R30
  | gvfrmWrite  -- R28
  | gvundoWrite  -- R29
  | gvbudWrite  -- R33
  | xtvecWrite  -- R159
  | illegalInstruction  -- R67
  | interruptTaken  -- R165
  | stimerMatch  -- R164
  | budgetOverrun  -- R169
  | doomedRestart  -- R185
  | taskDispatch  -- R207
  | messageInject  -- R213
  | messageAccept  -- R110
  | tokenLanding  -- R260
  | creditReturn  -- R257
  | taggedTokenArrival  -- R262
  | tokenReinject  -- R262
  | scrubTick  -- R200
  | clusterScrubTick  -- R273
  | driftSample  -- R263
  | driftDrain  -- R329
  | driftCopy  -- R329
  | driftResume  -- R329
  | driftAbandon  -- R329
  | mxOpStart  -- R223
  | mxOpComplete  -- R223
  | cpCommandRun  -- R267
  | cpComplete  -- R269
  | layPass  -- R301
  | layComplete  -- R302
  | dramReqRun  -- R340
  | dramReqComplete  -- R341
  | dramRequestTaken  -- R336
  | dramHomePiece  -- R333
  | dramReply  -- R335
  | nbPortOp  -- R277
  | nbReply  -- R276
  | barUnitOp  -- R283
  | sysResultReturn  -- R122
  | scanPatternDone  -- R125
  | swapOut  -- R215
  | contextSave  -- R216
  | contextRestore  -- R221
  | clockChange  -- R214
  | configImage  -- R314
  | configStage  -- R313
  | configCommit  -- R314
  | launchPacket  -- R317
  | quiescenceWave  -- R324
  | watchdogFire  -- R352
  | resumeFault  -- R348
  | endFault  -- R348
  | setRoot  -- R344
  | invalidate  -- R349
  | saveArea  -- R344
  | watchdogInterval  -- R344
  | errorThreshold  -- R344
  | replicatePage  -- R391
  | movePage  -- R394
  | bindPort  -- R419
  | unknownCommand  -- R344
  | pageMoveCopy  -- R394
  | pageMoveDone  -- R394
  | replicaWrite  -- R392
  | removalRequest  -- R369
  | coreFailureDetected  -- R368
  | barchanCopySlot  -- R370
  | routerLookup  -- R380
  | combine  -- R381
  | releaseWriteApply  -- R387
  | appliedNotice  -- R387
  | acquireServe  -- R388
  | deadLinkDeclare  -- R400
  | linkStateUpdate  -- R401
  | linkRound  -- R402
  | regulatorFailure  -- R356
  | freezeAssert  -- R396
  | freezeStopped  -- R398
  | readOut  -- R399
  | thaw  -- R398
  | hostTokenIn  -- R415
  | hostTokenAck  -- R415
  | planakFailover  -- R415
  | bringUpCommand  -- R342
  | attestationRequest  -- R424
  | ueLaunchPacket  -- R418
  | ueBlockReceive  -- R420
  | ueTransmit  -- R420
  | ueChunkAck  -- R420
  | collectivePathFail  -- R422
  | collectiveRestart  -- R422
  | protectionTrip  -- R425
  | powerCap  -- R425
  | bringUp  -- R426
  | storeBufferDrain  -- R287
  | releaseAcknowledgement  -- R385
  | loadAcknowledgement  -- R314
  | loadAbort  -- R314
  | systemFormAtTarget  -- R123
  | collectiveFailed  -- R422
  | powerRemoved  -- R425
  | unknownFrameType  -- R414
  deriving DecidableEq, Repr

/-- `fence.sc` by its operand. -/
def Instr.fenceSc (r : BitVec 2) : Instr :=
  match r.toNat with
  | 0 => .fenceScCore
  | 1 => .fenceScCluster
  | 2 => .fenceScDie
  | _ => .fenceScWafer

/-- `fence.eng` by its operand. -/
def Instr.fenceEng (r : BitVec 2) : Instr :=
  match r.toNat with
  | 0 => .fenceEngCore
  | 1 => .fenceEngCluster
  | 2 => .fenceEngDie
  | _ => .fenceEngWafer

/-- `fence.mx` by its operand. -/
def Instr.fenceMx (r : BitVec 2) : Instr :=
  match r.toNat with
  | 0 => .fenceMxCore
  | 1 => .fenceMxCluster
  | 2 => .fenceMxDie
  | _ => .fenceMxWafer

/-- `mx.zero` by its operand. -/
def Instr.mxZero (r : ZReg) : Instr :=
  match r.toNat with
  | 0 => .mxZero0
  | 1 => .mxZero1
  | 2 => .mxZero2
  | 3 => .mxZero3
  | 4 => .mxZero4
  | 5 => .mxZero5
  | 6 => .mxZero6
  | _ => .mxZero7

/-- `task.self` by its operand. -/
def Instr.taskSelf (r : XReg) : Instr :=
  match r.toNat with
  | 0 => .taskSelf0
  | 1 => .taskSelf1
  | 2 => .taskSelf2
  | 3 => .taskSelf3
  | 4 => .taskSelf4
  | 5 => .taskSelf5
  | 6 => .taskSelf6
  | 7 => .taskSelf7
  | 8 => .taskSelf8
  | 9 => .taskSelf9
  | 10 => .taskSelf10
  | 11 => .taskSelf11
  | 12 => .taskSelf12
  | 13 => .taskSelf13
  | 14 => .taskSelf14
  | 15 => .taskSelf15
  | 16 => .taskSelf16
  | 17 => .taskSelf17
  | 18 => .taskSelf18
  | 19 => .taskSelf19
  | 20 => .taskSelf20
  | 21 => .taskSelf21
  | 22 => .taskSelf22
  | 23 => .taskSelf23
  | 24 => .taskSelf24
  | 25 => .taskSelf25
  | 26 => .taskSelf26
  | 27 => .taskSelf27
  | 28 => .taskSelf28
  | 29 => .taskSelf29
  | 30 => .taskSelf30
  | _ => .taskSelf31

/-- `task.prio` by its operand. -/
def Instr.taskPrio (r : XReg) : Instr :=
  match r.toNat with
  | 0 => .taskPrio0
  | 1 => .taskPrio1
  | 2 => .taskPrio2
  | 3 => .taskPrio3
  | 4 => .taskPrio4
  | 5 => .taskPrio5
  | 6 => .taskPrio6
  | 7 => .taskPrio7
  | 8 => .taskPrio8
  | 9 => .taskPrio9
  | 10 => .taskPrio10
  | 11 => .taskPrio11
  | 12 => .taskPrio12
  | 13 => .taskPrio13
  | 14 => .taskPrio14
  | 15 => .taskPrio15
  | 16 => .taskPrio16
  | 17 => .taskPrio17
  | 18 => .taskPrio18
  | 19 => .taskPrio19
  | 20 => .taskPrio20
  | 21 => .taskPrio21
  | 22 => .taskPrio22
  | 23 => .taskPrio23
  | 24 => .taskPrio24
  | 25 => .taskPrio25
  | 26 => .taskPrio26
  | 27 => .taskPrio27
  | 28 => .taskPrio28
  | 29 => .taskPrio29
  | 30 => .taskPrio30
  | _ => .taskPrio31

end Sys2Proof
end

