-- ==== Sys2Proof/Decode.lean ====
section
/-! DEFINITION. Instruction words: the published formats (R71), the GM and GV formats (R72, R73), the decoder (R66 to
R82), total on any word and rejecting by name, and after it the encoder written from the same encoding tables. -/
namespace Sys2Proof

/-- Why a word is no instruction. Every rejection raises cause 2 (R67); the names say which rule rejects. -/
inductive Illegal where
  /-- Bits 1:0 are not 0b11 (R66), or the bytes do not make a word. -/
  | notWord
  /-- A major opcode marked illegal (R68). -/
  | illegalMajor
  /-- An unassigned funct3, sub, op, funct7 or sel within an assigned major opcode (R70, R75). -/
  | unassigned
  /-- A reserved field or bit is set, or w or a source format is not listed (R74, R75). -/
  | reservedField
  deriving DecidableEq, Repr

/-- The fields of the published R format (R71); the other published formats are read from them. -/
structure RF where
  f7 : BitVec 7
  rs2 : BitVec 5
  rs1 : BitVec 5
  f3 : BitVec 3
  rd : BitVec 5
  deriving DecidableEq, Repr

/-- The fields of the GM format (R72). -/
structure GM where
  sub : BitVec 3
  scope : BitVec 2
  aq : Bool
  rl : Bool
  rs2 : BitVec 5
  rs1 : BitVec 5
  f3 : BitVec 3
  rd : BitVec 5
  deriving DecidableEq, Repr

/-- The fields of the GV format (R73). -/
structure GV where
  w : BitVec 2
  op : BitVec 5
  vs2 : BitVec 5
  vs1 : BitVec 5
  km : BitVec 3
  vd : BitVec 5
  deriving DecidableEq, Repr

def RF.split (w : IWord) : RF :=
  { f7 := w.extractLsb' 25 7, rs2 := w.extractLsb' 20 5, rs1 := w.extractLsb' 15 5,
    f3 := w.extractLsb' 12 3, rd := w.extractLsb' 7 5 }

def RF.join (op : BitVec 7) (r : RF) : IWord :=
  r.f7 ++ r.rs2 ++ r.rs1 ++ r.f3 ++ r.rd ++ op

def GM.split (w : IWord) : GM :=
  { sub := w.extractLsb' 29 3, scope := w.extractLsb' 27 2, aq := w.getLsbD 26, rl := w.getLsbD 25,
    rs2 := w.extractLsb' 20 5, rs1 := w.extractLsb' 15 5, f3 := w.extractLsb' 12 3, rd := w.extractLsb' 7 5 }

def GM.join (op : BitVec 7) (g : GM) : IWord :=
  g.sub ++ g.scope ++ BitVec.ofBool g.aq ++ BitVec.ofBool g.rl ++ g.rs2 ++ g.rs1 ++ g.f3 ++ g.rd ++ op

def GV.split (w : IWord) : GV :=
  { w := w.extractLsb' 30 2, op := w.extractLsb' 25 5, vs2 := w.extractLsb' 20 5, vs1 := w.extractLsb' 15 5,
    km := w.extractLsb' 12 3, vd := w.extractLsb' 7 5 }

def GV.join (op : BitVec 7) (g : GV) : IWord :=
  g.w ++ g.op ++ g.vs2 ++ g.vs1 ++ g.km ++ g.vd ++ op

def GM.ord (g : GM) : Ord := { aq := g.aq, rl := g.rl, scope := g.scope }

/-- imm[11:0] of the I format. -/
def RF.immI (r : RF) : BitVec 12 := r.f7 ++ r.rs2
/-- imm[11:0] of the S format. -/
def RF.immS (r : RF) : BitVec 12 := r.f7 ++ r.rd
/-- imm[12:1] of the B format. -/
def RF.immB (r : RF) : BitVec 12 :=
  r.f7.extractLsb' 6 1 ++ r.rd.extractLsb' 0 1 ++ r.f7.extractLsb' 0 6 ++ r.rd.extractLsb' 1 4
/-- The field 31:12 of the U and J formats. -/
def RF.immU (r : RF) : BitVec 20 := r.f7 ++ r.rs2 ++ r.rs1 ++ r.f3
/-- Six-bit shift amount of the 64-bit shifts. -/
def RF.shamt6 (r : RF) : BitVec 6 := r.f7.extractLsb' 0 1 ++ r.rs2
def RF.funct5 (r : RF) : BitVec 5 := r.f7.extractLsb' 2 5
def RF.aq (r : RF) : Bool := r.f7.getLsbD 1
def RF.rl (r : RF) : Bool := r.f7.getLsbD 0

/-- imm[20:1] of the J format from its field 31:12. -/
def jImm (u : BitVec 20) : BitVec 20 :=
  u.extractLsb' 19 1 ++ u.extractLsb' 0 8 ++ u.extractLsb' 8 1 ++ u.extractLsb' 9 10
/-- The J format's field 31:12 from imm[20:1]. -/
def jField (i : BitVec 20) : BitVec 20 :=
  i.extractLsb' 19 1 ++ i.extractLsb' 0 10 ++ i.extractLsb' 10 1 ++ i.extractLsb' 11 8
/-- The B format's bits 31:25 from imm[12:1]. -/
def bHi (i : BitVec 12) : BitVec 7 := i.extractLsb' 11 1 ++ i.extractLsb' 4 6
/-- The B format's bits 11:7 from imm[12:1]. -/
def bLo (i : BitVec 12) : BitVec 5 := i.extractLsb' 0 4 ++ i.extractLsb' 10 1
def amoField (f5 : BitVec 5) (aq rl : Bool) : BitVec 7 := f5 ++ BitVec.ofBool aq ++ BitVec.ofBool rl
def UF.join (op : BitVec 7) (imm : BitVec 20) (rd : BitVec 5) : IWord := imm ++ rd ++ op

/-- An instruction when its reserved fields are as R75 asks, else rejected. -/
def reservedUnless (ok : Bool) (i : Instr) : Except Illegal Instr :=
  if ok then .ok i else .error .reservedField

/-- An instruction when its selecting fields match, else the next candidate. -/
def chosenWhen (sel : Bool) (i : Instr) (rest : Except Illegal Instr) : Except Illegal Instr :=
  if sel then .ok i else rest

/-- Major opcode 0x03 (R69). -/
def decodeLoad (r : RF) : Except Illegal Instr :=
  match r.f3 with
  | 0 =>
    .ok (.lb r.rd r.rs1 r.immI)
  | 1 =>
    .ok (.lh r.rd r.rs1 r.immI)
  | 2 =>
    .ok (.lw r.rd r.rs1 r.immI)
  | 3 =>
    .ok (.ld r.rd r.rs1 r.immI)
  | 4 =>
    .ok (.lbu r.rd r.rs1 r.immI)
  | 5 =>
    .ok (.lhu r.rd r.rs1 r.immI)
  | 6 =>
    .ok (.lwu r.rd r.rs1 r.immI)
  | _ => .error .unassigned

/-- Major opcode 0x0F (R69). -/
def decodeMiscMem (r : RF) : Except Illegal Instr :=
  match r.f3 with
  | 0 =>
    .ok (.fence)
  | 1 =>
    .ok (.fenceI)
  | _ => .error .unassigned

/-- Major opcode 0x13 (R69). -/
def decodeOpImm (r : RF) : Except Illegal Instr :=
  match r.f3 with
  | 0 =>
    .ok (.addi r.rd r.rs1 r.immI)
  | 1 =>
    chosenWhen (decide (r.f7.extractLsb' 1 6 = 0)) (.slli r.rd r.rs1 r.shamt6)
      (.error .unassigned)
  | 2 =>
    .ok (.slti r.rd r.rs1 r.immI)
  | 3 =>
    .ok (.sltiu r.rd r.rs1 r.immI)
  | 4 =>
    .ok (.xori r.rd r.rs1 r.immI)
  | 5 =>
    chosenWhen (decide (r.f7.extractLsb' 1 6 = 0)) (.srli r.rd r.rs1 r.shamt6)
      (chosenWhen (decide (r.f7.extractLsb' 1 6 = 16)) (.srai r.rd r.rs1 r.shamt6)
      (.error .unassigned))
  | 6 =>
    .ok (.ori r.rd r.rs1 r.immI)
  | 7 =>
    .ok (.andi r.rd r.rs1 r.immI)

/-- Major opcode 0x1B (R69). -/
def decodeOpImm32 (r : RF) : Except Illegal Instr :=
  match r.f3 with
  | 0 =>
    .ok (.addiw r.rd r.rs1 r.immI)
  | 1 =>
    chosenWhen (decide (r.f7 = 0)) (.slliw r.rd r.rs1 r.rs2)
      (.error .unassigned)
  | 5 =>
    chosenWhen (decide (r.f7 = 0)) (.srliw r.rd r.rs1 r.rs2)
      (chosenWhen (decide (r.f7 = 32)) (.sraiw r.rd r.rs1 r.rs2)
      (.error .unassigned))
  | _ => .error .unassigned

/-- Major opcode 0x23 (R69). -/
def decodeStore (r : RF) : Except Illegal Instr :=
  match r.f3 with
  | 0 =>
    .ok (.sb r.rs2 r.rs1 r.immS)
  | 1 =>
    .ok (.sh r.rs2 r.rs1 r.immS)
  | 2 =>
    .ok (.sw r.rs2 r.rs1 r.immS)
  | 3 =>
    .ok (.sd r.rs2 r.rs1 r.immS)
  | _ => .error .unassigned

/-- Major opcode 0x2F (R69). -/
def decodeAmo (r : RF) : Except Illegal Instr :=
  match r.f3 with
  | 2 =>
    chosenWhen (decide (r.funct5 = 1)) (.amoswapW r.aq r.rl r.rd r.rs1 r.rs2)
      (chosenWhen (decide (r.funct5 = 0)) (.amoaddW r.aq r.rl r.rd r.rs1 r.rs2)
      (chosenWhen (decide (r.funct5 = 4)) (.amoxorW r.aq r.rl r.rd r.rs1 r.rs2)
      (chosenWhen (decide (r.funct5 = 12)) (.amoandW r.aq r.rl r.rd r.rs1 r.rs2)
      (chosenWhen (decide (r.funct5 = 8)) (.amoorW r.aq r.rl r.rd r.rs1 r.rs2)
      (chosenWhen (decide (r.funct5 = 16)) (.amominW r.aq r.rl r.rd r.rs1 r.rs2)
      (chosenWhen (decide (r.funct5 = 20)) (.amomaxW r.aq r.rl r.rd r.rs1 r.rs2)
      (chosenWhen (decide (r.funct5 = 24)) (.amominuW r.aq r.rl r.rd r.rs1 r.rs2)
      (chosenWhen (decide (r.funct5 = 28)) (.amomaxuW r.aq r.rl r.rd r.rs1 r.rs2)
      (chosenWhen (decide (r.funct5 = 2) && decide (r.rs2 = 0)) (.lrW r.aq r.rl r.rd r.rs1)
      (chosenWhen (decide (r.funct5 = 3)) (.scW r.aq r.rl r.rd r.rs1 r.rs2)
      (.error .unassigned)))))))))))
  | 3 =>
    chosenWhen (decide (r.funct5 = 1)) (.amoswapD r.aq r.rl r.rd r.rs1 r.rs2)
      (chosenWhen (decide (r.funct5 = 0)) (.amoaddD r.aq r.rl r.rd r.rs1 r.rs2)
      (chosenWhen (decide (r.funct5 = 4)) (.amoxorD r.aq r.rl r.rd r.rs1 r.rs2)
      (chosenWhen (decide (r.funct5 = 12)) (.amoandD r.aq r.rl r.rd r.rs1 r.rs2)
      (chosenWhen (decide (r.funct5 = 8)) (.amoorD r.aq r.rl r.rd r.rs1 r.rs2)
      (chosenWhen (decide (r.funct5 = 16)) (.amominD r.aq r.rl r.rd r.rs1 r.rs2)
      (chosenWhen (decide (r.funct5 = 20)) (.amomaxD r.aq r.rl r.rd r.rs1 r.rs2)
      (chosenWhen (decide (r.funct5 = 24)) (.amominuD r.aq r.rl r.rd r.rs1 r.rs2)
      (chosenWhen (decide (r.funct5 = 28)) (.amomaxuD r.aq r.rl r.rd r.rs1 r.rs2)
      (chosenWhen (decide (r.funct5 = 2) && decide (r.rs2 = 0)) (.lrD r.aq r.rl r.rd r.rs1)
      (chosenWhen (decide (r.funct5 = 3)) (.scD r.aq r.rl r.rd r.rs1 r.rs2)
      (.error .unassigned)))))))))))
  | _ => .error .unassigned

/-- Major opcode 0x33 (R69). -/
def decodeOp (r : RF) : Except Illegal Instr :=
  match r.f3 with
  | 0 =>
    chosenWhen (decide (r.f7 = 0)) (.add r.rd r.rs1 r.rs2)
      (chosenWhen (decide (r.f7 = 32)) (.sub r.rd r.rs1 r.rs2)
      (chosenWhen (decide (r.f7 = 1)) (.mul r.rd r.rs1 r.rs2)
      (.error .unassigned)))
  | 1 =>
    chosenWhen (decide (r.f7 = 0)) (.sll r.rd r.rs1 r.rs2)
      (chosenWhen (decide (r.f7 = 1)) (.mulh r.rd r.rs1 r.rs2)
      (.error .unassigned))
  | 2 =>
    chosenWhen (decide (r.f7 = 0)) (.slt r.rd r.rs1 r.rs2)
      (chosenWhen (decide (r.f7 = 1)) (.mulhsu r.rd r.rs1 r.rs2)
      (.error .unassigned))
  | 3 =>
    chosenWhen (decide (r.f7 = 0)) (.sltu r.rd r.rs1 r.rs2)
      (chosenWhen (decide (r.f7 = 1)) (.mulhu r.rd r.rs1 r.rs2)
      (.error .unassigned))
  | 4 =>
    chosenWhen (decide (r.f7 = 0)) (.xor r.rd r.rs1 r.rs2)
      (chosenWhen (decide (r.f7 = 1)) (.div r.rd r.rs1 r.rs2)
      (.error .unassigned))
  | 5 =>
    chosenWhen (decide (r.f7 = 0)) (.srl r.rd r.rs1 r.rs2)
      (chosenWhen (decide (r.f7 = 32)) (.sra r.rd r.rs1 r.rs2)
      (chosenWhen (decide (r.f7 = 1)) (.divu r.rd r.rs1 r.rs2)
      (.error .unassigned)))
  | 6 =>
    chosenWhen (decide (r.f7 = 0)) (.or r.rd r.rs1 r.rs2)
      (chosenWhen (decide (r.f7 = 1)) (.rem r.rd r.rs1 r.rs2)
      (.error .unassigned))
  | 7 =>
    chosenWhen (decide (r.f7 = 0)) (.and r.rd r.rs1 r.rs2)
      (chosenWhen (decide (r.f7 = 1)) (.remu r.rd r.rs1 r.rs2)
      (.error .unassigned))

/-- Major opcode 0x3B (R69). -/
def decodeOp32 (r : RF) : Except Illegal Instr :=
  match r.f3 with
  | 0 =>
    chosenWhen (decide (r.f7 = 0)) (.addw r.rd r.rs1 r.rs2)
      (chosenWhen (decide (r.f7 = 32)) (.subw r.rd r.rs1 r.rs2)
      (chosenWhen (decide (r.f7 = 1)) (.mulw r.rd r.rs1 r.rs2)
      (.error .unassigned)))
  | 1 =>
    chosenWhen (decide (r.f7 = 0)) (.sllw r.rd r.rs1 r.rs2)
      (.error .unassigned)
  | 4 =>
    chosenWhen (decide (r.f7 = 1)) (.divw r.rd r.rs1 r.rs2)
      (.error .unassigned)
  | 5 =>
    chosenWhen (decide (r.f7 = 0)) (.srlw r.rd r.rs1 r.rs2)
      (chosenWhen (decide (r.f7 = 32)) (.sraw r.rd r.rs1 r.rs2)
      (chosenWhen (decide (r.f7 = 1)) (.divuw r.rd r.rs1 r.rs2)
      (.error .unassigned)))
  | 6 =>
    chosenWhen (decide (r.f7 = 1)) (.remw r.rd r.rs1 r.rs2)
      (.error .unassigned)
  | 7 =>
    chosenWhen (decide (r.f7 = 1)) (.remuw r.rd r.rs1 r.rs2)
      (.error .unassigned)
  | _ => .error .unassigned

/-- Major opcode 0x63 (R69). -/
def decodeBranch (r : RF) : Except Illegal Instr :=
  match r.f3 with
  | 0 =>
    .ok (.beq r.rs1 r.rs2 r.immB)
  | 1 =>
    .ok (.bne r.rs1 r.rs2 r.immB)
  | 4 =>
    .ok (.blt r.rs1 r.rs2 r.immB)
  | 5 =>
    .ok (.bge r.rs1 r.rs2 r.immB)
  | 6 =>
    .ok (.bltu r.rs1 r.rs2 r.immB)
  | 7 =>
    .ok (.bgeu r.rs1 r.rs2 r.immB)
  | _ => .error .unassigned

/-- Major opcode 0x73 (R69). -/
def decodeSystem (r : RF) : Except Illegal Instr :=
  match r.f3 with
  | 0 =>
    chosenWhen (decide (r.f7 = 0) && decide (r.rs2 = 0) && decide (r.rs1 = 0) && decide (r.rd = 0)) (.ecall)
      (chosenWhen (decide (r.f7 = 0) && decide (r.rs2 = 1) && decide (r.rs1 = 0) && decide (r.rd = 0)) (.ebreak)
      (chosenWhen (decide (r.f7 = 24) && decide (r.rs2 = 2) && decide (r.rs1 = 0) && decide (r.rd = 0)) (.mret)
      (chosenWhen (decide (r.f7 = 8) && decide (r.rs2 = 2) && decide (r.rs1 = 0) && decide (r.rd = 0)) (.sret)
      (chosenWhen (decide (r.f7 = 8) && decide (r.rs2 = 5) && decide (r.rs1 = 0) && decide (r.rd = 0)) (.wfi)
      (chosenWhen (decide (r.f7 = 9) && decide (r.rd = 0)) (.sfenceVma r.rs1 r.rs2)
      (.error .unassigned))))))
  | 1 =>
    .ok (.csrrw r.rd r.immI r.rs1)
  | 2 =>
    .ok (.csrrs r.rd r.immI r.rs1)
  | 3 =>
    .ok (.csrrc r.rd r.immI r.rs1)
  | 5 =>
    .ok (.csrrwi r.rd r.immI r.rs1)
  | 6 =>
    .ok (.csrrsi r.rd r.immI r.rs1)
  | 7 =>
    .ok (.csrrci r.rd r.immI r.rs1)
  | _ => .error .unassigned

/-- Major opcode 0x0B (R77, R78, R79). -/
def decodeControl (g : GM) : Except Illegal Instr :=
  match g.f3, g.sub with
  | 0, 0 => reservedUnless (decide (g.rd = 0) && decide (g.rs1 = 0) && decide (g.rs2 = 0) && decide (g.aq = false) && decide (g.rl = false) && decide (g.scope = 0)) (.taskEnd)
  | 0, 1 => reservedUnless (decide (g.rd = 0) && decide (g.rs2 = 0) && decide (g.aq = false) && decide (g.rl = false) && decide (g.scope = 0)) (.taskChain g.rs1)
  | 0, 2 => reservedUnless (decide (g.rd = 0) && decide (g.rs2 = 0) && decide (g.aq = false)) (.taskSpawn g.rl g.scope g.rs1)
  | 0, 3 => reservedUnless (decide (g.rd = 0) && decide (g.rs2 = 0) && decide (g.aq = false) && decide (g.rl = false) && decide (g.scope = 0)) (.taskJoin g.rs1)
  | 0, 4 => reservedUnless (decide (g.rs1 = 0) && decide (g.rs2 = 0) && decide (g.aq = false) && decide (g.rl = false) && decide (g.scope = 0)) (.taskSelf g.rd)
  | 0, 5 => reservedUnless (decide (g.rd = 0) && decide (g.rs2 = 0) && decide (g.aq = false) && decide (g.rl = false) && decide (g.scope = 0)) (.taskPrio g.rs1)
  | 1, 0 => reservedUnless (decide (g.rd = 0) && decide (g.aq = false)) (.msgSend g.rl g.scope g.rs1 g.rs2)
  | 1, 1 => reservedUnless (decide (g.rd = 0) && decide (g.aq = false)) (.msgSendl g.rl g.scope g.rs1 g.rs2)
  | 1, 2 => reservedUnless (decide (g.rd = 0) && decide (g.aq = false)) (.msgReply g.rl g.scope g.rs1 g.rs2)
  | 1, 3 => reservedUnless (decide (g.rd = 0) && decide (g.aq = false)) (.msgFwd g.rl g.scope g.rs1 g.rs2)
  | 2, 0 => reservedUnless (decide (g.aq = false) && decide (g.rl = false) && decide (g.scope = 0)) (.capMint g.rd g.rs1 g.rs2)
  | 2, 1 => reservedUnless (decide (g.aq = false) && decide (g.rl = false) && decide (g.scope = 0)) (.capNarrow g.rd g.rs1 g.rs2)
  | 2, 2 => reservedUnless (decide (g.aq = false) && decide (g.rl = false) && decide (g.scope = 0)) (.capCheck g.rd g.rs1 g.rs2)
  | 3, 0 => reservedUnless (decide (g.rd = 0) && decide (g.rs1 = 0) && decide (g.rs2 = 0) && decide (g.aq = false) && decide (g.rl = false) && decide (g.scope = 0)) (.rcvBegin)
  | 3, 1 => reservedUnless (decide (g.rd = 0) && decide (g.rs2 = 0) && decide (g.aq = false) && decide (g.rl = false) && decide (g.scope = 0)) (.rcvPreserve g.rs1)
  | 3, 2 => reservedUnless (decide (g.rd = 0) && decide (g.rs1 = 0) && decide (g.rs2 = 0) && decide (g.aq = false) && decide (g.rl = false) && decide (g.scope = 0)) (.rcvEnd)
  | 3, 3 => reservedUnless (decide (g.rd = 0) && decide (g.rs1 = 0) && decide (g.rs2 = 0) && decide (g.aq = false) && decide (g.rl = false) && decide (g.scope = 0)) (.rcvFail)
  | 4, 0 => reservedUnless (decide (g.rd = 0) && decide (g.rs2 = 0) && decide (g.aq = false) && decide (g.rl = false) && decide (g.scope = 0)) (.txnBegin g.rs1)
  | 4, 1 => reservedUnless (decide (g.rd = 0) && decide (g.rs1 = 0) && decide (g.rs2 = 0) && decide (g.aq = false) && decide (g.rl = false) && decide (g.scope = 0)) (.txnRetry)
  | 4, 2 => reservedUnless (decide (g.rd = 0) && decide (g.rs2 = 0) && decide (g.aq = false) && decide (g.rl = false) && decide (g.scope = 0)) (.txnElse g.rs1)
  | 4, 3 => reservedUnless (decide (g.rd = 0) && decide (g.rs1 = 0) && decide (g.rs2 = 0) && decide (g.aq = false) && decide (g.rl = false) && decide (g.scope = 0)) (.txnEnd)
  | 4, 4 => reservedUnless (decide (g.rd = 0) && decide (g.rs1 = 0) && decide (g.rs2 = 0) && decide (g.aq = false) && decide (g.rl = false) && decide (g.scope = 0)) (.txnAbort)
  | 5, 0 => reservedUnless (decide (g.rd = 0) && decide (g.rs1 = 0) && decide (g.rs2 = 0) && decide (g.aq = false) && decide (g.rl = false) && decide (g.scope = 0)) (.sysFreeze)
  | 5, 1 => reservedUnless (decide (g.rd = 0) && decide (g.rs2 = 0) && decide (g.aq = false) && decide (g.rl = false) && decide (g.scope = 0)) (.sysHalt g.rs1)
  | 5, 2 => reservedUnless (decide (g.rd = 0) && decide (g.rs2 = 0) && decide (g.aq = false) && decide (g.rl = false) && decide (g.scope = 0)) (.sysResume g.rs1)
  | 5, 3 => reservedUnless (decide (g.aq = false) && decide (g.rl = false) && decide (g.scope = 0)) (.sysInspect g.rd g.rs1 g.rs2)
  | 5, 4 => reservedUnless (decide (g.rs2 = 0) && decide (g.aq = false) && decide (g.rl = false) && decide (g.scope = 0)) (.sysScan g.rd g.rs1)
  | 5, 5 => reservedUnless (decide (g.rs2 = 0) && decide (g.aq = false) && decide (g.rl = false) && decide (g.scope = 0)) (.sysSig g.rd g.rs1)
  | 5, 6 => reservedUnless (decide (g.rd = 0) && decide (g.aq = false) && decide (g.rl = false) && decide (g.scope = 0)) (.sysRemap g.rs1 g.rs2)
  | 5, 7 => reservedUnless (decide (g.rd = 0) && decide (g.aq = false) && decide (g.rl = false) && decide (g.scope = 0)) (.sysInject g.rs1 g.rs2)
  | _, _ => .error .unassigned

/-- Major opcode 0x2B (R77, R78, R79). -/
def decodeEngine (g : GM) : Except Illegal Instr :=
  match g.f3, g.sub with
  | 0, 0 => reservedUnless (decide (g.rs2 = 0)) (.feLd g.ord g.rd g.rs1)
  | 0, 1 => reservedUnless (decide (g.rs2 = 0)) (.feLdk g.ord g.rd g.rs1)
  | 0, 2 => reservedUnless (decide (g.rd = 0)) (.feSt g.ord g.rs1 g.rs2)
  | 0, 3 => reservedUnless (decide (g.rd = 0)) (.feStf g.ord g.rs1 g.rs2)
  | 0, 4 => reservedUnless (decide (g.rd = 0) && decide (g.rs2 = 0)) (.feClr g.ord g.rs1)
  | 0, 5 => reservedUnless (decide (g.rs2 = 0)) (.feTest g.ord g.rd g.rs1)
  | 1, 0 => reservedUnless (decide (g.rd = 0) && decide (g.aq = false)) (.edgePut g.rl g.scope g.rs1 g.rs2)
  | 1, 1 => reservedUnless (decide (g.rd = 0) && decide (g.aq = false)) (.edgePutv g.rl g.scope g.rs1 g.rs2)
  | 1, 2 => reservedUnless (decide (g.rd = 0) && decide (g.rs2 = 0) && decide (g.aq = false)) (.edgeDone g.rl g.scope g.rs1)
  | 1, 3 => reservedUnless (decide (g.rs2 = 0) && decide (g.aq = false) && decide (g.rl = false) && decide (g.scope = 0)) (.strSample g.rd g.rs1)
  | 1, 4 => reservedUnless (decide (g.rd = 0) && decide (g.rs1 = 0) && decide (g.rs2 = 0) && decide (g.aq = false) && decide (g.rl = false)) (.fenceSc g.scope)
  | 1, 5 => reservedUnless (decide (g.rd = 0) && decide (g.rs1 = 0) && decide (g.rs2 = 0) && decide (g.aq = false) && decide (g.rl = false)) (.fenceEng g.scope)
  | 1, 6 => reservedUnless (decide (g.rd = 0) && decide (g.rs1 = 0) && decide (g.rs2 = 0) && decide (g.aq = false) && decide (g.rl = false)) (.fenceMx g.scope)
  | 2, 0 => reservedUnless (decide (g.rd = 0) && decide (g.aq = false) && decide (g.rl = false) && decide (g.scope = 0)) (.engWr g.rs1 g.rs2)
  | 2, 1 => reservedUnless (decide (g.rs2 = 0) && decide (g.aq = false) && decide (g.rl = false) && decide (g.scope = 0)) (.engRd g.rd g.rs1)
  | 2, 2 => reservedUnless (decide (g.aq = false) && decide (g.rl = false) && decide (g.scope = 0)) (.engSwap g.rd g.rs1 g.rs2)
  | 2, 3 => reservedUnless (decide (g.rs1 = 0) && decide (g.rs2.extractLsb' 3 2 = 0)) (.mxMma g.ord g.rd (g.rs2.extractLsb' 0 3))
  | 2, 4 => reservedUnless (decide (g.rs2.extractLsb' 3 2 = 0) && decide (g.rs1.extractLsb' 3 2 = 0)) (.mxMmac g.ord g.rd (g.rs2.extractLsb' 0 3) (g.rs1.extractLsb' 0 3))
  | 2, 5 => reservedUnless (decide (g.rs1 = 0) && decide (g.rs2.extractLsb' 3 2 = 0)) (.mxStore g.ord g.rd (g.rs2.extractLsb' 0 3))
  | 2, 6 => reservedUnless (decide (g.rd = 0) && decide (g.rs1 = 0) && decide (g.rs2.extractLsb' 3 2 = 0) && decide (g.aq = false) && decide (g.rl = false) && decide (g.scope = 0)) (.mxZero (g.rs2.extractLsb' 0 3))
  | 3, 0 => .ok (.cpGo g.ord g.rd g.rs1 g.rs2)
  | 3, 1 => .ok (.cpGomx g.ord g.rd g.rs1 g.rs2)
  | 3, 2 => .ok (.cpGath g.ord g.rd g.rs1 g.rs2)
  | 3, 3 => .ok (.cpScat g.ord g.rd g.rs1 g.rs2)
  | 3, 4 => .ok (.layGo g.ord g.rd g.rs1 g.rs2)
  | 3, 5 => .ok (.dramReq g.ord g.rd g.rs1 g.rs2)
  | 3, 6 => .ok (.dramReqv g.ord g.rd g.rs1 g.rs2)
  | 4, 0 => .ok (.nbAddD g.ord g.rd g.rs1 g.rs2)
  | 4, 1 => .ok (.nbAddfD g.ord g.rd g.rs1 g.rs2)
  | 4, 2 => .ok (.nbFaddD g.ord g.rd g.rs1 g.rs2)
  | 4, 3 => if g.rd = 0 then .ok (.nbMinD g.ord g.rs1 g.rs2)
    else if g.rd = 1 then .ok (.nbMaxD g.ord g.rs1 g.rs2)
    else if g.rd = 2 then .ok (.nbMinuD g.ord g.rs1 g.rs2)
    else if g.rd = 3 then .ok (.nbMaxuD g.ord g.rs1 g.rs2)
    else if g.rd = 4 then .ok (.nbFminD g.ord g.rs1 g.rs2)
    else if g.rd = 5 then .ok (.nbFmaxD g.ord g.rs1 g.rs2)
    else .error .unassigned
  | 4, 4 => if g.rd = 0 then .ok (.nbAndD g.ord g.rs1 g.rs2)
    else if g.rd = 1 then .ok (.nbOrD g.ord g.rs1 g.rs2)
    else if g.rd = 2 then .ok (.nbXorD g.ord g.rs1 g.rs2)
    else .error .unassigned
  | 4, 5 => .ok (.nbSwapD g.ord g.rd g.rs1 g.rs2)
  | 4, 6 => .ok (.nbCasD g.ord g.rd g.rs1 g.rs2)
  | 4, 7 => if g.rd = 0 then .ok (.nbVaddD g.ord g.rs1 g.rs2)
    else if g.rd = 1 then .ok (.nbVfaddD g.ord g.rs1 g.rs2)
    else if g.rd = 2 then .ok (.nbVfminD g.ord g.rs1 g.rs2)
    else if g.rd = 3 then .ok (.nbVfmaxD g.ord g.rs1 g.rs2)
    else if g.rd = 4 then .ok (.nbVandD g.ord g.rs1 g.rs2)
    else if g.rd = 5 then .ok (.nbVorD g.ord g.rs1 g.rs2)
    else if g.rd = 6 then .ok (.nbVxorD g.ord g.rs1 g.rs2)
    else .error .unassigned
  | 5, 0 => .ok (.nbAddW g.ord g.rd g.rs1 g.rs2)
  | 5, 1 => .ok (.nbAddfW g.ord g.rd g.rs1 g.rs2)
  | 5, 2 => .ok (.nbFaddW g.ord g.rd g.rs1 g.rs2)
  | 5, 3 => if g.rd = 0 then .ok (.nbMinW g.ord g.rs1 g.rs2)
    else if g.rd = 1 then .ok (.nbMaxW g.ord g.rs1 g.rs2)
    else if g.rd = 2 then .ok (.nbMinuW g.ord g.rs1 g.rs2)
    else if g.rd = 3 then .ok (.nbMaxuW g.ord g.rs1 g.rs2)
    else if g.rd = 4 then .ok (.nbFminW g.ord g.rs1 g.rs2)
    else if g.rd = 5 then .ok (.nbFmaxW g.ord g.rs1 g.rs2)
    else .error .unassigned
  | 5, 4 => if g.rd = 0 then .ok (.nbAndW g.ord g.rs1 g.rs2)
    else if g.rd = 1 then .ok (.nbOrW g.ord g.rs1 g.rs2)
    else if g.rd = 2 then .ok (.nbXorW g.ord g.rs1 g.rs2)
    else .error .unassigned
  | 5, 5 => .ok (.nbSwapW g.ord g.rd g.rs1 g.rs2)
  | 5, 6 => .ok (.nbCasW g.ord g.rd g.rs1 g.rs2)
  | 5, 7 => if g.rd = 0 then .ok (.nbVaddW g.ord g.rs1 g.rs2)
    else if g.rd = 1 then .ok (.nbVfaddW g.ord g.rs1 g.rs2)
    else if g.rd = 2 then .ok (.nbVfminW g.ord g.rs1 g.rs2)
    else if g.rd = 3 then .ok (.nbVfmaxW g.ord g.rs1 g.rs2)
    else if g.rd = 4 then .ok (.nbVandW g.ord g.rs1 g.rs2)
    else if g.rd = 5 then .ok (.nbVorW g.ord g.rs1 g.rs2)
    else if g.rd = 6 then .ok (.nbVxorW g.ord g.rs1 g.rs2)
    else .error .unassigned
  | 6, 0 => reservedUnless (decide (g.rs2 = 0)) (.barArrive g.ord g.rd g.rs1)
  | 6, 1 => reservedUnless (decide (g.rs2 = 0)) (.barJoin g.ord g.rd g.rs1)
  | 6, 2 => reservedUnless (decide (g.rd = 0) && decide (g.rs2 = 0)) (.barLeave g.ord g.rs1)
  | 6, 3 => reservedUnless (decide (g.rs2 = 0)) (.barPhase g.ord g.rd g.rs1)
  | _, _ => .error .unassigned

/-- Major opcode 0x5B (R81, R82). -/
def decodeVecArith (g : GV) : Except Illegal Instr :=
  match g.op with
  | 0 => .ok (.vadd g.w g.km g.vd g.vs1 g.vs2)
  | 1 => .ok (.vsub g.w g.km g.vd g.vs1 g.vs2)
  | 2 => .ok (.vmul g.w g.km g.vd g.vs1 g.vs2)
  | 3 => .ok (.vmulh g.w g.km g.vd g.vs1 g.vs2)
  | 4 => .ok (.vmin g.w g.km g.vd g.vs1 g.vs2)
  | 5 => .ok (.vminu g.w g.km g.vd g.vs1 g.vs2)
  | 6 => .ok (.vmax g.w g.km g.vd g.vs1 g.vs2)
  | 7 => .ok (.vmaxu g.w g.km g.vd g.vs1 g.vs2)
  | 8 => .ok (.vand g.w g.km g.vd g.vs1 g.vs2)
  | 9 => .ok (.vor g.w g.km g.vd g.vs1 g.vs2)
  | 10 => .ok (.vxor g.w g.km g.vd g.vs1 g.vs2)
  | 11 => .ok (.vsll g.w g.km g.vd g.vs1 g.vs2)
  | 12 => .ok (.vsrl g.w g.km g.vd g.vs1 g.vs2)
  | 13 => .ok (.vsra g.w g.km g.vd g.vs1 g.vs2)
  | 14 => .ok (.vfadd g.w g.km g.vd g.vs1 g.vs2)
  | 15 => .ok (.vfsub g.w g.km g.vd g.vs1 g.vs2)
  | 16 => .ok (.vfmul g.w g.km g.vd g.vs1 g.vs2)
  | 17 => .ok (.vfdiv g.w g.km g.vd g.vs1 g.vs2)
  | 18 => reservedUnless (decide (g.vs2 = 0)) (.vfsqrt g.w g.km g.vd g.vs1)
  | 19 => .ok (.vfmin g.w g.km g.vd g.vs1 g.vs2)
  | 20 => .ok (.vfmax g.w g.km g.vd g.vs1 g.vs2)
  | 21 => .ok (.vfmadd g.w g.km g.vd g.vs1 g.vs2)
  | 22 => .ok (.vfmsub g.w g.km g.vd g.vs1 g.vs2)
  | 23 => .ok (.vfnmadd g.w g.km g.vd g.vs1 g.vs2)
  | 24 => .ok (.vfnmsub g.w g.km g.vd g.vs1 g.vs2)
  | 25 => .ok (.vfsgnj g.w g.km g.vd g.vs1 g.vs2)
  | 26 => .ok (.vfsgnjn g.w g.km g.vd g.vs1 g.vs2)
  | 27 => reservedUnless (decide (g.vs2 = 0)) (.vfclass g.w g.km g.vd g.vs1)
  | 28 => reservedUnless (decide (g.vs2.extractLsb' 3 2 = 0)) (.vcomp24 g.w g.km g.vd (g.vs2.extractLsb' 0 3) g.vs1)
  | 29 => reservedUnless (decide (g.w.extractLsb' 1 1 = 0)) (.vbaq (g.w.extractLsb' 0 1) g.km g.vd g.vs1 g.vs2)
  | 30 => reservedUnless (decide (g.w.extractLsb' 1 1 = 0)) (.vdot4 (g.w.extractLsb' 0 1) g.km g.vd g.vs1 g.vs2)
  | _ => .error .unassigned

/-- Major opcode 0x7B (R81, R82). -/
def decodeVecData (g : GV) : Except Illegal Instr :=
  match g.op with
  | 0 => reservedUnless (decide (g.vs2.extractLsb' 2 3 = 0) && decide (g.vs2.extractLsb' 0 2 ≠ g.w)) (.vcvtf g.w g.km (g.vs2.extractLsb' 0 2) g.vd g.vs1)
  | 1 => reservedUnless (decide (g.vs2 = 0)) (.vcvti g.w g.km g.vd g.vs1)
  | 2 => reservedUnless (decide (g.vs2 = 0)) (.vcvtx g.w g.km g.vd g.vs1)
  | 3 => reservedUnless (decide (g.w.extractLsb' 1 1 = 0) && decide (g.vs2.extractLsb' 2 3 = 0)) (.vtenc (g.w.extractLsb' 0 1) g.km (g.vs2.extractLsb' 0 2) g.vd g.vs1)
  | 4 => reservedUnless (decide (g.vs2.extractLsb' 2 3 = 0) && decide (g.w ≠ 3)) (.vtdec g.w g.km (g.vs2.extractLsb' 0 2) g.vd g.vs1)
  | 5 => if g.w = 0 then reservedUnless (decide (g.vs2.extractLsb' 2 3 = 0)) (.vrepkPack g.km (g.vs2.extractLsb' 0 2) g.vd g.vs1)
    else if g.w = 1 then reservedUnless (decide (g.vs2.extractLsb' 2 3 = 0)) (.vrepkUnpk g.km (g.vs2.extractLsb' 0 2) g.vd g.vs1)
    else .error .reservedField
  | 6 => reservedUnless (decide (g.vd.extractLsb' 3 2 = 0)) (.vcmpeq g.w g.km (g.vd.extractLsb' 0 3) g.vs1 g.vs2)
  | 7 => reservedUnless (decide (g.vd.extractLsb' 3 2 = 0)) (.vcmplt g.w g.km (g.vd.extractLsb' 0 3) g.vs1 g.vs2)
  | 8 => reservedUnless (decide (g.vd.extractLsb' 3 2 = 0)) (.vcmpltu g.w g.km (g.vd.extractLsb' 0 3) g.vs1 g.vs2)
  | 9 => reservedUnless (decide (g.vd.extractLsb' 3 2 = 0)) (.vfcmpeq g.w g.km (g.vd.extractLsb' 0 3) g.vs1 g.vs2)
  | 10 => reservedUnless (decide (g.vd.extractLsb' 3 2 = 0)) (.vfcmplt g.w g.km (g.vd.extractLsb' 0 3) g.vs1 g.vs2)
  | 11 => if g.w = 0 then reservedUnless (decide (g.vd.extractLsb' 3 2 = 0) && decide (g.vs1.extractLsb' 3 2 = 0) && decide (g.vs2.extractLsb' 3 2 = 0) && decide (g.km = 0)) (.kand (g.vd.extractLsb' 0 3) (g.vs1.extractLsb' 0 3) (g.vs2.extractLsb' 0 3))
    else if g.w = 1 then reservedUnless (decide (g.vd.extractLsb' 3 2 = 0) && decide (g.vs1.extractLsb' 3 2 = 0) && decide (g.vs2.extractLsb' 3 2 = 0) && decide (g.km = 0)) (.kor (g.vd.extractLsb' 0 3) (g.vs1.extractLsb' 0 3) (g.vs2.extractLsb' 0 3))
    else if g.w = 2 then reservedUnless (decide (g.vd.extractLsb' 3 2 = 0) && decide (g.vs1.extractLsb' 3 2 = 0) && decide (g.vs2.extractLsb' 3 2 = 0) && decide (g.km = 0)) (.kxor (g.vd.extractLsb' 0 3) (g.vs1.extractLsb' 0 3) (g.vs2.extractLsb' 0 3))
    else if g.w = 3 then reservedUnless (decide (g.vd.extractLsb' 3 2 = 0) && decide (g.vs2 = 0) && decide (g.km = 0)) (.kmv (g.vd.extractLsb' 0 3) g.vs1)
    else .error .reservedField
  | 12 => reservedUnless (decide (g.vs2 = 0)) (.vld g.w g.km g.vd g.vs1)
  | 13 => reservedUnless (decide (g.vs2 = 0)) (.vst g.w g.km g.vd g.vs1)
  | 14 => .ok (.vlds g.w g.km g.vd g.vs1 g.vs2)
  | 15 => .ok (.vsts g.w g.km g.vd g.vs1 g.vs2)
  | 16 => .ok (.vldx g.w g.km g.vd g.vs1 g.vs2)
  | 17 => .ok (.vstx g.w g.km g.vd g.vs1 g.vs2)
  | 18 => reservedUnless (decide (g.vs2 = 0)) (.vldb g.w g.km g.vd g.vs1)
  | 19 => reservedUnless (decide (g.w = 3) && decide (g.vd.extractLsb' 3 2 = 0) && decide (g.vs2 = 0) && decide (g.km = 0)) (.kst (g.vd.extractLsb' 0 3) g.vs1)
  | 20 => .ok (.vperm g.w g.km g.vd g.vs1 g.vs2)
  | 21 => .ok (.vslup g.w g.km g.vd g.vs1 g.vs2)
  | 22 => .ok (.vsldn g.w g.km g.vd g.vs1 g.vs2)
  | 23 => .ok (.vzip g.w g.km g.vd g.vs1 g.vs2)
  | 24 => .ok (.vuzp g.w g.km g.vd g.vs1 g.vs2)
  | 25 => reservedUnless (decide (g.vs2 = 0)) (.vsplat g.w g.km g.vd g.vs1)
  | 26 => .ok (.vredadd g.w g.km g.vd g.vs1 g.vs2)
  | 27 => .ok (.vfredadd g.w g.km g.vd g.vs1 g.vs2)
  | 28 => .ok (.vfredmax g.w g.km g.vd g.vs1 g.vs2)
  | _ => .error .unassigned

/-- The decoder of one word (R66 to R82). -/
def decode (w : IWord) : Except Illegal Instr :=
  match w.extractLsb' 0 7 with
  | 0x03 => decodeLoad (RF.split w)
  | 0x0f => decodeMiscMem (RF.split w)
  | 0x13 => decodeOpImm (RF.split w)
  | 0x1b => decodeOpImm32 (RF.split w)
  | 0x23 => decodeStore (RF.split w)
  | 0x2f => decodeAmo (RF.split w)
  | 0x33 => decodeOp (RF.split w)
  | 0x3b => decodeOp32 (RF.split w)
  | 0x63 => decodeBranch (RF.split w)
  | 0x73 => decodeSystem (RF.split w)
  | 0x17 => .ok (.auipc (RF.split w).rd (RF.split w).immU)
  | 0x37 => .ok (.lui (RF.split w).rd (RF.split w).immU)
  | 0x6f => .ok (.jal (RF.split w).rd (jImm (RF.split w).immU))
  | 0x67 => if (RF.split w).f3 = 0 then .ok (.jalr (RF.split w).rd (RF.split w).rs1 (RF.split w).immI)
    else .error .unassigned
  | 0x0b => decodeControl (GM.split w)
  | 0x2b => decodeEngine (GM.split w)
  | 0x5b => decodeVecArith (GV.split w)
  | 0x7b => decodeVecData (GV.split w)
  | op => if op.extractLsb' 0 2 = 3 then .error .illegalMajor else .error .notWord

/-- A word from its four bytes, the first at the lowest address (R11, R66). -/
def wordOfBytes (b0 b1 b2 b3 : Byte) : IWord := b3 ++ b2 ++ b1 ++ b0

/-- The four bytes of a word, lowest address first (R11, R66). -/
def bytesOfWord (w : IWord) : List Byte :=
  [w.extractLsb' 0 8, w.extractLsb' 8 8, w.extractLsb' 16 8, w.extractLsb' 24 8]

/-- The decoder on bytes: total, rejecting a list that does not begin with a whole word. -/
def decodeBytes : List Byte → Except Illegal Instr
  | b0 :: b1 :: b2 :: b3 :: _ => decode (wordOfBytes b0 b1 b2 b3)
  | _ => .error .notWord

/-- The instruction the decoder reads from an instruction whose bits are w, numbered as opcode_table.json numbers them.
Every instruction is one 32-bit word (R66); a row of no bits names no word. -/
def decodeTableWord (nbits w : Nat) : Option Instr :=
  if nbits = 0 ∨ 32 < nbits then none
  else (decodeBytes (bytesOfWord (BitVec.ofNat 32 (w % 2 ^ nbits)))).toOption

/-- The word of an instruction (R69, R77 to R82); events have none. -/
def encode : Instr → Option IWord
  | .lb rd rs1 imm => some (RF.join 0x03 { f7 := imm.extractLsb' 5 7, rs2 := imm.extractLsb' 0 5, rs1 := rs1, f3 := 0, rd := rd })
  | .lh rd rs1 imm => some (RF.join 0x03 { f7 := imm.extractLsb' 5 7, rs2 := imm.extractLsb' 0 5, rs1 := rs1, f3 := 1, rd := rd })
  | .lw rd rs1 imm => some (RF.join 0x03 { f7 := imm.extractLsb' 5 7, rs2 := imm.extractLsb' 0 5, rs1 := rs1, f3 := 2, rd := rd })
  | .ld rd rs1 imm => some (RF.join 0x03 { f7 := imm.extractLsb' 5 7, rs2 := imm.extractLsb' 0 5, rs1 := rs1, f3 := 3, rd := rd })
  | .lbu rd rs1 imm => some (RF.join 0x03 { f7 := imm.extractLsb' 5 7, rs2 := imm.extractLsb' 0 5, rs1 := rs1, f3 := 4, rd := rd })
  | .lhu rd rs1 imm => some (RF.join 0x03 { f7 := imm.extractLsb' 5 7, rs2 := imm.extractLsb' 0 5, rs1 := rs1, f3 := 5, rd := rd })
  | .lwu rd rs1 imm => some (RF.join 0x03 { f7 := imm.extractLsb' 5 7, rs2 := imm.extractLsb' 0 5, rs1 := rs1, f3 := 6, rd := rd })
  | .sb rs2 rs1 imm => some (RF.join 0x23 { f7 := imm.extractLsb' 5 7, rs2 := rs2, rs1 := rs1, f3 := 0, rd := imm.extractLsb' 0 5 })
  | .sh rs2 rs1 imm => some (RF.join 0x23 { f7 := imm.extractLsb' 5 7, rs2 := rs2, rs1 := rs1, f3 := 1, rd := imm.extractLsb' 0 5 })
  | .sw rs2 rs1 imm => some (RF.join 0x23 { f7 := imm.extractLsb' 5 7, rs2 := rs2, rs1 := rs1, f3 := 2, rd := imm.extractLsb' 0 5 })
  | .sd rs2 rs1 imm => some (RF.join 0x23 { f7 := imm.extractLsb' 5 7, rs2 := rs2, rs1 := rs1, f3 := 3, rd := imm.extractLsb' 0 5 })
  | .fence => some (RF.join 0x0f { f7 := 0, rs2 := 0, rs1 := 0, f3 := 0, rd := 0 })
  | .fenceI => some (RF.join 0x0f { f7 := 0, rs2 := 0, rs1 := 0, f3 := 1, rd := 0 })
  | .addi rd rs1 imm => some (RF.join 0x13 { f7 := imm.extractLsb' 5 7, rs2 := imm.extractLsb' 0 5, rs1 := rs1, f3 := 0, rd := rd })
  | .slti rd rs1 imm => some (RF.join 0x13 { f7 := imm.extractLsb' 5 7, rs2 := imm.extractLsb' 0 5, rs1 := rs1, f3 := 2, rd := rd })
  | .sltiu rd rs1 imm => some (RF.join 0x13 { f7 := imm.extractLsb' 5 7, rs2 := imm.extractLsb' 0 5, rs1 := rs1, f3 := 3, rd := rd })
  | .xori rd rs1 imm => some (RF.join 0x13 { f7 := imm.extractLsb' 5 7, rs2 := imm.extractLsb' 0 5, rs1 := rs1, f3 := 4, rd := rd })
  | .ori rd rs1 imm => some (RF.join 0x13 { f7 := imm.extractLsb' 5 7, rs2 := imm.extractLsb' 0 5, rs1 := rs1, f3 := 6, rd := rd })
  | .andi rd rs1 imm => some (RF.join 0x13 { f7 := imm.extractLsb' 5 7, rs2 := imm.extractLsb' 0 5, rs1 := rs1, f3 := 7, rd := rd })
  | .slli rd rs1 sh => some (RF.join 0x13 { f7 := ((0 : BitVec 6) ++ sh.extractLsb' 5 1), rs2 := sh.extractLsb' 0 5, rs1 := rs1, f3 := 1, rd := rd })
  | .srli rd rs1 sh => some (RF.join 0x13 { f7 := ((0 : BitVec 6) ++ sh.extractLsb' 5 1), rs2 := sh.extractLsb' 0 5, rs1 := rs1, f3 := 5, rd := rd })
  | .srai rd rs1 sh => some (RF.join 0x13 { f7 := ((16 : BitVec 6) ++ sh.extractLsb' 5 1), rs2 := sh.extractLsb' 0 5, rs1 := rs1, f3 := 5, rd := rd })
  | .auipc rd imm => some (UF.join 0x17 imm rd)
  | .addiw rd rs1 imm => some (RF.join 0x1b { f7 := imm.extractLsb' 5 7, rs2 := imm.extractLsb' 0 5, rs1 := rs1, f3 := 0, rd := rd })
  | .slliw rd rs1 sh => some (RF.join 0x1b { f7 := 0, rs2 := sh, rs1 := rs1, f3 := 1, rd := rd })
  | .srliw rd rs1 sh => some (RF.join 0x1b { f7 := 0, rs2 := sh, rs1 := rs1, f3 := 5, rd := rd })
  | .sraiw rd rs1 sh => some (RF.join 0x1b { f7 := 32, rs2 := sh, rs1 := rs1, f3 := 5, rd := rd })
  | .amoswapW aq rl rd rs1 rs2 => some (RF.join 0x2f { f7 := amoField 1 aq rl, rs2 := rs2, rs1 := rs1, f3 := 2, rd := rd })
  | .amoaddW aq rl rd rs1 rs2 => some (RF.join 0x2f { f7 := amoField 0 aq rl, rs2 := rs2, rs1 := rs1, f3 := 2, rd := rd })
  | .amoxorW aq rl rd rs1 rs2 => some (RF.join 0x2f { f7 := amoField 4 aq rl, rs2 := rs2, rs1 := rs1, f3 := 2, rd := rd })
  | .amoandW aq rl rd rs1 rs2 => some (RF.join 0x2f { f7 := amoField 12 aq rl, rs2 := rs2, rs1 := rs1, f3 := 2, rd := rd })
  | .amoorW aq rl rd rs1 rs2 => some (RF.join 0x2f { f7 := amoField 8 aq rl, rs2 := rs2, rs1 := rs1, f3 := 2, rd := rd })
  | .amominW aq rl rd rs1 rs2 => some (RF.join 0x2f { f7 := amoField 16 aq rl, rs2 := rs2, rs1 := rs1, f3 := 2, rd := rd })
  | .amomaxW aq rl rd rs1 rs2 => some (RF.join 0x2f { f7 := amoField 20 aq rl, rs2 := rs2, rs1 := rs1, f3 := 2, rd := rd })
  | .amominuW aq rl rd rs1 rs2 => some (RF.join 0x2f { f7 := amoField 24 aq rl, rs2 := rs2, rs1 := rs1, f3 := 2, rd := rd })
  | .amomaxuW aq rl rd rs1 rs2 => some (RF.join 0x2f { f7 := amoField 28 aq rl, rs2 := rs2, rs1 := rs1, f3 := 2, rd := rd })
  | .lrW aq rl rd rs1 => some (RF.join 0x2f { f7 := amoField 2 aq rl, rs2 := 0, rs1 := rs1, f3 := 2, rd := rd })
  | .scW aq rl rd rs1 rs2 => some (RF.join 0x2f { f7 := amoField 3 aq rl, rs2 := rs2, rs1 := rs1, f3 := 2, rd := rd })
  | .amoswapD aq rl rd rs1 rs2 => some (RF.join 0x2f { f7 := amoField 1 aq rl, rs2 := rs2, rs1 := rs1, f3 := 3, rd := rd })
  | .amoaddD aq rl rd rs1 rs2 => some (RF.join 0x2f { f7 := amoField 0 aq rl, rs2 := rs2, rs1 := rs1, f3 := 3, rd := rd })
  | .amoxorD aq rl rd rs1 rs2 => some (RF.join 0x2f { f7 := amoField 4 aq rl, rs2 := rs2, rs1 := rs1, f3 := 3, rd := rd })
  | .amoandD aq rl rd rs1 rs2 => some (RF.join 0x2f { f7 := amoField 12 aq rl, rs2 := rs2, rs1 := rs1, f3 := 3, rd := rd })
  | .amoorD aq rl rd rs1 rs2 => some (RF.join 0x2f { f7 := amoField 8 aq rl, rs2 := rs2, rs1 := rs1, f3 := 3, rd := rd })
  | .amominD aq rl rd rs1 rs2 => some (RF.join 0x2f { f7 := amoField 16 aq rl, rs2 := rs2, rs1 := rs1, f3 := 3, rd := rd })
  | .amomaxD aq rl rd rs1 rs2 => some (RF.join 0x2f { f7 := amoField 20 aq rl, rs2 := rs2, rs1 := rs1, f3 := 3, rd := rd })
  | .amominuD aq rl rd rs1 rs2 => some (RF.join 0x2f { f7 := amoField 24 aq rl, rs2 := rs2, rs1 := rs1, f3 := 3, rd := rd })
  | .amomaxuD aq rl rd rs1 rs2 => some (RF.join 0x2f { f7 := amoField 28 aq rl, rs2 := rs2, rs1 := rs1, f3 := 3, rd := rd })
  | .lrD aq rl rd rs1 => some (RF.join 0x2f { f7 := amoField 2 aq rl, rs2 := 0, rs1 := rs1, f3 := 3, rd := rd })
  | .scD aq rl rd rs1 rs2 => some (RF.join 0x2f { f7 := amoField 3 aq rl, rs2 := rs2, rs1 := rs1, f3 := 3, rd := rd })
  | .add rd rs1 rs2 => some (RF.join 0x33 { f7 := 0, rs2 := rs2, rs1 := rs1, f3 := 0, rd := rd })
  | .sub rd rs1 rs2 => some (RF.join 0x33 { f7 := 32, rs2 := rs2, rs1 := rs1, f3 := 0, rd := rd })
  | .sll rd rs1 rs2 => some (RF.join 0x33 { f7 := 0, rs2 := rs2, rs1 := rs1, f3 := 1, rd := rd })
  | .slt rd rs1 rs2 => some (RF.join 0x33 { f7 := 0, rs2 := rs2, rs1 := rs1, f3 := 2, rd := rd })
  | .sltu rd rs1 rs2 => some (RF.join 0x33 { f7 := 0, rs2 := rs2, rs1 := rs1, f3 := 3, rd := rd })
  | .xor rd rs1 rs2 => some (RF.join 0x33 { f7 := 0, rs2 := rs2, rs1 := rs1, f3 := 4, rd := rd })
  | .srl rd rs1 rs2 => some (RF.join 0x33 { f7 := 0, rs2 := rs2, rs1 := rs1, f3 := 5, rd := rd })
  | .sra rd rs1 rs2 => some (RF.join 0x33 { f7 := 32, rs2 := rs2, rs1 := rs1, f3 := 5, rd := rd })
  | .or rd rs1 rs2 => some (RF.join 0x33 { f7 := 0, rs2 := rs2, rs1 := rs1, f3 := 6, rd := rd })
  | .and rd rs1 rs2 => some (RF.join 0x33 { f7 := 0, rs2 := rs2, rs1 := rs1, f3 := 7, rd := rd })
  | .mul rd rs1 rs2 => some (RF.join 0x33 { f7 := 1, rs2 := rs2, rs1 := rs1, f3 := 0, rd := rd })
  | .mulh rd rs1 rs2 => some (RF.join 0x33 { f7 := 1, rs2 := rs2, rs1 := rs1, f3 := 1, rd := rd })
  | .mulhsu rd rs1 rs2 => some (RF.join 0x33 { f7 := 1, rs2 := rs2, rs1 := rs1, f3 := 2, rd := rd })
  | .mulhu rd rs1 rs2 => some (RF.join 0x33 { f7 := 1, rs2 := rs2, rs1 := rs1, f3 := 3, rd := rd })
  | .div rd rs1 rs2 => some (RF.join 0x33 { f7 := 1, rs2 := rs2, rs1 := rs1, f3 := 4, rd := rd })
  | .divu rd rs1 rs2 => some (RF.join 0x33 { f7 := 1, rs2 := rs2, rs1 := rs1, f3 := 5, rd := rd })
  | .rem rd rs1 rs2 => some (RF.join 0x33 { f7 := 1, rs2 := rs2, rs1 := rs1, f3 := 6, rd := rd })
  | .remu rd rs1 rs2 => some (RF.join 0x33 { f7 := 1, rs2 := rs2, rs1 := rs1, f3 := 7, rd := rd })
  | .lui rd imm => some (UF.join 0x37 imm rd)
  | .addw rd rs1 rs2 => some (RF.join 0x3b { f7 := 0, rs2 := rs2, rs1 := rs1, f3 := 0, rd := rd })
  | .subw rd rs1 rs2 => some (RF.join 0x3b { f7 := 32, rs2 := rs2, rs1 := rs1, f3 := 0, rd := rd })
  | .sllw rd rs1 rs2 => some (RF.join 0x3b { f7 := 0, rs2 := rs2, rs1 := rs1, f3 := 1, rd := rd })
  | .srlw rd rs1 rs2 => some (RF.join 0x3b { f7 := 0, rs2 := rs2, rs1 := rs1, f3 := 5, rd := rd })
  | .sraw rd rs1 rs2 => some (RF.join 0x3b { f7 := 32, rs2 := rs2, rs1 := rs1, f3 := 5, rd := rd })
  | .mulw rd rs1 rs2 => some (RF.join 0x3b { f7 := 1, rs2 := rs2, rs1 := rs1, f3 := 0, rd := rd })
  | .divw rd rs1 rs2 => some (RF.join 0x3b { f7 := 1, rs2 := rs2, rs1 := rs1, f3 := 4, rd := rd })
  | .divuw rd rs1 rs2 => some (RF.join 0x3b { f7 := 1, rs2 := rs2, rs1 := rs1, f3 := 5, rd := rd })
  | .remw rd rs1 rs2 => some (RF.join 0x3b { f7 := 1, rs2 := rs2, rs1 := rs1, f3 := 6, rd := rd })
  | .remuw rd rs1 rs2 => some (RF.join 0x3b { f7 := 1, rs2 := rs2, rs1 := rs1, f3 := 7, rd := rd })
  | .beq rs1 rs2 imm => some (RF.join 0x63 { f7 := bHi imm, rs2 := rs2, rs1 := rs1, f3 := 0, rd := bLo imm })
  | .bne rs1 rs2 imm => some (RF.join 0x63 { f7 := bHi imm, rs2 := rs2, rs1 := rs1, f3 := 1, rd := bLo imm })
  | .blt rs1 rs2 imm => some (RF.join 0x63 { f7 := bHi imm, rs2 := rs2, rs1 := rs1, f3 := 4, rd := bLo imm })
  | .bge rs1 rs2 imm => some (RF.join 0x63 { f7 := bHi imm, rs2 := rs2, rs1 := rs1, f3 := 5, rd := bLo imm })
  | .bltu rs1 rs2 imm => some (RF.join 0x63 { f7 := bHi imm, rs2 := rs2, rs1 := rs1, f3 := 6, rd := bLo imm })
  | .bgeu rs1 rs2 imm => some (RF.join 0x63 { f7 := bHi imm, rs2 := rs2, rs1 := rs1, f3 := 7, rd := bLo imm })
  | .jalr rd rs1 imm => some (RF.join 0x67 { f7 := imm.extractLsb' 5 7, rs2 := imm.extractLsb' 0 5, rs1 := rs1, f3 := 0, rd := rd })
  | .jal rd imm => some (UF.join 0x6f (jField imm) rd)
  | .ecall => some (RF.join 0x73 { f7 := 0, rs2 := 0, rs1 := 0, f3 := 0, rd := 0 })
  | .ebreak => some (RF.join 0x73 { f7 := 0, rs2 := 1, rs1 := 0, f3 := 0, rd := 0 })
  | .csrrw rd csr rs1 => some (RF.join 0x73 { f7 := csr.extractLsb' 5 7, rs2 := csr.extractLsb' 0 5, rs1 := rs1, f3 := 1, rd := rd })
  | .csrrs rd csr rs1 => some (RF.join 0x73 { f7 := csr.extractLsb' 5 7, rs2 := csr.extractLsb' 0 5, rs1 := rs1, f3 := 2, rd := rd })
  | .csrrc rd csr rs1 => some (RF.join 0x73 { f7 := csr.extractLsb' 5 7, rs2 := csr.extractLsb' 0 5, rs1 := rs1, f3 := 3, rd := rd })
  | .csrrwi rd csr zimm => some (RF.join 0x73 { f7 := csr.extractLsb' 5 7, rs2 := csr.extractLsb' 0 5, rs1 := zimm, f3 := 5, rd := rd })
  | .csrrsi rd csr zimm => some (RF.join 0x73 { f7 := csr.extractLsb' 5 7, rs2 := csr.extractLsb' 0 5, rs1 := zimm, f3 := 6, rd := rd })
  | .csrrci rd csr zimm => some (RF.join 0x73 { f7 := csr.extractLsb' 5 7, rs2 := csr.extractLsb' 0 5, rs1 := zimm, f3 := 7, rd := rd })
  | .mret => some (RF.join 0x73 { f7 := 24, rs2 := 2, rs1 := 0, f3 := 0, rd := 0 })
  | .sret => some (RF.join 0x73 { f7 := 8, rs2 := 2, rs1 := 0, f3 := 0, rd := 0 })
  | .wfi => some (RF.join 0x73 { f7 := 8, rs2 := 5, rs1 := 0, f3 := 0, rd := 0 })
  | .sfenceVma rs1 rs2 => some (RF.join 0x73 { f7 := 9, rs2 := rs2, rs1 := rs1, f3 := 0, rd := 0 })
  | .taskEnd => some (GM.join 0x0b { sub := 0, scope := 0, aq := false, rl := false, rs2 := 0, rs1 := 0, f3 := 0, rd := 0 })
  | .taskChain rs1 => some (GM.join 0x0b { sub := 1, scope := 0, aq := false, rl := false, rs2 := 0, rs1 := rs1, f3 := 0, rd := 0 })
  | .taskSpawn rl scope rs1 => some (GM.join 0x0b { sub := 2, scope := scope, aq := false, rl := rl, rs2 := 0, rs1 := rs1, f3 := 0, rd := 0 })
  | .taskJoin rs1 => some (GM.join 0x0b { sub := 3, scope := 0, aq := false, rl := false, rs2 := 0, rs1 := rs1, f3 := 0, rd := 0 })
  | .taskSelf0 => some (GM.join 0x0b { sub := 4, scope := 0, aq := false, rl := false, rs2 := 0, rs1 := 0, f3 := 0, rd := 0 })
  | .taskSelf1 => some (GM.join 0x0b { sub := 4, scope := 0, aq := false, rl := false, rs2 := 0, rs1 := 0, f3 := 0, rd := 1 })
  | .taskSelf2 => some (GM.join 0x0b { sub := 4, scope := 0, aq := false, rl := false, rs2 := 0, rs1 := 0, f3 := 0, rd := 2 })
  | .taskSelf3 => some (GM.join 0x0b { sub := 4, scope := 0, aq := false, rl := false, rs2 := 0, rs1 := 0, f3 := 0, rd := 3 })
  | .taskSelf4 => some (GM.join 0x0b { sub := 4, scope := 0, aq := false, rl := false, rs2 := 0, rs1 := 0, f3 := 0, rd := 4 })
  | .taskSelf5 => some (GM.join 0x0b { sub := 4, scope := 0, aq := false, rl := false, rs2 := 0, rs1 := 0, f3 := 0, rd := 5 })
  | .taskSelf6 => some (GM.join 0x0b { sub := 4, scope := 0, aq := false, rl := false, rs2 := 0, rs1 := 0, f3 := 0, rd := 6 })
  | .taskSelf7 => some (GM.join 0x0b { sub := 4, scope := 0, aq := false, rl := false, rs2 := 0, rs1 := 0, f3 := 0, rd := 7 })
  | .taskSelf8 => some (GM.join 0x0b { sub := 4, scope := 0, aq := false, rl := false, rs2 := 0, rs1 := 0, f3 := 0, rd := 8 })
  | .taskSelf9 => some (GM.join 0x0b { sub := 4, scope := 0, aq := false, rl := false, rs2 := 0, rs1 := 0, f3 := 0, rd := 9 })
  | .taskSelf10 => some (GM.join 0x0b { sub := 4, scope := 0, aq := false, rl := false, rs2 := 0, rs1 := 0, f3 := 0, rd := 10 })
  | .taskSelf11 => some (GM.join 0x0b { sub := 4, scope := 0, aq := false, rl := false, rs2 := 0, rs1 := 0, f3 := 0, rd := 11 })
  | .taskSelf12 => some (GM.join 0x0b { sub := 4, scope := 0, aq := false, rl := false, rs2 := 0, rs1 := 0, f3 := 0, rd := 12 })
  | .taskSelf13 => some (GM.join 0x0b { sub := 4, scope := 0, aq := false, rl := false, rs2 := 0, rs1 := 0, f3 := 0, rd := 13 })
  | .taskSelf14 => some (GM.join 0x0b { sub := 4, scope := 0, aq := false, rl := false, rs2 := 0, rs1 := 0, f3 := 0, rd := 14 })
  | .taskSelf15 => some (GM.join 0x0b { sub := 4, scope := 0, aq := false, rl := false, rs2 := 0, rs1 := 0, f3 := 0, rd := 15 })
  | .taskSelf16 => some (GM.join 0x0b { sub := 4, scope := 0, aq := false, rl := false, rs2 := 0, rs1 := 0, f3 := 0, rd := 16 })
  | .taskSelf17 => some (GM.join 0x0b { sub := 4, scope := 0, aq := false, rl := false, rs2 := 0, rs1 := 0, f3 := 0, rd := 17 })
  | .taskSelf18 => some (GM.join 0x0b { sub := 4, scope := 0, aq := false, rl := false, rs2 := 0, rs1 := 0, f3 := 0, rd := 18 })
  | .taskSelf19 => some (GM.join 0x0b { sub := 4, scope := 0, aq := false, rl := false, rs2 := 0, rs1 := 0, f3 := 0, rd := 19 })
  | .taskSelf20 => some (GM.join 0x0b { sub := 4, scope := 0, aq := false, rl := false, rs2 := 0, rs1 := 0, f3 := 0, rd := 20 })
  | .taskSelf21 => some (GM.join 0x0b { sub := 4, scope := 0, aq := false, rl := false, rs2 := 0, rs1 := 0, f3 := 0, rd := 21 })
  | .taskSelf22 => some (GM.join 0x0b { sub := 4, scope := 0, aq := false, rl := false, rs2 := 0, rs1 := 0, f3 := 0, rd := 22 })
  | .taskSelf23 => some (GM.join 0x0b { sub := 4, scope := 0, aq := false, rl := false, rs2 := 0, rs1 := 0, f3 := 0, rd := 23 })
  | .taskSelf24 => some (GM.join 0x0b { sub := 4, scope := 0, aq := false, rl := false, rs2 := 0, rs1 := 0, f3 := 0, rd := 24 })
  | .taskSelf25 => some (GM.join 0x0b { sub := 4, scope := 0, aq := false, rl := false, rs2 := 0, rs1 := 0, f3 := 0, rd := 25 })
  | .taskSelf26 => some (GM.join 0x0b { sub := 4, scope := 0, aq := false, rl := false, rs2 := 0, rs1 := 0, f3 := 0, rd := 26 })
  | .taskSelf27 => some (GM.join 0x0b { sub := 4, scope := 0, aq := false, rl := false, rs2 := 0, rs1 := 0, f3 := 0, rd := 27 })
  | .taskSelf28 => some (GM.join 0x0b { sub := 4, scope := 0, aq := false, rl := false, rs2 := 0, rs1 := 0, f3 := 0, rd := 28 })
  | .taskSelf29 => some (GM.join 0x0b { sub := 4, scope := 0, aq := false, rl := false, rs2 := 0, rs1 := 0, f3 := 0, rd := 29 })
  | .taskSelf30 => some (GM.join 0x0b { sub := 4, scope := 0, aq := false, rl := false, rs2 := 0, rs1 := 0, f3 := 0, rd := 30 })
  | .taskSelf31 => some (GM.join 0x0b { sub := 4, scope := 0, aq := false, rl := false, rs2 := 0, rs1 := 0, f3 := 0, rd := 31 })
  | .taskPrio0 => some (GM.join 0x0b { sub := 5, scope := 0, aq := false, rl := false, rs2 := 0, rs1 := 0, f3 := 0, rd := 0 })
  | .taskPrio1 => some (GM.join 0x0b { sub := 5, scope := 0, aq := false, rl := false, rs2 := 0, rs1 := 1, f3 := 0, rd := 0 })
  | .taskPrio2 => some (GM.join 0x0b { sub := 5, scope := 0, aq := false, rl := false, rs2 := 0, rs1 := 2, f3 := 0, rd := 0 })
  | .taskPrio3 => some (GM.join 0x0b { sub := 5, scope := 0, aq := false, rl := false, rs2 := 0, rs1 := 3, f3 := 0, rd := 0 })
  | .taskPrio4 => some (GM.join 0x0b { sub := 5, scope := 0, aq := false, rl := false, rs2 := 0, rs1 := 4, f3 := 0, rd := 0 })
  | .taskPrio5 => some (GM.join 0x0b { sub := 5, scope := 0, aq := false, rl := false, rs2 := 0, rs1 := 5, f3 := 0, rd := 0 })
  | .taskPrio6 => some (GM.join 0x0b { sub := 5, scope := 0, aq := false, rl := false, rs2 := 0, rs1 := 6, f3 := 0, rd := 0 })
  | .taskPrio7 => some (GM.join 0x0b { sub := 5, scope := 0, aq := false, rl := false, rs2 := 0, rs1 := 7, f3 := 0, rd := 0 })
  | .taskPrio8 => some (GM.join 0x0b { sub := 5, scope := 0, aq := false, rl := false, rs2 := 0, rs1 := 8, f3 := 0, rd := 0 })
  | .taskPrio9 => some (GM.join 0x0b { sub := 5, scope := 0, aq := false, rl := false, rs2 := 0, rs1 := 9, f3 := 0, rd := 0 })
  | .taskPrio10 => some (GM.join 0x0b { sub := 5, scope := 0, aq := false, rl := false, rs2 := 0, rs1 := 10, f3 := 0, rd := 0 })
  | .taskPrio11 => some (GM.join 0x0b { sub := 5, scope := 0, aq := false, rl := false, rs2 := 0, rs1 := 11, f3 := 0, rd := 0 })
  | .taskPrio12 => some (GM.join 0x0b { sub := 5, scope := 0, aq := false, rl := false, rs2 := 0, rs1 := 12, f3 := 0, rd := 0 })
  | .taskPrio13 => some (GM.join 0x0b { sub := 5, scope := 0, aq := false, rl := false, rs2 := 0, rs1 := 13, f3 := 0, rd := 0 })
  | .taskPrio14 => some (GM.join 0x0b { sub := 5, scope := 0, aq := false, rl := false, rs2 := 0, rs1 := 14, f3 := 0, rd := 0 })
  | .taskPrio15 => some (GM.join 0x0b { sub := 5, scope := 0, aq := false, rl := false, rs2 := 0, rs1 := 15, f3 := 0, rd := 0 })
  | .taskPrio16 => some (GM.join 0x0b { sub := 5, scope := 0, aq := false, rl := false, rs2 := 0, rs1 := 16, f3 := 0, rd := 0 })
  | .taskPrio17 => some (GM.join 0x0b { sub := 5, scope := 0, aq := false, rl := false, rs2 := 0, rs1 := 17, f3 := 0, rd := 0 })
  | .taskPrio18 => some (GM.join 0x0b { sub := 5, scope := 0, aq := false, rl := false, rs2 := 0, rs1 := 18, f3 := 0, rd := 0 })
  | .taskPrio19 => some (GM.join 0x0b { sub := 5, scope := 0, aq := false, rl := false, rs2 := 0, rs1 := 19, f3 := 0, rd := 0 })
  | .taskPrio20 => some (GM.join 0x0b { sub := 5, scope := 0, aq := false, rl := false, rs2 := 0, rs1 := 20, f3 := 0, rd := 0 })
  | .taskPrio21 => some (GM.join 0x0b { sub := 5, scope := 0, aq := false, rl := false, rs2 := 0, rs1 := 21, f3 := 0, rd := 0 })
  | .taskPrio22 => some (GM.join 0x0b { sub := 5, scope := 0, aq := false, rl := false, rs2 := 0, rs1 := 22, f3 := 0, rd := 0 })
  | .taskPrio23 => some (GM.join 0x0b { sub := 5, scope := 0, aq := false, rl := false, rs2 := 0, rs1 := 23, f3 := 0, rd := 0 })
  | .taskPrio24 => some (GM.join 0x0b { sub := 5, scope := 0, aq := false, rl := false, rs2 := 0, rs1 := 24, f3 := 0, rd := 0 })
  | .taskPrio25 => some (GM.join 0x0b { sub := 5, scope := 0, aq := false, rl := false, rs2 := 0, rs1 := 25, f3 := 0, rd := 0 })
  | .taskPrio26 => some (GM.join 0x0b { sub := 5, scope := 0, aq := false, rl := false, rs2 := 0, rs1 := 26, f3 := 0, rd := 0 })
  | .taskPrio27 => some (GM.join 0x0b { sub := 5, scope := 0, aq := false, rl := false, rs2 := 0, rs1 := 27, f3 := 0, rd := 0 })
  | .taskPrio28 => some (GM.join 0x0b { sub := 5, scope := 0, aq := false, rl := false, rs2 := 0, rs1 := 28, f3 := 0, rd := 0 })
  | .taskPrio29 => some (GM.join 0x0b { sub := 5, scope := 0, aq := false, rl := false, rs2 := 0, rs1 := 29, f3 := 0, rd := 0 })
  | .taskPrio30 => some (GM.join 0x0b { sub := 5, scope := 0, aq := false, rl := false, rs2 := 0, rs1 := 30, f3 := 0, rd := 0 })
  | .taskPrio31 => some (GM.join 0x0b { sub := 5, scope := 0, aq := false, rl := false, rs2 := 0, rs1 := 31, f3 := 0, rd := 0 })
  | .msgSend rl scope rs1 rs2 => some (GM.join 0x0b { sub := 0, scope := scope, aq := false, rl := rl, rs2 := rs2, rs1 := rs1, f3 := 1, rd := 0 })
  | .msgSendl rl scope rs1 rs2 => some (GM.join 0x0b { sub := 1, scope := scope, aq := false, rl := rl, rs2 := rs2, rs1 := rs1, f3 := 1, rd := 0 })
  | .msgReply rl scope rs1 rs2 => some (GM.join 0x0b { sub := 2, scope := scope, aq := false, rl := rl, rs2 := rs2, rs1 := rs1, f3 := 1, rd := 0 })
  | .msgFwd rl scope rs1 rs2 => some (GM.join 0x0b { sub := 3, scope := scope, aq := false, rl := rl, rs2 := rs2, rs1 := rs1, f3 := 1, rd := 0 })
  | .capMint rd rs1 rs2 => some (GM.join 0x0b { sub := 0, scope := 0, aq := false, rl := false, rs2 := rs2, rs1 := rs1, f3 := 2, rd := rd })
  | .capNarrow rd rs1 rs2 => some (GM.join 0x0b { sub := 1, scope := 0, aq := false, rl := false, rs2 := rs2, rs1 := rs1, f3 := 2, rd := rd })
  | .capCheck rd rs1 rs2 => some (GM.join 0x0b { sub := 2, scope := 0, aq := false, rl := false, rs2 := rs2, rs1 := rs1, f3 := 2, rd := rd })
  | .rcvBegin => some (GM.join 0x0b { sub := 0, scope := 0, aq := false, rl := false, rs2 := 0, rs1 := 0, f3 := 3, rd := 0 })
  | .rcvPreserve rs1 => some (GM.join 0x0b { sub := 1, scope := 0, aq := false, rl := false, rs2 := 0, rs1 := rs1, f3 := 3, rd := 0 })
  | .rcvEnd => some (GM.join 0x0b { sub := 2, scope := 0, aq := false, rl := false, rs2 := 0, rs1 := 0, f3 := 3, rd := 0 })
  | .rcvFail => some (GM.join 0x0b { sub := 3, scope := 0, aq := false, rl := false, rs2 := 0, rs1 := 0, f3 := 3, rd := 0 })
  | .txnBegin rs1 => some (GM.join 0x0b { sub := 0, scope := 0, aq := false, rl := false, rs2 := 0, rs1 := rs1, f3 := 4, rd := 0 })
  | .txnRetry => some (GM.join 0x0b { sub := 1, scope := 0, aq := false, rl := false, rs2 := 0, rs1 := 0, f3 := 4, rd := 0 })
  | .txnElse rs1 => some (GM.join 0x0b { sub := 2, scope := 0, aq := false, rl := false, rs2 := 0, rs1 := rs1, f3 := 4, rd := 0 })
  | .txnEnd => some (GM.join 0x0b { sub := 3, scope := 0, aq := false, rl := false, rs2 := 0, rs1 := 0, f3 := 4, rd := 0 })
  | .txnAbort => some (GM.join 0x0b { sub := 4, scope := 0, aq := false, rl := false, rs2 := 0, rs1 := 0, f3 := 4, rd := 0 })
  | .sysFreeze => some (GM.join 0x0b { sub := 0, scope := 0, aq := false, rl := false, rs2 := 0, rs1 := 0, f3 := 5, rd := 0 })
  | .sysHalt rs1 => some (GM.join 0x0b { sub := 1, scope := 0, aq := false, rl := false, rs2 := 0, rs1 := rs1, f3 := 5, rd := 0 })
  | .sysResume rs1 => some (GM.join 0x0b { sub := 2, scope := 0, aq := false, rl := false, rs2 := 0, rs1 := rs1, f3 := 5, rd := 0 })
  | .sysInspect rd rs1 rs2 => some (GM.join 0x0b { sub := 3, scope := 0, aq := false, rl := false, rs2 := rs2, rs1 := rs1, f3 := 5, rd := rd })
  | .sysScan rd rs1 => some (GM.join 0x0b { sub := 4, scope := 0, aq := false, rl := false, rs2 := 0, rs1 := rs1, f3 := 5, rd := rd })
  | .sysSig rd rs1 => some (GM.join 0x0b { sub := 5, scope := 0, aq := false, rl := false, rs2 := 0, rs1 := rs1, f3 := 5, rd := rd })
  | .sysRemap rs1 rs2 => some (GM.join 0x0b { sub := 6, scope := 0, aq := false, rl := false, rs2 := rs2, rs1 := rs1, f3 := 5, rd := 0 })
  | .sysInject rs1 rs2 => some (GM.join 0x0b { sub := 7, scope := 0, aq := false, rl := false, rs2 := rs2, rs1 := rs1, f3 := 5, rd := 0 })
  | .feLd o rd rs1 => some (GM.join 0x2b { sub := 0, scope := o.scope, aq := o.aq, rl := o.rl, rs2 := 0, rs1 := rs1, f3 := 0, rd := rd })
  | .feLdk o rd rs1 => some (GM.join 0x2b { sub := 1, scope := o.scope, aq := o.aq, rl := o.rl, rs2 := 0, rs1 := rs1, f3 := 0, rd := rd })
  | .feSt o rs1 rs2 => some (GM.join 0x2b { sub := 2, scope := o.scope, aq := o.aq, rl := o.rl, rs2 := rs2, rs1 := rs1, f3 := 0, rd := 0 })
  | .feStf o rs1 rs2 => some (GM.join 0x2b { sub := 3, scope := o.scope, aq := o.aq, rl := o.rl, rs2 := rs2, rs1 := rs1, f3 := 0, rd := 0 })
  | .feClr o rs1 => some (GM.join 0x2b { sub := 4, scope := o.scope, aq := o.aq, rl := o.rl, rs2 := 0, rs1 := rs1, f3 := 0, rd := 0 })
  | .feTest o rd rs1 => some (GM.join 0x2b { sub := 5, scope := o.scope, aq := o.aq, rl := o.rl, rs2 := 0, rs1 := rs1, f3 := 0, rd := rd })
  | .edgePut rl scope rs1 rs2 => some (GM.join 0x2b { sub := 0, scope := scope, aq := false, rl := rl, rs2 := rs2, rs1 := rs1, f3 := 1, rd := 0 })
  | .edgePutv rl scope rs1 vs2 => some (GM.join 0x2b { sub := 1, scope := scope, aq := false, rl := rl, rs2 := vs2, rs1 := rs1, f3 := 1, rd := 0 })
  | .edgeDone rl scope rs1 => some (GM.join 0x2b { sub := 2, scope := scope, aq := false, rl := rl, rs2 := 0, rs1 := rs1, f3 := 1, rd := 0 })
  | .strSample rd rs1 => some (GM.join 0x2b { sub := 3, scope := 0, aq := false, rl := false, rs2 := 0, rs1 := rs1, f3 := 1, rd := rd })
  | .fenceScCore => some (GM.join 0x2b { sub := 4, scope := 0, aq := false, rl := false, rs2 := 0, rs1 := 0, f3 := 1, rd := 0 })
  | .fenceScCluster => some (GM.join 0x2b { sub := 4, scope := 1, aq := false, rl := false, rs2 := 0, rs1 := 0, f3 := 1, rd := 0 })
  | .fenceScDie => some (GM.join 0x2b { sub := 4, scope := 2, aq := false, rl := false, rs2 := 0, rs1 := 0, f3 := 1, rd := 0 })
  | .fenceScWafer => some (GM.join 0x2b { sub := 4, scope := 3, aq := false, rl := false, rs2 := 0, rs1 := 0, f3 := 1, rd := 0 })
  | .fenceEngCore => some (GM.join 0x2b { sub := 5, scope := 0, aq := false, rl := false, rs2 := 0, rs1 := 0, f3 := 1, rd := 0 })
  | .fenceEngCluster => some (GM.join 0x2b { sub := 5, scope := 1, aq := false, rl := false, rs2 := 0, rs1 := 0, f3 := 1, rd := 0 })
  | .fenceEngDie => some (GM.join 0x2b { sub := 5, scope := 2, aq := false, rl := false, rs2 := 0, rs1 := 0, f3 := 1, rd := 0 })
  | .fenceEngWafer => some (GM.join 0x2b { sub := 5, scope := 3, aq := false, rl := false, rs2 := 0, rs1 := 0, f3 := 1, rd := 0 })
  | .fenceMxCore => some (GM.join 0x2b { sub := 6, scope := 0, aq := false, rl := false, rs2 := 0, rs1 := 0, f3 := 1, rd := 0 })
  | .fenceMxCluster => some (GM.join 0x2b { sub := 6, scope := 1, aq := false, rl := false, rs2 := 0, rs1 := 0, f3 := 1, rd := 0 })
  | .fenceMxDie => some (GM.join 0x2b { sub := 6, scope := 2, aq := false, rl := false, rs2 := 0, rs1 := 0, f3 := 1, rd := 0 })
  | .fenceMxWafer => some (GM.join 0x2b { sub := 6, scope := 3, aq := false, rl := false, rs2 := 0, rs1 := 0, f3 := 1, rd := 0 })
  | .engWr rs1 rs2 => some (GM.join 0x2b { sub := 0, scope := 0, aq := false, rl := false, rs2 := rs2, rs1 := rs1, f3 := 2, rd := 0 })
  | .engRd rd rs1 => some (GM.join 0x2b { sub := 1, scope := 0, aq := false, rl := false, rs2 := 0, rs1 := rs1, f3 := 2, rd := rd })
  | .engSwap rd rs1 rs2 => some (GM.join 0x2b { sub := 2, scope := 0, aq := false, rl := false, rs2 := rs2, rs1 := rs1, f3 := 2, rd := rd })
  | .mxMma o rd zc => some (GM.join 0x2b { sub := 3, scope := o.scope, aq := o.aq, rl := o.rl, rs2 := zc.setWidth 5, rs1 := 0, f3 := 2, rd := rd })
  | .mxMmac o rd zc za => some (GM.join 0x2b { sub := 4, scope := o.scope, aq := o.aq, rl := o.rl, rs2 := zc.setWidth 5, rs1 := za.setWidth 5, f3 := 2, rd := rd })
  | .mxStore o rd zc => some (GM.join 0x2b { sub := 5, scope := o.scope, aq := o.aq, rl := o.rl, rs2 := zc.setWidth 5, rs1 := 0, f3 := 2, rd := rd })
  | .mxZero0 => some (GM.join 0x2b { sub := 6, scope := 0, aq := false, rl := false, rs2 := (0 : ZReg).setWidth 5, rs1 := 0, f3 := 2, rd := 0 })
  | .mxZero1 => some (GM.join 0x2b { sub := 6, scope := 0, aq := false, rl := false, rs2 := (1 : ZReg).setWidth 5, rs1 := 0, f3 := 2, rd := 0 })
  | .mxZero2 => some (GM.join 0x2b { sub := 6, scope := 0, aq := false, rl := false, rs2 := (2 : ZReg).setWidth 5, rs1 := 0, f3 := 2, rd := 0 })
  | .mxZero3 => some (GM.join 0x2b { sub := 6, scope := 0, aq := false, rl := false, rs2 := (3 : ZReg).setWidth 5, rs1 := 0, f3 := 2, rd := 0 })
  | .mxZero4 => some (GM.join 0x2b { sub := 6, scope := 0, aq := false, rl := false, rs2 := (4 : ZReg).setWidth 5, rs1 := 0, f3 := 2, rd := 0 })
  | .mxZero5 => some (GM.join 0x2b { sub := 6, scope := 0, aq := false, rl := false, rs2 := (5 : ZReg).setWidth 5, rs1 := 0, f3 := 2, rd := 0 })
  | .mxZero6 => some (GM.join 0x2b { sub := 6, scope := 0, aq := false, rl := false, rs2 := (6 : ZReg).setWidth 5, rs1 := 0, f3 := 2, rd := 0 })
  | .mxZero7 => some (GM.join 0x2b { sub := 6, scope := 0, aq := false, rl := false, rs2 := (7 : ZReg).setWidth 5, rs1 := 0, f3 := 2, rd := 0 })
  | .cpGo o rd rs1 rs2 => some (GM.join 0x2b { sub := 0, scope := o.scope, aq := o.aq, rl := o.rl, rs2 := rs2, rs1 := rs1, f3 := 3, rd := rd })
  | .cpGomx o rd rs1 rs2 => some (GM.join 0x2b { sub := 1, scope := o.scope, aq := o.aq, rl := o.rl, rs2 := rs2, rs1 := rs1, f3 := 3, rd := rd })
  | .cpGath o rd rs1 rs2 => some (GM.join 0x2b { sub := 2, scope := o.scope, aq := o.aq, rl := o.rl, rs2 := rs2, rs1 := rs1, f3 := 3, rd := rd })
  | .cpScat o rd rs1 rs2 => some (GM.join 0x2b { sub := 3, scope := o.scope, aq := o.aq, rl := o.rl, rs2 := rs2, rs1 := rs1, f3 := 3, rd := rd })
  | .layGo o rd rs1 rs2 => some (GM.join 0x2b { sub := 4, scope := o.scope, aq := o.aq, rl := o.rl, rs2 := rs2, rs1 := rs1, f3 := 3, rd := rd })
  | .dramReq o rd rs1 rs2 => some (GM.join 0x2b { sub := 5, scope := o.scope, aq := o.aq, rl := o.rl, rs2 := rs2, rs1 := rs1, f3 := 3, rd := rd })
  | .dramReqv o rd rs1 vs2 => some (GM.join 0x2b { sub := 6, scope := o.scope, aq := o.aq, rl := o.rl, rs2 := vs2, rs1 := rs1, f3 := 3, rd := rd })
  | .barArrive o rd rs1 => some (GM.join 0x2b { sub := 0, scope := o.scope, aq := o.aq, rl := o.rl, rs2 := 0, rs1 := rs1, f3 := 6, rd := rd })
  | .barJoin o rd rs1 => some (GM.join 0x2b { sub := 1, scope := o.scope, aq := o.aq, rl := o.rl, rs2 := 0, rs1 := rs1, f3 := 6, rd := rd })
  | .barLeave o rs1 => some (GM.join 0x2b { sub := 2, scope := o.scope, aq := o.aq, rl := o.rl, rs2 := 0, rs1 := rs1, f3 := 6, rd := 0 })
  | .barPhase o rd rs1 => some (GM.join 0x2b { sub := 3, scope := o.scope, aq := o.aq, rl := o.rl, rs2 := 0, rs1 := rs1, f3 := 6, rd := rd })
  | .nbAddD o rd rs1 rs2 => some (GM.join 0x2b { sub := 0, scope := o.scope, aq := o.aq, rl := o.rl, rs2 := rs2, rs1 := rs1, f3 := 4, rd := rd })
  | .nbAddW o rd rs1 rs2 => some (GM.join 0x2b { sub := 0, scope := o.scope, aq := o.aq, rl := o.rl, rs2 := rs2, rs1 := rs1, f3 := 5, rd := rd })
  | .nbAddfD o rd rs1 rs2 => some (GM.join 0x2b { sub := 1, scope := o.scope, aq := o.aq, rl := o.rl, rs2 := rs2, rs1 := rs1, f3 := 4, rd := rd })
  | .nbAddfW o rd rs1 rs2 => some (GM.join 0x2b { sub := 1, scope := o.scope, aq := o.aq, rl := o.rl, rs2 := rs2, rs1 := rs1, f3 := 5, rd := rd })
  | .nbFaddD o rd rs1 rs2 => some (GM.join 0x2b { sub := 2, scope := o.scope, aq := o.aq, rl := o.rl, rs2 := rs2, rs1 := rs1, f3 := 4, rd := rd })
  | .nbFaddW o rd rs1 rs2 => some (GM.join 0x2b { sub := 2, scope := o.scope, aq := o.aq, rl := o.rl, rs2 := rs2, rs1 := rs1, f3 := 5, rd := rd })
  | .nbMinD o rs1 rs2 => some (GM.join 0x2b { sub := 3, scope := o.scope, aq := o.aq, rl := o.rl, rs2 := rs2, rs1 := rs1, f3 := 4, rd := 0 })
  | .nbMinW o rs1 rs2 => some (GM.join 0x2b { sub := 3, scope := o.scope, aq := o.aq, rl := o.rl, rs2 := rs2, rs1 := rs1, f3 := 5, rd := 0 })
  | .nbMaxD o rs1 rs2 => some (GM.join 0x2b { sub := 3, scope := o.scope, aq := o.aq, rl := o.rl, rs2 := rs2, rs1 := rs1, f3 := 4, rd := 1 })
  | .nbMaxW o rs1 rs2 => some (GM.join 0x2b { sub := 3, scope := o.scope, aq := o.aq, rl := o.rl, rs2 := rs2, rs1 := rs1, f3 := 5, rd := 1 })
  | .nbMinuD o rs1 rs2 => some (GM.join 0x2b { sub := 3, scope := o.scope, aq := o.aq, rl := o.rl, rs2 := rs2, rs1 := rs1, f3 := 4, rd := 2 })
  | .nbMinuW o rs1 rs2 => some (GM.join 0x2b { sub := 3, scope := o.scope, aq := o.aq, rl := o.rl, rs2 := rs2, rs1 := rs1, f3 := 5, rd := 2 })
  | .nbMaxuD o rs1 rs2 => some (GM.join 0x2b { sub := 3, scope := o.scope, aq := o.aq, rl := o.rl, rs2 := rs2, rs1 := rs1, f3 := 4, rd := 3 })
  | .nbMaxuW o rs1 rs2 => some (GM.join 0x2b { sub := 3, scope := o.scope, aq := o.aq, rl := o.rl, rs2 := rs2, rs1 := rs1, f3 := 5, rd := 3 })
  | .nbFminD o rs1 rs2 => some (GM.join 0x2b { sub := 3, scope := o.scope, aq := o.aq, rl := o.rl, rs2 := rs2, rs1 := rs1, f3 := 4, rd := 4 })
  | .nbFminW o rs1 rs2 => some (GM.join 0x2b { sub := 3, scope := o.scope, aq := o.aq, rl := o.rl, rs2 := rs2, rs1 := rs1, f3 := 5, rd := 4 })
  | .nbFmaxD o rs1 rs2 => some (GM.join 0x2b { sub := 3, scope := o.scope, aq := o.aq, rl := o.rl, rs2 := rs2, rs1 := rs1, f3 := 4, rd := 5 })
  | .nbFmaxW o rs1 rs2 => some (GM.join 0x2b { sub := 3, scope := o.scope, aq := o.aq, rl := o.rl, rs2 := rs2, rs1 := rs1, f3 := 5, rd := 5 })
  | .nbAndD o rs1 rs2 => some (GM.join 0x2b { sub := 4, scope := o.scope, aq := o.aq, rl := o.rl, rs2 := rs2, rs1 := rs1, f3 := 4, rd := 0 })
  | .nbAndW o rs1 rs2 => some (GM.join 0x2b { sub := 4, scope := o.scope, aq := o.aq, rl := o.rl, rs2 := rs2, rs1 := rs1, f3 := 5, rd := 0 })
  | .nbOrD o rs1 rs2 => some (GM.join 0x2b { sub := 4, scope := o.scope, aq := o.aq, rl := o.rl, rs2 := rs2, rs1 := rs1, f3 := 4, rd := 1 })
  | .nbOrW o rs1 rs2 => some (GM.join 0x2b { sub := 4, scope := o.scope, aq := o.aq, rl := o.rl, rs2 := rs2, rs1 := rs1, f3 := 5, rd := 1 })
  | .nbXorD o rs1 rs2 => some (GM.join 0x2b { sub := 4, scope := o.scope, aq := o.aq, rl := o.rl, rs2 := rs2, rs1 := rs1, f3 := 4, rd := 2 })
  | .nbXorW o rs1 rs2 => some (GM.join 0x2b { sub := 4, scope := o.scope, aq := o.aq, rl := o.rl, rs2 := rs2, rs1 := rs1, f3 := 5, rd := 2 })
  | .nbSwapD o rd rs1 rs2 => some (GM.join 0x2b { sub := 5, scope := o.scope, aq := o.aq, rl := o.rl, rs2 := rs2, rs1 := rs1, f3 := 4, rd := rd })
  | .nbSwapW o rd rs1 rs2 => some (GM.join 0x2b { sub := 5, scope := o.scope, aq := o.aq, rl := o.rl, rs2 := rs2, rs1 := rs1, f3 := 5, rd := rd })
  | .nbCasD o rd rs1 rs2 => some (GM.join 0x2b { sub := 6, scope := o.scope, aq := o.aq, rl := o.rl, rs2 := rs2, rs1 := rs1, f3 := 4, rd := rd })
  | .nbCasW o rd rs1 rs2 => some (GM.join 0x2b { sub := 6, scope := o.scope, aq := o.aq, rl := o.rl, rs2 := rs2, rs1 := rs1, f3 := 5, rd := rd })
  | .nbVaddD o rs1 rs2 => some (GM.join 0x2b { sub := 7, scope := o.scope, aq := o.aq, rl := o.rl, rs2 := rs2, rs1 := rs1, f3 := 4, rd := 0 })
  | .nbVaddW o rs1 rs2 => some (GM.join 0x2b { sub := 7, scope := o.scope, aq := o.aq, rl := o.rl, rs2 := rs2, rs1 := rs1, f3 := 5, rd := 0 })
  | .nbVfaddD o rs1 rs2 => some (GM.join 0x2b { sub := 7, scope := o.scope, aq := o.aq, rl := o.rl, rs2 := rs2, rs1 := rs1, f3 := 4, rd := 1 })
  | .nbVfaddW o rs1 rs2 => some (GM.join 0x2b { sub := 7, scope := o.scope, aq := o.aq, rl := o.rl, rs2 := rs2, rs1 := rs1, f3 := 5, rd := 1 })
  | .nbVfminD o rs1 rs2 => some (GM.join 0x2b { sub := 7, scope := o.scope, aq := o.aq, rl := o.rl, rs2 := rs2, rs1 := rs1, f3 := 4, rd := 2 })
  | .nbVfminW o rs1 rs2 => some (GM.join 0x2b { sub := 7, scope := o.scope, aq := o.aq, rl := o.rl, rs2 := rs2, rs1 := rs1, f3 := 5, rd := 2 })
  | .nbVfmaxD o rs1 rs2 => some (GM.join 0x2b { sub := 7, scope := o.scope, aq := o.aq, rl := o.rl, rs2 := rs2, rs1 := rs1, f3 := 4, rd := 3 })
  | .nbVfmaxW o rs1 rs2 => some (GM.join 0x2b { sub := 7, scope := o.scope, aq := o.aq, rl := o.rl, rs2 := rs2, rs1 := rs1, f3 := 5, rd := 3 })
  | .nbVandD o rs1 rs2 => some (GM.join 0x2b { sub := 7, scope := o.scope, aq := o.aq, rl := o.rl, rs2 := rs2, rs1 := rs1, f3 := 4, rd := 4 })
  | .nbVandW o rs1 rs2 => some (GM.join 0x2b { sub := 7, scope := o.scope, aq := o.aq, rl := o.rl, rs2 := rs2, rs1 := rs1, f3 := 5, rd := 4 })
  | .nbVorD o rs1 rs2 => some (GM.join 0x2b { sub := 7, scope := o.scope, aq := o.aq, rl := o.rl, rs2 := rs2, rs1 := rs1, f3 := 4, rd := 5 })
  | .nbVorW o rs1 rs2 => some (GM.join 0x2b { sub := 7, scope := o.scope, aq := o.aq, rl := o.rl, rs2 := rs2, rs1 := rs1, f3 := 5, rd := 5 })
  | .nbVxorD o rs1 rs2 => some (GM.join 0x2b { sub := 7, scope := o.scope, aq := o.aq, rl := o.rl, rs2 := rs2, rs1 := rs1, f3 := 4, rd := 6 })
  | .nbVxorW o rs1 rs2 => some (GM.join 0x2b { sub := 7, scope := o.scope, aq := o.aq, rl := o.rl, rs2 := rs2, rs1 := rs1, f3 := 5, rd := 6 })
  | .vadd w km vd vs1 vs2 => some (GV.join 0x5b { w := w, op := 0, vs2 := vs2, vs1 := vs1, km := km, vd := vd })
  | .vsub w km vd vs1 vs2 => some (GV.join 0x5b { w := w, op := 1, vs2 := vs2, vs1 := vs1, km := km, vd := vd })
  | .vmul w km vd vs1 vs2 => some (GV.join 0x5b { w := w, op := 2, vs2 := vs2, vs1 := vs1, km := km, vd := vd })
  | .vmulh w km vd vs1 vs2 => some (GV.join 0x5b { w := w, op := 3, vs2 := vs2, vs1 := vs1, km := km, vd := vd })
  | .vmin w km vd vs1 vs2 => some (GV.join 0x5b { w := w, op := 4, vs2 := vs2, vs1 := vs1, km := km, vd := vd })
  | .vminu w km vd vs1 vs2 => some (GV.join 0x5b { w := w, op := 5, vs2 := vs2, vs1 := vs1, km := km, vd := vd })
  | .vmax w km vd vs1 vs2 => some (GV.join 0x5b { w := w, op := 6, vs2 := vs2, vs1 := vs1, km := km, vd := vd })
  | .vmaxu w km vd vs1 vs2 => some (GV.join 0x5b { w := w, op := 7, vs2 := vs2, vs1 := vs1, km := km, vd := vd })
  | .vand w km vd vs1 vs2 => some (GV.join 0x5b { w := w, op := 8, vs2 := vs2, vs1 := vs1, km := km, vd := vd })
  | .vor w km vd vs1 vs2 => some (GV.join 0x5b { w := w, op := 9, vs2 := vs2, vs1 := vs1, km := km, vd := vd })
  | .vxor w km vd vs1 vs2 => some (GV.join 0x5b { w := w, op := 10, vs2 := vs2, vs1 := vs1, km := km, vd := vd })
  | .vsll w km vd vs1 vs2 => some (GV.join 0x5b { w := w, op := 11, vs2 := vs2, vs1 := vs1, km := km, vd := vd })
  | .vsrl w km vd vs1 vs2 => some (GV.join 0x5b { w := w, op := 12, vs2 := vs2, vs1 := vs1, km := km, vd := vd })
  | .vsra w km vd vs1 vs2 => some (GV.join 0x5b { w := w, op := 13, vs2 := vs2, vs1 := vs1, km := km, vd := vd })
  | .vfadd w km vd vs1 vs2 => some (GV.join 0x5b { w := w, op := 14, vs2 := vs2, vs1 := vs1, km := km, vd := vd })
  | .vfsub w km vd vs1 vs2 => some (GV.join 0x5b { w := w, op := 15, vs2 := vs2, vs1 := vs1, km := km, vd := vd })
  | .vfmul w km vd vs1 vs2 => some (GV.join 0x5b { w := w, op := 16, vs2 := vs2, vs1 := vs1, km := km, vd := vd })
  | .vfdiv w km vd vs1 vs2 => some (GV.join 0x5b { w := w, op := 17, vs2 := vs2, vs1 := vs1, km := km, vd := vd })
  | .vfsqrt w km vd vs1 => some (GV.join 0x5b { w := w, op := 18, vs2 := 0, vs1 := vs1, km := km, vd := vd })
  | .vfmin w km vd vs1 vs2 => some (GV.join 0x5b { w := w, op := 19, vs2 := vs2, vs1 := vs1, km := km, vd := vd })
  | .vfmax w km vd vs1 vs2 => some (GV.join 0x5b { w := w, op := 20, vs2 := vs2, vs1 := vs1, km := km, vd := vd })
  | .vfmadd w km vd vs1 vs2 => some (GV.join 0x5b { w := w, op := 21, vs2 := vs2, vs1 := vs1, km := km, vd := vd })
  | .vfmsub w km vd vs1 vs2 => some (GV.join 0x5b { w := w, op := 22, vs2 := vs2, vs1 := vs1, km := km, vd := vd })
  | .vfnmadd w km vd vs1 vs2 => some (GV.join 0x5b { w := w, op := 23, vs2 := vs2, vs1 := vs1, km := km, vd := vd })
  | .vfnmsub w km vd vs1 vs2 => some (GV.join 0x5b { w := w, op := 24, vs2 := vs2, vs1 := vs1, km := km, vd := vd })
  | .vfsgnj w km vd vs1 vs2 => some (GV.join 0x5b { w := w, op := 25, vs2 := vs2, vs1 := vs1, km := km, vd := vd })
  | .vfsgnjn w km vd vs1 vs2 => some (GV.join 0x5b { w := w, op := 26, vs2 := vs2, vs1 := vs1, km := km, vd := vd })
  | .vfclass w km vd vs1 => some (GV.join 0x5b { w := w, op := 27, vs2 := 0, vs1 := vs1, km := km, vd := vd })
  | .vcomp24 w km vd kx vs1 => some (GV.join 0x5b { w := w, op := 28, vs2 := kx.setWidth 5, vs1 := vs1, km := km, vd := vd })
  | .vbaq w km vd vs1 vs2 => some (GV.join 0x5b { w := w.setWidth 2, op := 29, vs2 := vs2, vs1 := vs1, km := km, vd := vd })
  | .vdot4 w km vd vs1 vs2 => some (GV.join 0x5b { w := w.setWidth 2, op := 30, vs2 := vs2, vs1 := vs1, km := km, vd := vd })
  | .vcvtf w km src vd vs1 => some (GV.join 0x7b { w := w, op := 0, vs2 := src.setWidth 5, vs1 := vs1, km := km, vd := vd })
  | .vcvti w km vd vs1 => some (GV.join 0x7b { w := w, op := 1, vs2 := 0, vs1 := vs1, km := km, vd := vd })
  | .vcvtx w km vd vs1 => some (GV.join 0x7b { w := w, op := 2, vs2 := 0, vs1 := vs1, km := km, vd := vd })
  | .vtenc w km p vd vs1 => some (GV.join 0x7b { w := w.setWidth 2, op := 3, vs2 := p.setWidth 5, vs1 := vs1, km := km, vd := vd })
  | .vtdec w km p vd vs1 => some (GV.join 0x7b { w := w, op := 4, vs2 := p.setWidth 5, vs1 := vs1, km := km, vd := vd })
  | .vrepkPack km p vd vs1 => some (GV.join 0x7b { w := 0, op := 5, vs2 := p.setWidth 5, vs1 := vs1, km := km, vd := vd })
  | .vrepkUnpk km p vd vs1 => some (GV.join 0x7b { w := 1, op := 5, vs2 := p.setWidth 5, vs1 := vs1, km := km, vd := vd })
  | .vcmpeq w km kd vs1 vs2 => some (GV.join 0x7b { w := w, op := 6, vs2 := vs2, vs1 := vs1, km := km, vd := kd.setWidth 5 })
  | .vcmplt w km kd vs1 vs2 => some (GV.join 0x7b { w := w, op := 7, vs2 := vs2, vs1 := vs1, km := km, vd := kd.setWidth 5 })
  | .vcmpltu w km kd vs1 vs2 => some (GV.join 0x7b { w := w, op := 8, vs2 := vs2, vs1 := vs1, km := km, vd := kd.setWidth 5 })
  | .vfcmpeq w km kd vs1 vs2 => some (GV.join 0x7b { w := w, op := 9, vs2 := vs2, vs1 := vs1, km := km, vd := kd.setWidth 5 })
  | .vfcmplt w km kd vs1 vs2 => some (GV.join 0x7b { w := w, op := 10, vs2 := vs2, vs1 := vs1, km := km, vd := kd.setWidth 5 })
  | .kand kd ka kb => some (GV.join 0x7b { w := 0, op := 11, vs2 := kb.setWidth 5, vs1 := ka.setWidth 5, km := 0, vd := kd.setWidth 5 })
  | .kor kd ka kb => some (GV.join 0x7b { w := 1, op := 11, vs2 := kb.setWidth 5, vs1 := ka.setWidth 5, km := 0, vd := kd.setWidth 5 })
  | .kxor kd ka kb => some (GV.join 0x7b { w := 2, op := 11, vs2 := kb.setWidth 5, vs1 := ka.setWidth 5, km := 0, vd := kd.setWidth 5 })
  | .kmv kd rs1 => some (GV.join 0x7b { w := 3, op := 11, vs2 := 0, vs1 := rs1, km := 0, vd := kd.setWidth 5 })
  | .vld w km vd rs1 => some (GV.join 0x7b { w := w, op := 12, vs2 := 0, vs1 := rs1, km := km, vd := vd })
  | .vst w km vs3 rs1 => some (GV.join 0x7b { w := w, op := 13, vs2 := 0, vs1 := rs1, km := km, vd := vs3 })
  | .vlds w km vd rs1 rs2 => some (GV.join 0x7b { w := w, op := 14, vs2 := rs2, vs1 := rs1, km := km, vd := vd })
  | .vsts w km vs3 rs1 rs2 => some (GV.join 0x7b { w := w, op := 15, vs2 := rs2, vs1 := rs1, km := km, vd := vs3 })
  | .vldx w km vd rs1 vs2 => some (GV.join 0x7b { w := w, op := 16, vs2 := vs2, vs1 := rs1, km := km, vd := vd })
  | .vstx w km vs3 rs1 vs2 => some (GV.join 0x7b { w := w, op := 17, vs2 := vs2, vs1 := rs1, km := km, vd := vs3 })
  | .vldb w km vd rs1 => some (GV.join 0x7b { w := w, op := 18, vs2 := 0, vs1 := rs1, km := km, vd := vd })
  | .kst ks rs1 => some (GV.join 0x7b { w := 3, op := 19, vs2 := 0, vs1 := rs1, km := 0, vd := ks.setWidth 5 })
  | .vperm w km vd vs1 vs2 => some (GV.join 0x7b { w := w, op := 20, vs2 := vs2, vs1 := vs1, km := km, vd := vd })
  | .vslup w km vd vs1 rs2 => some (GV.join 0x7b { w := w, op := 21, vs2 := rs2, vs1 := vs1, km := km, vd := vd })
  | .vsldn w km vd vs1 rs2 => some (GV.join 0x7b { w := w, op := 22, vs2 := rs2, vs1 := vs1, km := km, vd := vd })
  | .vzip w km vd vs1 vs2 => some (GV.join 0x7b { w := w, op := 23, vs2 := vs2, vs1 := vs1, km := km, vd := vd })
  | .vuzp w km vd vs1 vs2 => some (GV.join 0x7b { w := w, op := 24, vs2 := vs2, vs1 := vs1, km := km, vd := vd })
  | .vsplat w km vd rs1 => some (GV.join 0x7b { w := w, op := 25, vs2 := 0, vs1 := rs1, km := km, vd := vd })
  | .vredadd w km rd vs1 rs2 => some (GV.join 0x7b { w := w, op := 26, vs2 := rs2, vs1 := vs1, km := km, vd := rd })
  | .vfredadd w km rd vs1 rs2 => some (GV.join 0x7b { w := w, op := 27, vs2 := rs2, vs1 := vs1, km := km, vd := rd })
  | .vfredmax w km rd vs1 rs2 => some (GV.join 0x7b { w := w, op := 28, vs2 := rs2, vs1 := vs1, km := km, vd := rd })
  | _ => none

end Sys2Proof
end

