-- ==== Sys2Proof/Machine/Number.lean ====
section
/-! DEFINITION. Number formats and exact arithmetic (spec 02): IEEE encodings, the tapered formats T8 and T6, exact sums and
the one rounding RoundF. A value is an exact dyadic number, an infinity or a NaN; every operation computes exactly and
narrows once at the end. -/
namespace Sys2Proof.Machine

/-- An exact value (R65): (-1)^neg × mant × 2^exp, where mant = 0 is a signed zero; ±Inf; NaN. -/
inductive Num where
  | fin (neg : Bool) (mant : Nat) (exp : Int)
  | inf (neg : Bool)
  | nan
  deriving DecidableEq, Repr

/-- The flags of gvfflags (R27): bit 5 zb, 4 nv, 3 dz, 2 of, 1 uf, 0 nx. -/
abbrev Flags := BitVec 6
def flagZB : Flags := 0x20
def flagNV : Flags := 0x10
def flagDZ : Flags := 0x08
def flagOF : Flags := 0x04
def flagUF : Flags := 0x02
def flagNX : Flags := 0x01

/-- Flags that hold when a condition does. -/
def flagIf (c : Bool) (f : Flags) : Flags := if c then f else 0

/-- An IEEE format by its exponent and fraction widths (R44, R46). -/
structure Fmt where
  eb : Nat
  fb : Nat
  deriving DecidableEq, Repr

def bf16 : Fmt := { eb := 8, fb := 7 }
def fp16 : Fmt := { eb := 5, fb := 10 }
def fp32 : Fmt := { eb := 8, fb := 23 }
def fp64 : Fmt := { eb := 11, fb := 52 }

def Fmt.width (f : Fmt) : Nat := 1 + f.eb + f.fb
def Fmt.bias (f : Fmt) : Nat := 2 ^ (f.eb - 1) - 1
/-- Biased exponent of Inf and NaN. -/
def Fmt.top (f : Fmt) : Nat := 2 ^ f.eb - 1
/-- Exponent of the least normal number. -/
def Fmt.emin (f : Fmt) : Int := 1 - (f.bias : Int)

/-- The bits of a sign, a biased exponent and a fraction. -/
def Fmt.pack (f : Fmt) (neg : Bool) (be frac : Nat) : Nat :=
  (if neg then 2 ^ (f.eb + f.fb) else 0) + be * 2 ^ f.fb + frac

def Fmt.signOf (f : Fmt) (x : Nat) : Bool := x.testBit (f.eb + f.fb)
def Fmt.expOf (f : Fmt) (x : Nat) : Nat := x / 2 ^ f.fb % 2 ^ f.eb
def Fmt.fracOf (f : Fmt) (x : Nat) : Nat := x % 2 ^ f.fb

/-- CanonNaN(fmt), the canonical quiet NaN (R47). -/
def Fmt.canonNaN (f : Fmt) : Nat := f.pack false f.top (2 ^ (f.fb - 1))

def Fmt.isNaN (f : Fmt) (x : Nat) : Bool := f.expOf x == f.top && f.fracOf x != 0
/-- A NaN whose top fraction bit is 0 (R46). -/
def Fmt.isSNaN (f : Fmt) (x : Nat) : Bool := f.isNaN x && !x.testBit (f.fb - 1)

/-- Decode(x, fmt): the value of an IEEE encoding, exactly (R46, R65). -/
def Fmt.decode (f : Fmt) (x : Nat) : Num :=
  if f.expOf x = f.top then
    if f.fracOf x = 0 then .inf (f.signOf x) else .nan
  else if f.expOf x = 0 then .fin (f.signOf x) (f.fracOf x) (f.emin - f.fb)
  else .fin (f.signOf x) (2 ^ f.fb + f.fracOf x) ((f.expOf x : Int) - f.bias - f.fb)

/-- Rounding modes of gvfrm.rm (R28): 0 RNE, 1 RTZ, 2 RDN, 3 RUP, 4 RMM. -/
abbrev Rm := BitVec 3
def rne : Rm := 0

/-- Whether a magnitude whose kept part is odd or even, and whose dropped part compares with one half as given
(0 exact, 1 below, 2 equal, 3 above), rounds away from zero. -/
def roundsUp (rm : Rm) (neg odd : Bool) (rest : Nat) : Bool :=
  if rest = 0 then false
  else if rm = 1 then false
  else if rm = 2 then neg
  else if rm = 3 then !neg
  else if rm = 4 then decide (2 ≤ rest)
  else decide (rest = 3) || (decide (rest = 2) && odd)

/-- A dropped part r below 2^sh, compared with one half: 0 exact, 1 below, 2 equal, 3 above. -/
def restOf (r sh : Nat) : Nat :=
  if r = 0 then 0 else if 2 * r < 2 ^ sh then 1 else if 2 * r = 2 ^ sh then 2 else 3

/-- mant × 2^exp rounded to a multiple of 2^q: the multiple, and whether it is inexact. -/
def roundAt (rm : Rm) (neg : Bool) (mant : Nat) (exp q : Int) : Nat × Bool :=
  if q ≤ exp then (mant * 2 ^ (exp - q).toNat, false)
  else
    let sh := (q - exp).toNat
    let k := mant >>> sh
    let rest := restOf (mant % 2 ^ sh) sh
    (if roundsUp rm neg (k % 2 == 1) rest then k + 1 else k, rest != 0)

/-- Overflow's result by mode (IEEE 754-2019): Inf, or the largest finite number. -/
def Fmt.overflow (f : Fmt) (rm : Rm) (neg : Bool) : Nat :=
  let toInf := if rm = 1 then false else if rm = 2 then neg else if rm = 3 then !neg else true
  if toInf then f.pack neg f.top 0 else f.pack neg (f.top - 1) (2 ^ f.fb - 1)

/-- A non-zero finite value rounded into a format, with flags of, uf (tiny after rounding and inexact) and nx (R62). -/
def Fmt.roundFin (f : Fmt) (rm : Rm) (neg : Bool) (mant : Nat) (exp : Int) : Nat × Flags :=
  let e := (mant.log2 : Int) + exp
  let q := max e f.emin - f.fb
  let r := roundAt rm neg mant exp q
  let carry := decide (2 ^ (f.fb + 1) ≤ r.1)
  let m := if carry then r.1 / 2 else r.1
  let q' := if carry then q + 1 else q
  if m < 2 ^ f.fb then
    -- the result is subnormal or zero; it is tiny after rounding unless the unbounded rounding reaches 2^emin,
    -- and then m would have reached 2^fb
    (f.pack neg 0 m, flagIf r.2 (flagUF ||| flagNX))
  else
    let be := (q' + f.fb + f.bias).toNat
    let free := roundAt rm neg mant exp (e - f.fb)
    let tiny := decide (e < f.emin) && decide (free.1 < 2 ^ (f.fb + 1))
    if f.top ≤ be then (f.overflow rm neg, flagOF ||| flagNX)
    else (f.pack neg be (m - 2 ^ f.fb), flagIf r.2 flagNX ||| flagIf (r.2 && tiny) flagUF)

/-- RoundF(x, fmt, rm): the bits and the flags (R65). -/
def Fmt.round (f : Fmt) (rm : Rm) (x : Num) : Nat × Flags :=
  match x with
  | .nan => (f.canonNaN, 0)
  | .inf n => (f.pack n f.top 0, 0)
  | .fin n m e => if m = 0 then (f.pack n 0 0, 0) else f.roundFin rm n m e

/-- Opposite sign. -/
def Num.neg (x : Num) : Num :=
  match x with
  | .fin n m e => .fin (!n) m e
  | .inf n => .inf (!n)
  | .nan => .nan

def Num.isNaN (x : Num) : Bool :=
  match x with
  | .nan => true
  | _ => false

def Num.isInf (x : Num) : Bool :=
  match x with
  | .inf _ => true
  | _ => false

def Num.isZero (x : Num) : Bool :=
  match x with
  | .fin _ m _ => m == 0
  | _ => false

def Num.sign (x : Num) : Bool :=
  match x with
  | .fin n _ _ => n
  | .inf n => n
  | .nan => false

def Num.zero : Num := .fin false 0 0

/-- The signed integer at exponent e of a finite value whose exponent is at least e. -/
def signedAt (neg : Bool) (mant : Nat) (exp e : Int) : Int :=
  let m : Int := ((mant * 2 ^ (exp - e).toNat : Nat) : Int)
  if neg then -m else m

/-- An exact sum; a zero sum of unlike signs takes the sign that rounding towards −Inf gives when rdn holds. -/
def Num.add (rdn : Bool) (x y : Num) : Num :=
  match x, y with
  | .nan, _ => .nan
  | _, .nan => .nan
  | .inf a, .inf b => if a = b then .inf a else .nan
  | .inf a, .fin _ _ _ => .inf a
  | .fin _ _ _, .inf b => .inf b
  | .fin na ma ea, .fin nb mb eb =>
    let e := min ea eb
    let t := signedAt na ma ea e + signedAt nb mb eb e
    if t = 0 then .fin (if na = nb then na else rdn) 0 e
    else .fin (decide (t < 0)) t.natAbs e

/-- An exact product; Inf × 0 is NaN. -/
def Num.mul (x y : Num) : Num :=
  match x, y with
  | .nan, _ => .nan
  | _, .nan => .nan
  | .inf a, .inf b => .inf (a != b)
  | .inf a, .fin b m _ => if m = 0 then .nan else .inf (a != b)
  | .fin a m _, .inf b => if m = 0 then .nan else .inf (a != b)
  | .fin a ma ea, .fin b mb eb => .fin (a != b) (ma * mb) (ea + eb)

/-- x × 2^k, exactly. -/
def Num.scale (x : Num) (k : Int) : Num :=
  match x with
  | .fin n m e => .fin n m (e + k)
  | y => y

/-- ExactSum with the special-value rules of R58: the sum, and whether it sets nv. The exact sum of zeros is −0 only when
all of them are −0. -/
def exactSum (l : List Num) : Num × Bool :=
  let bad := l.any Num.isNaN || (l.any (fun x => x == .inf false) && l.any (fun x => x == .inf true))
  if bad then (.nan, true)
  else match l with
    | [] => (.zero, false)
    | x :: t => (t.foldl (Num.add false) x, false)

/-- Integer square root, bit by bit. -/
def isqrt (bits n r : Nat) : Nat :=
  match bits with
  | 0 => r
  | b + 1 => let c := r + 2 ^ b
    isqrt b n (if c * c ≤ n then c else r)

/-- A quotient of finite non-zero values with enough bits for any format, its last bit sticky. -/
def quotient (ma : Nat) (ea : Int) (mb : Nat) (eb : Int) : Nat × Int :=
  let k := 60 + mb.log2
  let q := ma * 2 ^ k / mb
  let r := ma * 2 ^ k % mb
  (2 * q + (if r = 0 then 0 else 1), ea - eb - k - 1)

/-- A square root with enough bits for any format, its last bit sticky. -/
def rootOf (m : Nat) (e : Int) : Nat × Int :=
  let odd := e % 2 == 1
  let m' := (if odd then 2 * m else m) * 2 ^ 120
  let e' := (if odd then e - 1 else e) - 120
  let r := isqrt (m'.log2 / 2 + 1) m' 0
  (2 * r + (if r * r = m' then 0 else 1), e' / 2 - 1)

/-- Value of x against y for finite values and infinities: −1, 0 or 1, with −0 = +0. -/
def Num.cmp (x y : Num) : Int :=
  match x, y with
  | .inf a, .inf b => if a = b then 0 else if a then -1 else 1
  | .inf a, _ => if a then -1 else 1
  | _, .inf b => if b then 1 else -1
  | .fin na ma ea, .fin nb mb eb =>
    let e := min ea eb
    let t := signedAt na ma ea e - signedAt nb mb eb e
    if t < 0 then -1 else if t = 0 then 0 else 1
  | _, _ => 0

/-- x before y in the order of minimumNumber, where −0 stands below +0 (R62). -/
def Num.below (x y : Num) : Bool :=
  x.cmp y == -1 || (x.cmp y == 0 && x.sign && !y.sign)

/-! ### Operations on IEEE encodings, with flags (R62, R132, R136, R137) -/

/-- nv when either encoding is a signalling NaN (R47). -/
def Fmt.snan2 (f : Fmt) (a b : Nat) : Flags := flagIf (f.isSNaN a || f.isSNaN b) flagNV

def Fmt.add (f : Fmt) (rm : Rm) (a b : Nat) : Nat × Flags :=
  let x := f.decode a
  let y := f.decode b
  let s := Num.add (rm == 2) x y
  let r := f.round rm s
  (r.1, r.2 ||| f.snan2 a b ||| flagIf (s.isNaN && !x.isNaN && !y.isNaN) flagNV)

/-- The encoding with its sign inverted; NaNs keep their kind. -/
def Fmt.flip (f : Fmt) (a : Nat) : Nat :=
  if f.signOf a then a - 2 ^ (f.eb + f.fb) else a + 2 ^ (f.eb + f.fb)

def Fmt.sub (f : Fmt) (rm : Rm) (a b : Nat) : Nat × Flags := f.add rm a (f.flip b)

def Fmt.mul (f : Fmt) (rm : Rm) (a b : Nat) : Nat × Flags :=
  let x := f.decode a
  let y := f.decode b
  let p := x.mul y
  let r := f.round rm p
  (r.1, r.2 ||| f.snan2 a b ||| flagIf (p.isNaN && !x.isNaN && !y.isNaN) flagNV)

def Fmt.div (f : Fmt) (rm : Rm) (a b : Nat) : Nat × Flags :=
  let sn := f.snan2 a b
  match f.decode a, f.decode b with
  | .nan, _ => (f.canonNaN, sn)
  | _, .nan => (f.canonNaN, sn)
  | .inf _, .inf _ => (f.canonNaN, flagNV)
  | .inf x, .fin y _ _ => (f.pack (x != y) f.top 0, 0)
  | .fin x _ _, .inf y => (f.pack (x != y) 0 0, 0)
  | .fin x ma ea, .fin y mb eb =>
    if mb = 0 then
      if ma = 0 then (f.canonNaN, flagNV) else (f.pack (x != y) f.top 0, flagDZ)
    else if ma = 0 then (f.pack (x != y) 0 0, 0)
    else let q := quotient ma ea mb eb
      f.roundFin rm (x != y) q.1 q.2

def Fmt.sqrt (f : Fmt) (rm : Rm) (a : Nat) : Nat × Flags :=
  match f.decode a with
  | .nan => (f.canonNaN, flagIf (f.isSNaN a) flagNV)
  | .inf n => if n then (f.canonNaN, flagNV) else (f.pack false f.top 0, 0)
  | .fin n m e =>
    if m = 0 then (f.pack n 0 0, 0)
    else if n then (f.canonNaN, flagNV)
    else let r := rootOf m e
      f.roundFin rm false r.1 r.2

/-- (±(x × y)) + (±z) with one rounding; Inf × 0 gives NaN and nv whatever z holds (R137). -/
def Fmt.fma (f : Fmt) (rm : Rm) (negP negZ : Bool) (a b c : Nat) : Nat × Flags :=
  let x := f.decode a
  let y := f.decode b
  let z := f.decode c
  let p := x.mul y
  let badP := p.isNaN && !x.isNaN && !y.isNaN
  let p' := if negP then p.neg else p
  let z' := if negZ then z.neg else z
  let s := Num.add (rm == 2) p' z'
  let r := f.round rm s
  (r.1, r.2 ||| flagIf (f.isSNaN a || f.isSNaN b || f.isSNaN c) flagNV ||| flagIf badP flagNV
    ||| flagIf (s.isNaN && !p'.isNaN && !z'.isNaN) flagNV)

/-- minimumNumber or maximumNumber: NaN only when both are (R62, R137). -/
def Fmt.minmax (f : Fmt) (wantMax : Bool) (a b : Nat) : Nat × Flags :=
  let sn := f.snan2 a b
  if f.isNaN a then (if f.isNaN b then f.canonNaN else b, sn)
  else if f.isNaN b then (a, sn)
  else
    let low := (f.decode b).below (f.decode a)
    (if low = wantMax then a else b, sn)

/-- x = y, with −0 = +0 and false for a NaN; nv only for a signalling NaN (R144). -/
def Fmt.eqv (f : Fmt) (a b : Nat) : Bool × Flags :=
  (!f.isNaN a && !f.isNaN b && (f.decode a).cmp (f.decode b) == 0, f.snan2 a b)

/-- x < y, false for a NaN; nv for any NaN (R144). -/
def Fmt.ltv (f : Fmt) (a b : Nat) : Bool × Flags :=
  (!f.isNaN a && !f.isNaN b && (f.decode a).cmp (f.decode b) == -1, flagIf (f.isNaN a || f.isNaN b) flagNV)

/-- The class mask of an encoding (R138). -/
def Fmt.classOf (f : Fmt) (a : Nat) : Nat :=
  let n := f.signOf a
  if f.isNaN a then (if f.isSNaN a then 0x100 else 0x200)
  else if f.expOf a = f.top then (if n then 0x1 else 0x80)
  else if f.expOf a = 0 then
    if f.fracOf a = 0 then (if n then 0x8 else 0x10) else (if n then 0x4 else 0x20)
  else (if n then 0x2 else 0x40)

/-- vcvtf: from one IEEE format to another (R140). -/
def cvtF (src dst : Fmt) (rm : Rm) (a : Nat) : Nat × Flags :=
  let r := dst.round rm (src.decode a)
  (r.1, r.2 ||| flagIf (src.isSNaN a) flagNV)

/-- vcvti: a signed integer to a format (R141). -/
def Fmt.ofInt (f : Fmt) (rm : Rm) (i : Int) : Nat × Flags :=
  f.round rm (.fin (decide (i < 0)) i.natAbs 0)

/-- vcvtx: a format's value to a signed integer of w bits (R141): the integer and the flags. -/
def Fmt.toInt (f : Fmt) (rm : Rm) (w : Nat) (a : Nat) : Int × Flags :=
  let hi : Int := 2 ^ (w - 1) - 1
  let lo : Int := -(2 ^ (w - 1))
  match f.decode a with
  | .nan => (hi, flagNV)
  | .inf n => (if n then lo else hi, flagNV)
  | .fin n m e =>
    let r := roundAt rm n m e 0
    let v : Int := if n then -(r.1 : Int) else r.1
    if hi < v then (hi, flagNV) else if v < lo then (lo, flagNV) else (v, flagIf r.2 flagNX)

/-! ### The tapered formats (R49 to R54) -/

/-- Length of the run of bits equal to b that starts at bit i − 1 and goes down. -/
def runLen (m : Nat) (b : Bool) (i : Nat) : Nat :=
  match i with
  | 0 => 0
  | j + 1 => if m.testBit j = b then runLen m b j + 1 else 0

/-- Magnitude of a T8 code m[6:0] ≠ 0: mantissa and exponent (R49). -/
def t8Mag (m : Nat) : Nat × Int :=
  let b := m.testBit 6
  let n := runLen m b 7
  let k : Int := if b then (n : Int) - 1 else -(n : Int)
  let tail := 6 - n
  let nf := tail - 1
  let e : Int := if tail = 0 then 0 else if m.testBit (tail - 1) then 1 else 0
  (2 ^ nf + m % 2 ^ nf, 2 * k + e - nf)

/-- Magnitude of a T6 code m[4:0] ≠ 0 (R50). -/
def t6Mag (m : Nat) : Nat × Int :=
  let b := m.testBit 4
  let n := runLen m b 5
  let k : Int := if b then (n : Int) - 1 else -(n : Int)
  let nf := 4 - n
  (2 ^ nf + m % 2 ^ nf, k - nf)

/-- A tapered format: its width in bits with the sign. -/
inductive Taper where
  | t8
  | t6
  deriving DecidableEq, Repr

/-- Width of the magnitude code. -/
def Taper.mw (t : Taper) : Nat :=
  match t with
  | .t8 => 7
  | .t6 => 5

def Taper.mag (t : Taper) (m : Nat) : Nat × Int :=
  match t with
  | .t8 => t8Mag m
  | .t6 => t6Mag m

/-- Sign bit's weight. -/
def Taper.sgn (t : Taper) : Nat := 2 ^ t.mw
/-- All magnitude bits set: 0x7F, 0x1F. -/
def Taper.ones (t : Taper) : Nat := 2 ^ t.mw - 1

/-- DecodeT8 and DecodeT6 under a reading of the top codes (R49 to R51). -/
def Taper.decode (t : Taper) (top : Bool) (c : Nat) : Num :=
  let neg := c.testBit t.mw
  let m := c % t.sgn
  if m = 0 then (if neg && top then .nan else .fin neg 0 0)
  else if top && m == t.ones then .inf neg
  else .fin neg (t.mag m).1 (t.mag m).2

/-- Compares two dyadic magnitudes: −1, 0, 1. -/
def magCmp (a b : Nat × Int) : Int := (Num.fin false a.1 a.2).cmp (.fin false b.1 b.2)

/-- The largest magnitude code whose magnitude is at most x, among n codes from 1. -/
def Taper.floorCode (t : Taper) (x : Nat × Int) (n : Nat) : Nat :=
  match n with
  | 0 => 0
  | k + 1 => if magCmp (t.mag (k + 1)) x ≤ 0 then k + 1 else Taper.floorCode t x k

/-- Nearest code for a magnitude between the least and the largest finite one, ties to the even code (R54). -/
def Taper.nearest (t : Taper) (x : Nat × Int) (maxCode : Nat) : Nat :=
  let lo := t.floorCode x maxCode
  if lo = maxCode then lo
  else
    let a := t.mag lo
    let b := t.mag (lo + 1)
    let s := match Num.add false (.fin false a.1 a.2) (.fin false b.1 b.2) with
      | .fin _ m e => (m, e)
      | _ => (0, 0)
    let c := magCmp (x.1, x.2 + 1) s
    if c < 0 then lo else if 0 < c then lo + 1 else if lo % 2 = 0 then lo else lo + 1

/-- RoundT8 and RoundT6: the code and the flags (R54). -/
def Taper.round (t : Taper) (top : Bool) (x : Num) : Nat × Flags :=
  let s (n : Bool) : Nat := if n then t.sgn else 0
  let negZero : Nat := if top then 0 else t.sgn
  let maxCode := if top then t.ones - 1 else t.ones
  match x with
  | .nan => (if top then t.sgn else 0, flagNV)
  | .inf n => (s n + t.ones, flagIf (!top) flagOF)
  | .fin n m e =>
    if m = 0 then (if n then negZero else 0, 0)
    else if magCmp (t.mag maxCode) (m, e) < 0 then (s n + maxCode, flagOF ||| flagNX)
    else if 0 ≤ magCmp (m, e) (t.mag 1) then
      let c := t.nearest (m, e) maxCode
      (s n + c, flagIf (magCmp (t.mag c) (m, e) != 0) flagNX)
    else if 0 < magCmp (m, e + 1) (t.mag 1) then (s n + 1, flagUF ||| flagNX)
    else (if n then negZero else 0, flagUF ||| flagNX)

/-- Floor(Log2) of a non-zero magnitude. -/
def floorLog2 (m : Nat) (e : Int) : Int := (m.log2 : Int) + e

end Sys2Proof.Machine
end

