-- ==== Sys2Proof/Machine/FMap.lean ====
section
/-! DEFINITION. Operations on finite maps: lists of (key, value) pairs in one canonical form, keys strictly rising and no
entry equal to the default that an unlisted key reads as. Register files, memories and tables are all held this way, so
equal contents are equal data. -/
namespace Sys2Proof.Machine

/-- The listed value of a key. -/
def FMap.find {α : Type} (m : FMap α) (k : Nat) : Option α :=
  match m with
  | [] => none
  | (j, v) :: t => if j = k then some v else FMap.find t k

/-- The value of a key, the default where it is not listed. -/
def FMap.get {α : Type} (d : α) (m : FMap α) (k : Nat) : α :=
  (FMap.find m k).getD d

/-- A map without a key. -/
def FMap.drop {α : Type} (m : FMap α) (k : Nat) : FMap α :=
  match m with
  | [] => []
  | (j, v) :: t => if j = k then FMap.drop t k else (j, v) :: FMap.drop t k

/-- A pair placed before the first larger key. -/
def FMap.place {α : Type} (m : FMap α) (k : Nat) (v : α) : FMap α :=
  match m with
  | [] => [(k, v)]
  | (j, u) :: t => if k < j then (k, v) :: (j, u) :: t else (j, u) :: FMap.place t k v

/-- The map with a key's value replaced; writing the default removes the entry. -/
def FMap.put {α : Type} [DecidableEq α] (d : α) (m : FMap α) (k : Nat) (v : α) : FMap α :=
  if v = d then FMap.drop m k else FMap.place (FMap.drop m k) k v

/-- The canonical form: keys strictly rising, no entry equal to the default. -/
def FMap.wf {α : Type} [DecidableEq α] (d : α) (m : FMap α) : Bool :=
  match m with
  | [] => true
  | (j, v) :: t => decide (v ≠ d) && t.all (fun p => decide (j < p.1)) && FMap.wf d t

/-- The listed keys, rising. -/
def FMap.keys {α : Type} (m : FMap α) : List Nat := m.map Prod.fst

end Sys2Proof.Machine
end

