-- ==== Sys2Proof/Machine/Data.lean ====
section
/-! DEFINITION. The data that the parts of the wafer hold and exchange: records, messages, tokens, commands of the engines
and their queues. Field names follow the spec's tables. -/
namespace Sys2Proof.Machine

/-- Privilege modes (R19). -/
inductive Priv where
  | u
  | s
  | m
  deriving DecidableEq, Repr

/-- What a hart does: firmware before bring-up ends (R19, R426); nothing (R37, R165: no task runs); it runs a task, or a
handler above it; it waits in wfi (R96). -/
inductive HartState where
  | boot
  | idle
  | run
  | wfi
  deriving DecidableEq, Repr

/-- A continuation record (R34). Its reserved bits are zero (R35). rel: it was made from a release-class message or token, so
that its task's first access acts as acquire-class (R388); chk: it was made from a message or a firing, so that its top bit
is checked (R52, R428); cont: it restarts the sleeping task with that serial number (model; 0 for none) (R37, R61). No bit of the
record's words holds these three. -/
structure Rec where
  job : BitVec 12 := 0
  prio : BitVec 2 := 0
  code : BitVec 48 := 0
  join : BitVec 15 := 0
  frame : BitVec 48 := 0
  chn : Bool := false
  top : Bool := false
  wake : Bool := false
  etag : Bool := false
  msg : Bool := false
  act : Bool := false
  widp : BitVec 48 := 0
  rel : Bool := false
  chk : Bool := false
  cont : Nat := 0
  deriving DecidableEq, Repr

/-- A record in a queue with its enqueue order at the core (R207). -/
structure QRec where
  item : Rec
  seq : Nat
  deriving DecidableEq, Repr

/-- The running task (R37): its record, present priority (R106), sampled budget and count (R169), whether its last
overrun is being handled, the model's serial number that tells its commands from an earlier task's (R61), and whether its
first access, still to come, acts as acquire-class (R388). -/
structure Task where
  item : Rec
  prio : BitVec 2
  budget : Nat
  count : Nat := 0
  overran : Bool := false
  serial : Nat := 0
  acq : Bool := false
  deriving DecidableEq, Repr

/-- A region-stack entry (R174). -/
structure Entry where
  txn : Bool
  mark : Nat
  begin_ : Word
  count : Nat := 0
  words : List Nat := []
  regs : List Nat := []
  alt : Word := 0
  stamp : Nat := 0
  deriving DecidableEq, Repr

/-- A buffered word of a write set (R185): data, the bytes written, and tag changes. -/
structure WsWord where
  data : Word := 0
  mask : BitVec 8 := 0
  full : Option Bool := none
  poison : Option Bool := none
  deriving DecidableEq, Repr

/-- A reply route (R114). The credit is the origin's. -/
structure Route where
  origin : Nat
  rcode : BitVec 48
  rprio : BitVec 2
  job : BitVec 12
  top : Bool
  deriving DecidableEq, Repr

/-- A message (R107, R110): a request or a reply. -/
structure Msg where
  reply : Bool
  job : BitVec 12
  code : BitVec 48
  prio : BitVec 2
  wid : Bool
  payload : List Word
  top : Bool
  etag : Bool := false
  route : Option Route := none
  deriving DecidableEq, Repr

/-- An edge token (R255, R259). again: it is a copy that was asked for again (R262); rl: the release scope of its put, which a
copy that goes out again carries too (R260, R388). -/
structure Token where
  edge : Nat
  seq : BitVec 32
  payload : List Word
  top : Bool
  done : Bool
  etag : Bool := false
  again : Bool := false
  rl : Option (BitVec 2) := none
  deriving DecidableEq, Repr

/-- System forms that travel the control network (R122 to R125, R127). -/
inductive SysOp where
  | halt
  | resume
  | inspect
  | scan
  | sig
  | remap
  deriving DecidableEq, Repr

/-- A system form on its way to its target, with the token register that waits for the result. -/
structure SysCmd where
  op : SysOp
  issuer : Nat
  target : Nat
  sel : Word := 0
  rd : XReg := 0
  serial : Nat := 0
  deriving DecidableEq, Repr

/-- A result on its way back to a token register. -/
structure SysRes where
  rd : XReg
  serial : Nat
  value : Word
  deriving DecidableEq, Repr

/-- What a packet carries. -/
inductive Body where
  | msg (m : Msg)
  | token (t : Token)
  | sys (c : SysCmd)
  deriving DecidableEq, Repr

/-- The clock vector that a release-class write carries (R385, R386), and the releases it stands for: one, or one for
each release-class head of a combination (R387). -/
structure Trailer where
  clock : FMap (BitVec 32)
  rels : List (Nat × BitVec 32)
  deriving DecidableEq, Repr

/-- A send-queue entry (R108): what is to be injected, towards which slot, for which job, and with its release scope. -/
structure Send where
  dst : Nat
  job : BitVec 12
  rl : Option (BitVec 2)
  body : Body
  deriving DecidableEq, Repr

/-- A packet at a router (R379, R380): class, route number, key, the router it is at and the port it came in by
(0 n, 1 e, 2 s, 3 w, 4 c). held: it waits in a comb entry's queue (R381). acks: the slots that its arrival is acknowledged to
(R385). num: its number in the order of injection, in which the packets of one source, destination and class arrive (R111; model). -/
structure Packet where
  src : Nat
  dst : Nat
  cls : BitVec 2
  route : Nat
  key : Nat
  job : BitVec 12
  at_ : Nat
  inp : Nat
  held : Bool := false
  acks : List Nat := []
  rl : Option (BitVec 2) := none
  trailer : Option Trailer := none
  num : Nat := 0
  body : Body
  deriving DecidableEq, Repr

/-- Operations of the near-bank units (R275, R277, R279). -/
inductive NbForm where
  | add
  | addf
  | fadd
  | minmax (sel : Nat)
  | logic (sel : Nat)
  | swap
  | cas
  | vop (sel : Nat)
  deriving DecidableEq, Repr

/-- A near-bank operation (R276): the target word in a cluster's memory, operands read at issue, who issued it, and the
result register of a fetching form. dbl: the .d form. -/
structure NbOp where
  form : NbForm
  dbl : Bool
  cluster : Nat
  off : Nat
  addr : Word
  b : Word
  cmp : Word := 0
  line : List Word := []
  slot : Nat
  job : BitVec 12
  fetch : Bool
  rd : XReg := 0
  ord : Ord := Ord.plain
  deriving DecidableEq, Repr

/-- Barrier forms (R282). -/
inductive BarForm where
  | arrive
  | join
  | leave
  | phase
  deriving DecidableEq, Repr

/-- A barrier form on its way to its unit. -/
structure BarOp where
  form : BarForm
  cluster : Nat
  off : Nat
  addr : Word
  slot : Nat
  idx : Nat
  rd : XReg := 0
  ord : Ord := Ord.plain
  deriving DecidableEq, Repr

/-- What the reply of a fetching form brings back (R276, R280). -/
inductive NbReply where
  | value (w : Word)
  | bad (a : Word)
  | dark (a : Word)
  deriving DecidableEq, Repr

/-- A fetching form in wait: issued, with the register its reply writes; and the reply once it is back (R276). -/
structure NbWait where
  rd : XReg
  reply : Option NbReply := none
  deriving DecidableEq, Repr

/-- A write of some bytes of one 64-bit word: flat address, byte mask, data. -/
structure WordWrite where
  addr : Nat
  mask : BitVec 8
  data : Word
  deriving DecidableEq, Repr

/-- A store-buffer entry (R287): a store, as the 16-byte pieces that have not been written yet, each with its words (R149), or
a posted form. -/
inductive SbEntry where
  | store (pieces : List (List WordWrite))
  | nb (op : NbOp)
  | bar (op : BarOp)
  deriving DecidableEq, Repr

/-- Matrix forms (R235). -/
inductive MxForm where
  | mma
  | mmac
  | store
  | zero
  deriving DecidableEq, Repr

/-- Captures of a matrix operation (R226, R228). -/
structure MxCapture where
  regs : FMap Word := []
  fmta : BitVec 4 := 0
  fmtb : BitVec 4 := 0
  fmtc : BitVec 4 := 5
  scla : Word := 0
  sclb : Word := 0
  top : Bool := false
  deriving DecidableEq, Repr

/-- A matrix operation in the queue (R222, R223). seq: its number among the core's engine commands, in issue order. lut: the
code table sampled at start (R30). fin: the completion word of the cp.gomx whose follow-on this is (R270). gone: its task has
ended (R61). got: the operand words read so far, each with whether it was bad; out: of mx.store, once it has its result, the
pieces that it has still to write, and its flags (R243). -/
structure MxOp where
  form : MxForm
  zc : ZReg
  za : ZReg
  rd : XReg
  ord : Ord
  cap : MxCapture
  serial : Nat
  job : BitVec 12
  seq : Nat := 0
  started : Bool := false
  lut : List (Word × Bool) := []
  fin : Word := 0
  gone : Bool := false
  got : FMap (Word × Bool) := []
  out : Option (List (List WordWrite) × BitVec 6) := none
  deriving DecidableEq, Repr

/-- Where an engine command stands: it may run; it waits at a serving die for its acquire (R388), or for
its release-class atomic (R387); it waits for a translation (R347); its token is known. -/
inductive Phase where
  | ready
  | acquire
  | release
  | paused
  | finished (token : Word)
  deriving DecidableEq, Repr

/-- Copy forms (R266). -/
inductive CpForm where
  | go
  | gomx
  | gath
  | scat
  deriving DecidableEq, Repr

/-- A copy command (R265, R267): seq numbers the core's engine commands in issue order, acq holds when it is the first access
of a task that a release-class write started (R388). gone: its task has ended (R61). Its progress: element, the element's index once
it has been read; of a begun element, whether it is being written, and the pieces (offset, length) still to be moved; its bytes
read so far, by offset, each with whether its word was bad; the error so far. -/
structure CpCmd where
  form : CpForm
  src : Word
  dst : Word
  len : Nat
  rows : Nat
  spitch : Word
  dpitch : Word
  ibase : Word
  fe : Bool
  fin : Word
  mxop : Word
  cap : MxCapture
  rd : XReg
  ord : Ord
  serial : Nat
  job : BitVec 12
  seq : Nat := 0
  acq : Bool := false
  gone : Bool := false
  row : Nat := 0
  idx : Option Nat := none
  stage : Option (Bool × List (Nat × Nat)) := none
  buf : FMap (Byte × Bool) := []
  err : Option Word := none
  phase : Phase := .ready
  deriving DecidableEq, Repr

/-- A tensor shape record (R291): extents and strides from the outermost dimension. -/
structure Tsr where
  base : Word
  fmt : BitVec 4
  ov : Bool
  ext : List Nat
  str : List Int
  deriving DecidableEq, Repr

/-- A Bobbin command (R298, R300) with its progress: destination elements done. -/
structure LayCmd where
  src : Tsr
  dst : Tsr
  dmw : Word
  fin : Word
  rd : XReg
  ord : Ord
  serial : Nat
  job : BitVec 12
  slot : Nat
  seq : Nat := 0
  acq : Bool := false
  pos : Nat := 0
  err : Option Word := none
  phase : Phase := .ready
  deriving DecidableEq, Repr

/-- A dram.req or dram.reqv command (R337, R338) with its progress: the pieces (row, offset, length) still to be moved, once it has
started; the error so far, with the row and offset of its piece. -/
structure DramCmd where
  vec : Bool
  addr : Word
  loc : Word
  offs : VWord
  len : Nat
  ctl : Word
  lbase : Word
  lpitch : Word
  fin : Word
  rd : XReg
  ord : Ord
  serial : Nat
  job : BitVec 12
  seq : Nat := 0
  acq : Bool := false
  left : Option (List (Nat × Nat × Nat)) := none
  err : Option (Nat × Nat × Word) := none
  phase : Phase := .ready
  deriving DecidableEq, Repr

/-- The capability a message or system form uses (R119): its address and words, the rights needed. none: the reply of a
route needs none. -/
structure CapUse where
  addr : Word
  w0 : Word
  w1 : Word
  needs : BitVec 4
  checked : Bool := true
  deriving DecidableEq, Repr

/-- A held effect (R98, R183). -/
inductive HeldOp where
  | spawn (r : Rec) (rl : Bool) (scope : BitVec 2)
  | join (a : Word) (job : BitVec 12)
  | send (vn : BitVec 2) (m : Send) (cap : CapUse) (claim : Option (Nat × Route))
  | put (t : Token) (rl : Option (BitVec 2))
  | nb (op : NbOp)
  | cp (c : CpCmd)
  | lay (c : LayCmd)
  | dram (c : DramCmd)
  deriving DecidableEq, Repr

/-- A hold-buffer entry: the region-stack depth that holds it, and the value its token register had (R181). -/
structure Held where
  op : HeldOp
  depth : Nat
  rd : XReg := 0
  deriving DecidableEq, Repr

/-- A node of a graph (R311). -/
inductive Node where
  | actor (slot num : Nat)
  | host
  | dram (n : Nat)
  deriving DecidableEq, Repr

/-- An edge: what the launch fixes, the producer's side (next seq, free credits, replay window, tokens held back by a
migration) and the consumer's side (ring, head slot and seq, slots that hold landed tokens, slots emptied and not yet
returned, re-injections per seq, of a host edge the next seq to be acknowledged to the control node (R415), arrivals waiting to land with whether they came release-class, slots whose token did) (R255 to R262, R404). -/
structure Edge where
  job : BitVec 12
  src : Node
  se : Nat
  dst : Node
  dq : Nat
  slots : Nat
  bytes : Nat
  rel : Bool
  replay : Nat
  pair : Bool
  seq : BitVec 32 := 0
  credits : Nat := 0
  window : List Token := []
  heldBack : List Send := []
  ring : Nat := 0
  headSlot : Nat := 0
  headSeq : BitVec 32 := 0
  landed : List Nat := []
  spent : List (BitVec 32) := []
  tries : FMap Nat := []
  compared : Nat := 0
  arrived : List (Token × Bool) := []
  relSlots : List Nat := []
  ackSeq : BitVec 32 := 0
  deriving DecidableEq, Repr

/-- An actor table entry (R201), with the reservations of its outstanding firing that are still unused (R202).
inq and outq hold edge numbers; 0xFFFF means unbound. -/
structure ActorEntry where
  inmask : BitVec 8 := 0
  outmask : BitVec 8 := 0
  code : BitVec 48 := 0
  en : Bool := false
  held : Bool := false
  mig : Bool := false
  busy : Bool := false
  prio : BitVec 2 := 0
  state : BitVec 48 := 0
  widp : BitVec 48 := 0
  stallCause : BitVec 2 := 0
  stallIndex : BitVec 3 := 0
  stallCount : BitVec 32 := 0
  inq : List Nat := [0xFFFF, 0xFFFF, 0xFFFF, 0xFFFF, 0xFFFF, 0xFFFF, 0xFFFF, 0xFFFF]
  outq : List Nat := [0xFFFF, 0xFFFF, 0xFFFF, 0xFFFF, 0xFFFF, 0xFFFF, 0xFFFF, 0xFFFF]
  resv : BitVec 8 := 0
  /-- The rule held, but no record slot was free (R210). -/
  starved : Bool := false
  /-- Bytes of the state block (R312). -/
  size : Nat := 0
  single : Option Nat := none
  deriving DecidableEq, Repr

/-- A sleeping task (R188 to R190): its restart record, its core, the watched lines as flat memory lines with the local
addresses they were named by. woken: a write has hit a line, and the record waits for room at its core or for its job; broken: a
table entry of it fails its SECDED check (R290). -/
structure Sleeper where
  item : Rec
  slot : Nat
  lines : List Nat
  locals : List Word
  woken : Bool := false
  broken : Bool := false
  deriving DecidableEq, Repr

/-- A held translation fault (R347). id is none while all 256 ids are in use. unit as in the fault notice; place is a
slot, or an actor and port; req: the taken request of that actor that a page removal returned (R394). -/
structure OpenFault where
  id : Option Nat
  va : Word
  job : BitVec 12
  reason : Nat
  access : Nat
  unit_ : Nat
  place : Nat
  port : Nat := 0
  req : Option Nat := none
  deriving DecidableEq, Repr

/-- A translation entry (R345): a page of 4 KiB, 2 MiB or 1 GiB (level 0, 1, 2). -/
structure TlbEntry where
  job : BitVec 12
  vpn : Nat
  level : Nat
  pte : Word
  deriving DecidableEq, Repr

/-- A notice's words 1 to 3 and kind (R343). -/
structure Notice where
  kind : Nat
  w1 : Word := 0
  w2 : Word := 0
  w3 : Word := 0
  deriving DecidableEq, Repr

/-- The supervisor mailbox of a die (R342 to R344). -/
structure Mailbox where
  core : Nat
  base : Nat
  nextNotice : Nat := 0
  count : Nat := 0
  queue : List Notice := []
  nextCmd : Nat := 0
  deriving DecidableEq, Repr

/-- A release-class write waiting at its destination die (R387): a packet, bytes that command seq of a slot writes (flat
address, byte, whether it comes from a bad word), the atomic of a DRAM request form at a flat address, a near-bank operation, or a barrier form. -/
inductive RelBody where
  | packet (p : Packet)
  | dram (slot seq f : Nat)
  | engine (slot seq : Nat) (job : BitVec 12) (bytes : List (Nat × Byte × Bool)) (fe : Bool)
  | nb (op : NbOp)
  | bar (op : BarOp)
  deriving DecidableEq, Repr

structure RelWrite where
  trailer : Trailer
  body : RelBody
  deriving DecidableEq, Repr

/-- An acquire-class access waiting at its serving die (R388). -/
inductive AcqBody where
  | cp (slot : Nat)
  | lay (cluster : Nat)
  | dram (slot : Nat) (index : Nat)
  | nb (op : NbOp)
  | bar (op : BarOp)
  deriving DecidableEq, Repr

structure AcqRead where
  clock : FMap (BitVec 32)
  body : AcqBody
  deriving DecidableEq, Repr

/-- A request token of a DRAM actor (R334). -/
structure DReq where
  edge : Nat
  seq : BitVec 32
  job : BitVec 12
  words : List Word
  etag : Bool
  top : Bool
  held : Bool := false
  deriving DecidableEq, Repr

/-- A request that a front has taken (R335, R336): the port it came by, the edges that still wait for its reply and for its
done tokens, and once it has been applied, or turned down, its reply's words and tag. -/
structure DJob where
  job : BitVec 12
  port : Nat
  top : Bool
  id : Nat
  slot : Nat
  words : List Word
  rep : Option Nat
  done : List Nat
  reply : Option (List Word × Bool) := none
  deriving DecidableEq, Repr

/-- A piece at its home actor (R333): a whole request, since none crosses a page (R336). -/
structure DPiece where
  front : Nat
  id : Nat
  job : BitVec 12
  words : List Word
  pa : Nat
  place : Option Nat
  deriving DecidableEq, Repr

/-- A DRAM actor (R331). -/
structure DramActor where
  ports : FMap (List DReq) := []
  jobs : List DJob := []
  pieces : List DPiece := []
  nextId : Nat := 0
  nextPort : Nat := 0
  deriving DecidableEq, Repr

/-- A live job (R316, R320, R323, R324): its priority, configuration slot, grid, the partial counts of its balance by place (a
slot, slotCount + n for DRAM actor n, slotCount + 16 for the host queue), the events counted since the last wave, the idle waves
seen in a row, and whether it has been reported stuck. -/
structure Job where
  prio : BitVec 2
  graph : Nat
  x0 : Nat
  y0 : Nat
  w : Nat
  h : Nat
  counts : FMap Int := []
  events : Nat := 0
  idle : Nat := 0
  stuck : Bool := false
  live : Bool := true
  /-- A context of the job with actors that were not paired has been lost (R372). -/
  lost : Bool := false
  deriving DecidableEq, Repr

/-- B of a job: the sum of its partial counts (R323, R324). -/
def Job.balance (j : Job) : Int := (j.counts.map Prod.snd).sum

/-- A configuration slot of a die (R309): images as their words. -/
structure ConfSlot where
  gen : BitVec 16 := 0
  active : List Word := []
  shadow : List Word := []
  deriving DecidableEq, Repr

/-- A launch packet kept at a die (R315, R316) and the cores it has not yet claimed (R321); order of arrival is the
list's order. -/
structure Launch where
  graph : Nat
  gen : BitVec 16
  prio : BitVec 2
  job : BitVec 12
  recs : List (Rec × Nat)
  waiting : Bool := true
  cores : List Nat := []
  deriving DecidableEq, Repr

/-- What the core keeps beside the words of a record in a spill ring: its enqueue number, and Rec.rel, Rec.chk and Rec.cont. -/
structure RingRec where
  seq : Nat
  rel : Bool := false
  chk : Bool := false
  cont : Nat := 0
  deriving DecidableEq, Repr

/-- A record read from a ring with what the core keeps beside it. -/
def RingRec.on (m : RingRec) (r : Rec) : Rec := { r with rel := m.rel, chk := m.chk, cont := m.cont }
/-- What the core keeps beside a record that it spills. -/
def Rec.ringRec (r : Rec) (seq : Nat) : RingRec := { seq := seq, rel := r.rel, chk := r.chk, cont := r.cont }

/-- A job context saved from a core (R321, R322), with the area of its image; order of saving is the list's order. What the
image has no place for: of the actor table the edge numbers, of which it holds 16 bits, unused reservations and single marks;
what the core keeps beside the queued records, in the image's order; of the spill rings, whose bytes lie in the ranges, the
heads and what is kept beside each record, none for one that is not the job's; the reply credits in use; the uncorrectable accumulator
codewords (R246). -/
structure Saved where
  slot : Nat
  job : BitVec 12
  prio : BitVec 2
  addr : Word := 0
  len : Nat := 0
  actors : FMap ActorEntry := []
  flags : List RingRec := []
  rings : List (Nat × List (Option RingRec)) := []
  credits : Nat := 0
  zbad : List Nat := []
  deriving DecidableEq, Repr

/-- A save or restore in progress (R215 to R221). -/
structure Swap where
  save : Bool
  job : BitVec 12
  addr : Word
  len : Nat
  cursor : Nat := 0
  paused : Bool := false
  image : List Byte := []
  deriving DecidableEq, Repr

/-- A barchan wave (R370): die, row, the failed column, the first slot, the slot now being copied, and whether it was
asked for by sys.remap. stopped: the slot at which it ended early. -/
structure Wave where
  die : Nat
  row : Nat
  col : Nat
  first : Nat
  k : Nat
  stopped : Option Nat := none
  cause : Nat
  lost : List (BitVec 12) := []
  deriving DecidableEq, Repr

/-- A removal request (R368): physical column of a die row, a hole or a shift, and its cause in the report (R374). -/
structure Removal where
  row : Nat
  col : Nat
  hole : Bool
  cause : Nat
  deriving DecidableEq, Repr

/-- States of a Drift migration (R329). -/
inductive DriftState where
  | stopping
  | draining
  | copying
  | resuming
  deriving DecidableEq, Repr

/-- A migration: the old entry, the new core and entry. -/
structure Migration where
  slot : Nat
  num : Nat
  dst : Nat
  dnum : Nat
  job : BitVec 12
  state : DriftState := .stopping
  deriving DecidableEq, Repr

/-- A candidate count (R327): consecutive samples that name an actor above 75 %, the last seq seen, and of the actors that
migrated here the samples that still have to be taken. -/
structure DriftCount where
  num : Nat := 0
  run : Nat := 0
  seq : BitVec 16 := 0
  waits : List (Nat × Nat) := []
  deriving DecidableEq, Repr

/-- A page move at the old home (R394). -/
structure Move where
  job : BitVec 12
  va : Word
  oldPa : Nat
  newPa : Nat
  removal : Bool
  copied : Bool := false
  cmdSlot : Nat := 0
  waiting : List DPiece := []
  deriving DecidableEq, Repr

/-- A replicated page on a die (R391): the job-virtual page, the sequencer, the replica's flat address and the flat address
of the page at its home. -/
structure Replica where
  job : BitVec 12
  va : Word
  seqDie : Nat
  at_ : Nat
  home : Nat
  deriving DecidableEq, Repr

/-- A write to replicated pages, numbered by the sequencer, on its way to the replicas (R392): bytes by flat address at
home, each with whether its word at home is poisoned; the slot and number of the command that made it, if one did. -/
structure ReplWrite where
  job : BitVec 12
  bytes : List (Nat × Byte × Bool)
  number : Nat
  owner : Option (Nat × Nat) := none
  deriving DecidableEq, Repr

/-- A chunk's received blocks, by collective, source position, step and number (R420). -/
structure Chunk where
  coll : BitVec 16
  pos : BitVec 8
  step : BitVec 8
  index : Nat
  bits : BitVec 64
  acked : Bool := false
  deriving DecidableEq, Repr

/-- A collective at a port engine (R422). -/
inductive CollState where
  | running
  | reforming
  | restarting
  | failed
  deriving DecidableEq, Repr

/-- via: the die and port whose link carries it once its path has been re-formed over another port of the wafer. -/
structure Coll where
  coll : BitVec 16
  pos : BitVec 8
  state : CollState := .running
  lastAck : Option (BitVec 8 × Nat) := none
  via : Option (Nat × Nat) := none
  deriving DecidableEq, Repr

/-- Congestion control of a port (R416). -/
inductive Congestion where
  | nscc
  | rccc
  deriving DecidableEq, Repr

/-- A port engine (R416 to R420): its congestion control and its peers' addresses by position, as the control node sets them; its
binding; the blocks that wait at the port, oldest first, and the queues of blocks per gateway core (header and block); the transmit
slots that wait for an acknowledgement (gateway, slot, word 1, block), the next slot of each ring, the next ring; the collectives;
and what it has sent reliably and in order (ROD), oldest first (R417). -/
structure PortEng where
  cc : Congestion := .nscc
  peers : FMap Word := []
  bound : Bool := false
  up : Bool := true
  job : BitVec 12 := 0
  code : BitVec 48 := 0
  prio : BitVec 2 := 0
  ring : Nat := 0
  waiting : List (List Word) := []
  queue : List (Nat × List Word) := []
  sent : List (Nat × Nat × Word × List Word) := []
  nextSlot : FMap Nat := []
  nextRing : Nat := 0
  colls : List Coll := []
  rod : List (List Word) := []
  deriving DecidableEq, Repr

/-- A firmware image as the boot ROM of a die finds it (R423): its public key, its body, its signature and its security version. -/
structure RomImage where
  key : List Byte := []
  body : List Byte := []
  sign : List Byte := []
  version : Nat := 0
  deriving DecidableEq, Repr

/-- What the control node sets up at a port (R416, R419): die, port, congestion control, and the peers by position. -/
structure PortSetting where
  die : Nat
  port : Nat
  cc : Congestion
  peers : FMap Word
  deriving DecidableEq, Repr

/-- The argument of an event: the place where it happens and its payload. Each event reads the fields its docstring
names. -/
structure Arg where
  place : Nat := 0
  a : Nat := 0
  b : Nat := 0
  c : Nat := 0
  flag : Bool := false
  word : Word := 0
  word2 : Word := 0
  words : List Word := []
  list : List Nat := []
  list2 : List Nat := []
  big : BitVec 512 := 0
  images : List RomImage := []
  ports : List PortSetting := []
  deriving DecidableEq, Repr

/-- Damage that strikes a codeword outside memory as it is read: which of the words that are read, the bits flipped, and whether the
path to it fails its own check (R246, R303). -/
structure Upset where
  word : Nat := 0
  flips : BitVec 72 := 0
  path : Bool := false
  deriving DecidableEq, Repr

/-- An event that is due, with its argument. -/
structure Due where
  ev : Instr
  arg : Arg
  deriving DecidableEq, Repr

/-- A choice of the next step: the hart of a slot, or the k-th due event. -/
inductive Pick where
  | hart (slot : Nat)
  | event (k : Nat)
  deriving DecidableEq, Repr

end Sys2Proof.Machine
end

