-- ==== Sys2Proof/Machine/State.lean ====
section
/-! DEFINITION. The state of the wafer as plain data, its faults and refusals, and the state after reset. Each field's default
is its reset value; a sparse map (FMap) lists only what differs from the default. INVENTORY.md names the rule of every
field. Fields marked (model) are the model's own. -/
namespace Sys2Proof.Machine

/-- Register files and the state of a hart (R16 to R20, R37, R96, R166, R184, R276). -/
structure Hart where
  /-- x1 to x31; x0 is never listed. -/
  x : FMap Word := []
  v : FMap VWord := []
  k : FMap Word := []
  /-- reset: DESIGN CHOICE 0, entry 1. -/
  pc : Word := 0
  mode : Priv := .m
  hs : HartState := .boot
  /-- Hidden error marks (R166). -/
  mark : BitVec 32 := 0
  /-- Pending token registers (R247). -/
  pend : BitVec 32 := 0
  /-- Registers pending for a held command (R184). -/
  hpend : BitVec 32 := 0
  /-- LR reservation: a line of flat memory (R96). -/
  resv : Option Nat := none
  task : Option Task := none
  /-- Serial number of the next task (model, entry 3). -/
  serial : Nat := 0
  /-- A fetching near-bank or barrier form in wait (R276). -/
  wait : Option NbWait := none
  /-- Causes of the traps whose handlers have not returned, innermost first (R37, R172, R353). -/
  traps : List (BitVec 8) := []
  deriving DecidableEq, Repr

/-- The standard CSRs (R162; published where R162 is silent). -/
structure Csrs where
  /-- Writable bits of mstatus: SIE, MIE, SPIE, MPIE, SPP, MPP, TVM, TW, TSR. -/
  mstatus : Word := 0
  medeleg : Word := 0
  mideleg : Word := 0
  mie : Word := 0
  ssip : Bool := false
  mtvec : Word := 0
  stvec : Word := 0
  mcounteren : BitVec 3 := 7
  scounteren : BitVec 3 := 7
  mcountinhibit : BitVec 3 := 0
  mfiom : Bool := false
  sfiom : Bool := false
  stimecmp : Word := BitVec.allOnes 64
  deriving DecidableEq, Repr

/-- The registers a trap saves into, and the scratch registers (published). -/
structure TrapRegs where
  mscratch : Word := 0
  mepc : Word := 0
  mcause : Word := 0
  mtval : Word := 0
  sscratch : Word := 0
  sepc : Word := 0
  scause : Word := 0
  stval : Word := 0
  deriving DecidableEq, Repr

/-- The counters (R20). -/
structure Counters where
  cycle : Word := 0
  time : Word := 0
  instret : Word := 0
  deriving DecidableEq, Repr

/-- The CSRs of the Grenevehal ranges (R21 to R33). -/
structure Gv where
  fmta : BitVec 4 := 0
  fmtb : BitVec 4 := 0
  fmtc : BitVec 4 := 5
  scla : Word := 0
  sclb : Word := 0
  top : Bool := false
  fflags : BitVec 6 := 0
  frm : BitVec 3 := 0
  limit : BitVec 4 := 3
  undo : BitVec 20 := 0
  undol : BitVec 20 := 0
  codes : BitVec 20 := 0
  wid : Word := 0
  /-- Speed class and present clock code; reset DESIGN CHOICE 28, entry 7. -/
  cls : BitVec 6 := 28
  clk : BitVec 6 := 28
  bud : BitVec 32 := 0x00100000
  spill : Word := 0
  fpool : Word := 0
  deriving DecidableEq, Repr

/-- The region stack and what belongs to it (R173 to R190). -/
structure Region where
  /-- Innermost entry first. -/
  stack : List Entry := []
  doomed : Bool := false
  /-- Lines of flat memory with the local addresses of their first bytes. -/
  rset : List (Nat × Word) := []
  /-- Buffered words by flat address. -/
  wset : FMap WsWord := []
  logTop : Nat := 0
  carry : Option (Nat × Option Nat) := none
  hold : List Held := []
  /-- A closing form has begun to release (R183). -/
  closing : Bool := false
  /-- tval of the cause 26 owed after the closing form (R183). -/
  owed : Option Word := none
  deriving DecidableEq, Repr

/-- Matrix unit, copy engine, DRAM request forms and store buffer. -/
structure Engines where
  /-- Accumulator words: z × 1,024 + index (R16). -/
  z : FMap (BitVec 32) := []
  /-- Uncorrectable accumulator codewords: z × 512 + index / 2 (R246). -/
  zbad : List Nat := []
  /-- Engine shadow registers that differ from their reset values (R225 to R227). -/
  shadow : FMap Word := []
  mxq : List MxOp := []
  cpq : List CpCmd := []
  drq : List DramCmd := []
  sb : List SbEntry := []
  /-- Number of the next engine command in issue order (model). -/
  issued : Nat := 0
  deriving DecidableEq, Repr

/-- Message unit (R108 to R114, R213, R385). -/
structure MsgUnit where
  sendq : FMap (List Send) := []
  /-- Which of request and stream injects next: false request (DESIGN CHOICE at reset, entry 3). -/
  alt : Bool := false
  inq : FMap (List Packet) := []
  /-- Reply routes by frame (R114). -/
  routes : FMap (Option Route) := []
  /-- Reply credits in use (R109). -/
  credits : Nat := 0
  /-- Frames handed out. -/
  frames : List Nat := []
  /-- Writes that left the die and are not yet acknowledged (R385). -/
  unacked : Nat := 0
  /-- Posted near-bank and barrier forms that left the die and are not yet performed (R286). -/
  nbOut : Nat := 0
  /-- Results of system forms on their way back (R122). -/
  results : List SysRes := []
  deriving DecidableEq, Repr

/-- A spill ring (R209): the slot of its head, and what the core keeps beside its records, oldest first. lost: its area was set anew while it held records, which are undefined from then on (R33, entry 12). -/
structure Ring where
  head : Nat := 0
  seqs : List RingRec := []
  lost : Bool := false
  deriving DecidableEq, Repr

/-- Core scheduler and actor table (R201 to R211). -/
structure Sched where
  fifo : FMap (List QRec) := []
  ring : FMap Ring := []
  enq : Nat := 0
  run : Nat := 0
  last : Nat := 0
  /-- Records of joins, launches and restores that wait in the core's input for room or for their job (R210, R217). -/
  waitq : List Rec := []
  actors : FMap ActorEntry := []
  deriving DecidableEq, Repr

/-- What the region controller, the die scheduler and debug keep at a core. -/
structure Upkeep where
  samples : FMap Word := []
  halted : Bool := false
  haltPend : Bool := false
  /-- The scan pattern that runs, with the register that waits for it (R125). -/
  scan : Option SysCmd := none
  /-- The last completed scan's result (R125). -/
  scanned : Option Word := none
  /-- Held by a barchan wave or hole change (R371). -/
  whold : Bool := false
  /-- The job whose context is resident (R320), and its priority. -/
  job : Option (BitVec 12) := none
  jobPrio : BitVec 2 := 0
  preempt : Bool := false
  swap : Option Swap := none
  scrub : Nat := 0
  corr : Nat := 0
  corrLaunch : Nat := 0
  /-- The wave that sample slot 2 held when str.sample last read it (R263, R354). -/
  waveSeen : Nat := 0
  prog : BitVec 32 := 0
  progSub : Nat := 0
  /-- No hart acts here: the core answers no more, or the slot is a hole (R367, R368). -/
  failed : Bool := false
  /-- lc since the last scrub and sample (R200, R263). -/
  scrubLc : Nat := 0
  sampleLc : Nat := 0
  /-- Cycles of the cluster-memory clock in the core's own time so far, and the part of the next one (R272). -/
  memCycles : Nat := 0
  memPart : Nat := 0
  deriving DecidableEq, Repr

/-- One logical core with its hart. -/
structure Core where
  h : Hart := {}
  c : Csrs := {}
  t : TrapRegs := {}
  n : Counters := {}
  g : Gv := {}
  r : Region := {}
  e : Engines := {}
  m : MsgUnit := {}
  q : Sched := {}
  u : Upkeep := {}
  /-- Route tables: class × 64 + number (R376). -/
  routeTab : FMap Word := []
  deriving DecidableEq, Repr

/-- One cluster (R187 to R190, R272 to R285, R300, R356). -/
structure Cluster where
  wake : List Sleeper := []
  stamp : Nat := 0
  layq : List LayCmd := []
  nbq : List NbOp := []
  /-- Records that near-bank units have fired and hold until their target core takes them: bank, target slot, record
  (R210, R278). -/
  fired : List (Nat × Nat × Rec) := []
  barq : List BarOp := []
  scrubs : FMap Nat := []
  /-- Cycles of the cluster-memory clock (R272, R273). -/
  cycles : Nat := 0
  dark : Bool := false
  corr : Nat := 0
  deriving DecidableEq, Repr

/-- A save area (R215, R344). -/
structure Area where
  addr : Word := 0
  len : Nat := 0
  deriving DecidableEq, Repr

/-- Die scheduler (R309 to R322). -/
structure DieSched where
  slots : FMap ConfSlot := []
  waiting : List Launch := []
  areas : FMap Area := []
  saved : List Saved := []
  deriving DecidableEq, Repr

/-- Translation unit (R345 to R349). -/
structure Xlate where
  tlb : List TlbEntry := []
  roots : FMap (Option Nat) := []
  faults : List OpenFault := []
  deriving DecidableEq, Repr

/-- Region controller (R342 to R356, R366 to R374). -/
structure RegionCtl where
  box : Option Mailbox := none
  intervals : FMap Nat := []
  threshold : Nat := 16
  rows : FMap Word := []
  requests : List Removal := []
  waves : List Wave := []
  gens : FMap (BitVec 20) := []
  /-- Physical cores that answer no more: row and column (R368, R370). -/
  failed : List (Nat × Nat) := []
  /-- Cores whose watchdog notice waits for a free scan block (R353). -/
  scanWait : List Nat := []
  deriving DecidableEq, Repr

/-- Drift of a die (R327 to R330). -/
structure DriftUnit where
  counts : FMap DriftCount := []
  mig : Option Migration := none
  deriving DecidableEq, Repr

/-- Clocks and the writes and reads that wait for them (R384 to R389). -/
structure Clocks where
  h : FMap (BitVec 32) := []
  a : FMap (BitVec 32) := []
  /-- Applied releases above the contiguous number, by die. -/
  above : List (Nat × BitVec 32) := []
  /-- The lowest A that the last quiescence wave collected for this die (R389). -/
  low : BitVec 32 := 0
  relq : List RelWrite := []
  acqq : List AcqRead := []
  deriving DecidableEq, Repr

/-- Replicas, page moves (R391 to R395). -/
structure Pages where
  repl : List Replica := []
  numbers : FMap Nat := []
  moves : List Move := []
  deriving DecidableEq, Repr

/-- One die. -/
structure Die where
  ds : DieSched := {}
  x : Xlate := {}
  rc : RegionCtl := {}
  drift : DriftUnit := {}
  clk : Clocks := {}
  pages : Pages := {}
  ports : FMap PortEng := []
  deriving DecidableEq, Repr

/-- A link between routers: the router on its west or north end, and its direction (R401). -/
structure Link where
  px : Nat
  py : Nat
  south : Bool
  reason : Nat := 0
  deriving DecidableEq, Repr

/-- A flooded link-state update (R401, R402): the link, and of each router where it stands: 0 the update has not reached it, n that
round n comes next, 5 that all four are done. -/
structure LinkUpdate where
  link : Link
  rounds : FMap Nat := []
  deriving DecidableEq, Repr

/-- Configuration load (R314). -/
inductive LoadState where
  | idle
  | staging
  | committing
  | aborting
  deriving DecidableEq, Repr

structure Load where
  state : LoadState := .idle
  port : Nat := 0
  image : List Word := []
  acks : List Nat := []
  /-- Acknowledgements on their way: die, and the reason of a refusal (0 none). -/
  answers : List (Nat × Nat) := []
  /-- Images that arrived while a load was under way, oldest first. -/
  later : List (List Word) := []
  deriving DecidableEq, Repr

/-- Freeze states (R398). -/
inductive FreezeState where
  | running
  | freezing
  | frozen
  | reading
  deriving DecidableEq, Repr

/-- Why the freeze net was asserted (R396): a form, a debug command, a protection trip. -/
inductive FreezeCause where
  | form
  | debug
  | trip
  deriving DecidableEq, Repr

/-- A frame towards the control node (R414): type, words of the payload, bytes that follow them, and its sequence number. -/
structure Frame where
  ty : Nat
  words : List Word
  bytes : List Byte := []
  seq : Nat := 0
  deriving DecidableEq, Repr

/-- A token that the control node has put on a host output edge (a type-5 frame) and that waits at the port (R415). -/
structure HostPut where
  job : BitVec 12
  edge : Nat
  seq : BitVec 32
  top : Bool
  words : List Word
  deriving DecidableEq, Repr

/-- A host-queue token not yet acknowledged (R415). -/
structure HostTok where
  edge : Nat
  job : BitVec 12
  port : Nat
  token : Token
  deriving DecidableEq, Repr

/-- Planak ports (R414, R415): port 0 at D(0, 0), port 1 at D(7, 8). -/
structure Planak where
  primary : Nat := 0
  down : List Nat := []
  toNode : List Frame := []
  /-- Frames sent to the control node so far. -/
  frames : Nat := 0
  unacked : List HostTok := []
  waiting : List HostPut := []
  unknown : Nat := 0
  /-- What the control node has been told of freezes: the tap that asserted, and why (R398). -/
  told : List (Nat × FreezeCause) := []
  deriving DecidableEq, Repr

/-- What belongs to the wafer as a whole. -/
structure Wafer where
  actors : FMap DramActor := []
  edges : FMap Edge := []
  net : List Packet := []
  /-- Packets injected so far (R111; model). -/
  sent : Nat := 0
  jobs : FMap (Option Job) := []
  load : Load := {}
  freeze : FreezeState := .running
  /-- The tap that asserted the last freeze, and why (R398). -/
  tap : Nat := 0
  why : FreezeCause := .form
  /-- Links declared dead, with the rounds of each (R400 to R402). -/
  links : List LinkUpdate := []
  /-- Of each link, whether its last 256 flits failed their check, latest first (R400). -/
  monitors : FMap (List Bool) := []
  planak : Planak := {}
  /-- What the port engines send to the rack scheduler reliably, in no order (RUD): residency and path reports (R417, R418, R422). -/
  rud : List (List Word) := []
  /-- Open chunks of the collectives, with the blocks received of each (R420). -/
  chunks : List Chunk := []
  replq : List ReplWrite := []
  /-- Sequencer die + 1 of each job that has one (R391). -/
  seqDies : FMap Nat := []
  wave : Nat := 0
  /-- Physical cores still to be read out (R398). -/
  reads : List Nat := []
  deriving DecidableEq, Repr

/-- Boot, identity and the module (R423 to R426). -/
structure Module where
  /-- Number of the seal key drawn at the last reset (R116); the key itself is Config's (entry 8). -/
  sealKey : Nat := 0
  meas : FMap (BitVec 512) := []
  booted : Bool := false
  powered : Bool := true
  tripped : Bool := false
  deriving DecidableEq, Repr

/-- Tags of a 64-bit word (R198): full, poison, and the bits of its codeword that differ from a valid codeword of its
data. For DRAM words poison is the mark of R341. -/
structure MemTag where
  full : Bool := false
  poison : Bool := false
  flips : BitVec 72 := 0
  deriving DecidableEq, Repr

/-- All storage by flat address: scratchpads, cluster memories, DRAM (Machine/Place.lean). An unlisted byte reads 0:
the spec's reset contents for scratchpad (R198), entry 6 for the rest. -/
structure Mem where
  bytes : List Host.Cell := []
  tags : FMap MemTag := []
  deriving DecidableEq, Repr

/-- The state of the wafer. -/
structure State where
  cores : FMap Core := []
  clusters : FMap Cluster := []
  dies : FMap Die := []
  wafer : Wafer := {}
  module_ : Module := {}
  mem : Mem := {}
  /-- The core whose hart acts (model, entry 2). -/
  cur : Nat := 0
  /-- Events that are due, oldest first (model, entry 2). -/
  agenda : List Due := []
  /-- The order chosen for the coming steps; empty: the default order (model, entry 2). -/
  sched : List Pick := []
  /-- lc that the coming hart steps take; empty: one each (model, entry 3). -/
  lcs : List Nat := []
  /-- Whether the coming transfers of harts through the crossbar fail their CRC-16 check twice; empty: none does (R290; model,
  entry 121). -/
  crc : List Bool := []
  /-- How many flits of the packet fail their CRC-16 check on each of the coming hops; empty: none (R261, R400; model, entry 134). -/
  flits : List Nat := []
  /-- Which of its open pieces an engine moves next, in the coming steps; empty: the first (R269; model, entry 2). -/
  order : List Nat := []
  /-- Damage that the coming matrix operations and layout passes meet in accumulators and staging words; empty: none (R246, R303;
  model, entry 132). -/
  upsets : List (Option Upset) := []
  /-- Counter of free values (model, entry 14). -/
  fresh : Nat := 0
  /-- The argument of the event that is being performed (model, entry 2). -/
  arg : Arg := {}
  deriving DecidableEq, Repr

/-- Why the machine stops with a fault. No instruction of a hart raises one: exceptions are next states. -/
inductive Fault where
  /-- Raised by an event whose argument names a place the wafer does not have (R4). Safe: no such place exists, so no
  hardware step is lost. -/
  | noSuchPlace
  deriving DecidableEq, Repr

/-- Why an instruction has no meaning. -/
inductive Refusal where
  /-- An instruction that the model has not reached; raised by exec's arms alone. Safe: the run ends. -/
  | notModelled (mnemonic : String)
  deriving DecidableEq, Repr

/-- The machine right after reset: every hart in M mode at its firmware, every register at its reset value, memory with
nothing listed. -/
def State.reset : State := {}

end Sys2Proof.Machine
end

