-- ==== Sys2Proof/Machine/Place.lean ====
section
/-! DEFINITION. Places of the wafer and their numbers (R4, R197, R332): a slot is Y × 192 + X of L(X, Y), a cluster
cy × 48 + cx, a die dx + 8 × dy, and flat addresses, which give every byte of storage one number. -/
namespace Sys2Proof.Machine

def slotCount : Nat := 41472
def clusterCount : Nat := 2592
def dieCount : Nat := 72
def actorCount : Nat := 16

def slotOf (x y : Nat) : Nat := y * 192 + x
def slotX (s : Nat) : Nat := s % 192
def slotY (s : Nat) : Nat := s / 192

/-- Cluster of a slot (R4, R6). -/
def slotCluster (s : Nat) : Nat := (slotY s / 4) * 48 + slotX s / 4
/-- Die of a slot. -/
def slotDie (s : Nat) : Nat := (slotY s / 24) * 8 + slotX s / 24
/-- gvcore.idx (R31). -/
def slotIdx (s : Nat) : Nat := slotX s % 4 + 4 * (slotY s % 4)
/-- Local row and column on the die. -/
def slotRow (s : Nat) : Nat := slotY s % 24
def slotCol (s : Nat) : Nat := slotX s % 24

def clusterX (c : Nat) : Nat := c % 48
def clusterY (c : Nat) : Nat := c / 48
def clusterDie (c : Nat) : Nat := (clusterY c / 6) * 8 + clusterX c / 6
/-- The slot of a cluster's core by its gvcore.idx. -/
def clusterSlot (c i : Nat) : Nat := slotOf (clusterX c * 4 + i % 4) (clusterY c * 4 + i / 4)

/-- Slot of a local row and column of a die. -/
def dieSlot (d row col : Nat) : Nat := slotOf (d % 8 * 24 + col) (d / 8 * 24 + row)

/-- The slots of a die, in order. -/
def dieSlots (d : Nat) : List Nat :=
  (List.range 24).flatMap fun r => (List.range 24).map fun c => dieSlot d r c

/-- Die of a DRAM actor (R331). -/
def actorDie (n : Nat) : Nat := if n < 8 then n else 64 + (n - 8)

/-- Slots of a rectangle, in row order. -/
def rectSlots (x0 y0 w h : Nat) : List Nat :=
  (List.range h).flatMap fun r => (List.range w).map fun c => slotOf (x0 + c) (y0 + r)

/-! ### Flat addresses -/

def spSize : Nat := 0x100000
def cmSize : Nat := 0x1000000
def cmBase : Nat := 2 ^ 40
def dramBase : Nat := 2 ^ 48
def dramSpan : Nat := 2 ^ 38
/-- Bytes of one DRAM actor: 192 GiB (R331). -/
def dramSize : Nat := 192 * 2 ^ 30

def spFlat (slot off : Nat) : Nat := slot * spSize + off
def cmFlat (cluster off : Nat) : Nat := cmBase + cluster * cmSize + off
def dramFlat (actor off : Nat) : Nat := dramBase + actor * dramSpan + off

/-- The storage that a flat address names. -/
inductive Home where
  | sp (slot off : Nat)
  | cm (cluster off : Nat)
  | dram (actor off : Nat)
  deriving DecidableEq, Repr

def homeOf (f : Nat) : Home :=
  if f < cmBase then .sp (f / spSize) (f % spSize)
  else if f < dramBase then .cm ((f - cmBase) / cmSize) ((f - cmBase) % cmSize)
  else .dram ((f - dramBase) / dramSpan) ((f - dramBase) % dramSpan)

/-- The flat address that a local-window address names for a slot (R197); none outside the windows. -/
def localFlat (slot : Nat) (a : Word) : Option Nat :=
  if a.toNat < spSize then some (spFlat slot a.toNat)
  else if 0x1000000 ≤ a.toNat ∧ a.toNat < 0x2000000 then some (cmFlat (slotCluster slot) (a.toNat - 0x1000000))
  else none

/-- Whether n bytes from a lie in one local window. -/
def inWindow (a : Word) (n : Nat) : Bool :=
  decide (a.toNat + n ≤ spSize) || (decide (0x1000000 ≤ a.toNat) && decide (a.toNat + n ≤ 0x2000000))

/-- The flat address of the 64-bit word, or of the 64-byte line, that holds a byte. -/
def wordAt (f : Nat) : Nat := f / 8 * 8
def lineAt (f : Nat) : Nat := f / 64 * 64

/-- Storage of a DRAM physical address (R332); none where it names no storage. -/
def physFlat (pa : Nat) : Option Nat :=
  let actor := if pa.testBit 45 then pa / 2 ^ 41 % 16 else pa / 2 ^ 12 % 16
  let off := if pa.testBit 45 then pa % 2 ^ 41 else pa / 2 ^ 16 % 2 ^ 29 * 2 ^ 12 + pa % 2 ^ 12
  if off < dramSize then some (dramFlat actor off) else none

/-- Whether a die has Ultra Ethernet ports (R416). -/
def portDie (d : Nat) : Bool := decide (d < dieCount) && (d % 8 == 0 || d % 8 == 7) && decide (1 ≤ d / 8) && decide (d / 8 ≤ 7)

end Sys2Proof.Machine
end

