-- ==== Sys2Proof/Machine/Ops.lean ====
section
/-! DEFINITION. The shared operations over the state: its parts, memory with tags and ECC, the agenda, notices, queues of
records, the effects of a write on other agents, taking an exception and returning from one. -/
namespace Sys2Proof.Machine

/-! ### Parts of the state -/

def State.coreAt (s : State) (slot : Nat) : Core := FMap.get {} s.cores slot
def State.setCoreAt (s : State) (slot : Nat) (c : Core) : State := { s with cores := FMap.put {} s.cores slot c }
def State.mapCoreAt (s : State) (slot : Nat) (f : Core → Core) : State := s.setCoreAt slot (f (s.coreAt slot))

/-- The core whose hart acts. -/
def State.core (s : State) : Core := s.coreAt s.cur
def State.mapCore (s : State) (f : Core → Core) : State := s.mapCoreAt s.cur f

def State.clusterAt (s : State) (c : Nat) : Cluster := FMap.get {} s.clusters c
def State.mapClusterAt (s : State) (c : Nat) (f : Cluster → Cluster) : State :=
  { s with clusters := FMap.put {} s.clusters c (f (s.clusterAt c)) }

def State.dieAt (s : State) (d : Nat) : Die := FMap.get {} s.dies d
def State.mapDieAt (s : State) (d : Nat) (f : Die → Die) : State :=
  { s with dies := FMap.put {} s.dies d (f (s.dieAt d)) }

def State.mapWafer (s : State) (f : Wafer → Wafer) : State := { s with wafer := f s.wafer }

/-- An operation performed as the hart of a slot. -/
def State.asCore (s : State) (slot : Nat) (f : State → State) : State :=
  { f { s with cur := slot } with cur := s.cur }

/-- A fold over a list. -/
def State.each {α : Type} (s : State) (l : List α) (f : State → α → State) : State := l.foldl f s

/-! ### The agenda -/

/-- An event becomes due. -/
def State.due (s : State) (ev : Instr) (arg : Arg) : State := { s with agenda := s.agenda ++ [{ ev := ev, arg := arg }] }

/-- An event of a place becomes due. -/
def State.dueAt (s : State) (ev : Instr) (place : Nat) : State := s.due ev { place := place }

/-! ### x, v and k registers -/

def Hart.getX (h : Hart) (r : XReg) : Word := if r = 0 then 0 else FMap.get 0 h.x r.toNat
def Hart.putX (h : Hart) (r : XReg) (v : Word) : Hart :=
  if r = 0 then h else { h with x := FMap.put 0 h.x r.toNat v }
def Hart.getV (h : Hart) (r : VReg) : VWord := FMap.get 0 h.v r.toNat
def Hart.putV (h : Hart) (r : VReg) (v : VWord) : Hart := { h with v := FMap.put 0 h.v r.toNat v }
/-- A k register as a data operand (R16). -/
def Hart.getK (h : Hart) (r : KReg) : Word := FMap.get 0 h.k r.toNat
def Hart.putK (h : Hart) (r : KReg) (v : Word) : Hart := { h with k := FMap.put 0 h.k r.toNat v }
/-- A k register as a mask: k0 reads as all ones (R16). -/
def Hart.maskK (h : Hart) (r : KReg) : Word := if r = 0 then BitVec.allOnes 64 else h.getK r

def State.x (s : State) (r : XReg) : Word := s.core.h.getX r
def State.v (s : State) (r : VReg) : VWord := s.core.h.getV r
def State.k (s : State) (r : KReg) : Word := s.core.h.getK r
def State.mapHart (s : State) (f : Hart → Hart) : State := s.mapCore fun c => { c with h := f c.h }

/-- A bit of a register set. -/
def setBit (m : BitVec 32) (r : XReg) : BitVec 32 := m ||| (1#32 <<< r.toNat)
def clearBit (m : BitVec 32) (r : XReg) : BitVec 32 := m &&& ~~~(1#32 <<< r.toNat)
def hasBit (m : BitVec 32) (r : XReg) : Bool := m.getLsbD r.toNat

/-! ### Privilege and tasks -/

def Priv.rank (p : Priv) : Nat :=
  match p with
  | .u => 0
  | .s => 1
  | .m => 3

/-- The privilege at which a task of a job runs (R19). -/
def jobPriv (job : BitVec 12) : Priv := if job = 0 then .s else .u

/-- Whether the hart runs the task itself, or a handler at the task's own privilege (R167, R169). -/
def Core.atTask (c : Core) : Bool :=
  match c.h.task with
  | some t => decide (c.h.mode.rank ≤ (jobPriv t.item.job).rank)
  | none => false

/-- Whether code above the task's privilege runs (R166, R167). -/
def Core.inHandler (c : Core) : Bool := !c.atTask

/-- The job of the running task, also for the forms that its trap handlers issue; 0 where no task runs (DESIGN CHOICE, entry
125: R103 speaks of the issuing task alone). -/
def Core.jobOf (c : Core) : BitVec 12 :=
  match c.h.task with
  | some t => t.item.job
  | none => 0

/-- The serial number of the running task (model). -/
def Core.serialOf (c : Core) : Nat :=
  match c.h.task with
  | some t => t.serial
  | none => 0

/-- An entry of the region stack is open and governs what the hart now does (R167). -/
def Core.inEntry (c : Core) : Bool := !c.r.stack.isEmpty && c.atTask

/-- A transaction is open and governs what the hart now does. -/
def Core.inTxn (c : Core) : Bool := c.inEntry && c.r.stack.any Entry.txn

/-! ### Memory: bytes, words, tags -/

def Mem.byte (m : Mem) (f : Nat) : Byte := FMap.get 0 m.bytes f
def Mem.putByte (m : Mem) (f : Nat) (b : Byte) : Mem := { m with bytes := FMap.put 0 m.bytes f b }

/-- n bytes from a flat address, least significant first (R11). -/
def Mem.nat (m : Mem) (f n : Nat) : Nat :=
  match n with
  | 0 => 0
  | k + 1 => (m.byte f).toNat + 256 * m.nat (f + 1) k

def Mem.word (m : Mem) (f : Nat) : Word := BitVec.ofNat 64 (m.nat f 8)

/-- The n low bytes of a number, least significant first. -/
def bytesOf (v n : Nat) : List Byte :=
  match n with
  | 0 => []
  | k + 1 => BitVec.ofNat 8 v :: bytesOf (v / 256) k

def Mem.putBytes (m : Mem) (f : Nat) (l : List Byte) : Mem :=
  match l with
  | [] => m
  | b :: t => (m.putByte f b).putBytes (f + 1) t

def Mem.putData (m : Mem) (f : Nat) (w : Word) : Mem := m.putBytes f (bytesOf w.toNat 8)

def Mem.tag (m : Mem) (f : Nat) : MemTag := FMap.get {} m.tags (wordAt f)
def Mem.putTag (m : Mem) (f : Nat) (t : MemTag) : Mem := { m with tags := FMap.put {} m.tags (wordAt f) t }

/-- The canonical form of memory: both lists in theirs. -/
def Mem.wf (m : Mem) : Bool := FMap.wf (0 : Byte) m.bytes && FMap.wf ({} : MemTag) m.tags

def State.mapMem (s : State) (f : Mem → Mem) : State := { s with mem := f s.mem }

/-- Number of set bits. -/
def popCount (n : Nat) : Nat → Nat
  | 0 => 0
  | k + 1 => (if n.testBit k then 1 else 0) + popCount n k

/-- What CheckECC finds in a word (R198, R126): the data to use, whether it was corrected, whether it is
uncorrectable. -/
structure EccView where
  data : Word
  corrected : Bool
  bad : Bool
  deriving DecidableEq, Repr

def eccCheck (data : Word) (flips : BitVec 72) : EccView :=
  let n := popCount flips.toNat 72
  if n = 0 then { data := data, corrected := false, bad := false }
  else if n = 1 then { data := data ^^^ flips.setWidth 64, corrected := true, bad := false }
  else if n = 2 then { data := data, corrected := false, bad := true }
  else
    let o := Config.ecc data flips
    if o.1 % 3 = 0 then { data := data, corrected := false, bad := false }
    else if o.1 % 3 = 1 then { data := o.2, corrected := true, bad := false }
    else { data := data, corrected := false, bad := true }

/-- The ECC view of the word that holds a flat address. -/
def Mem.ecc (m : Mem) (f : Nat) : EccView := eccCheck (m.word (wordAt f)) (m.tag f).flips

/-- Poisoned, or uncorrectable. -/
def Mem.isBad (m : Mem) (f : Nat) : Bool := (m.tag f).poison || (m.ecc f).bad

/-- A word's data as a read gives it: corrected where correctable. -/
def Mem.data (m : Mem) (f : Nat) : Word := (m.ecc f).data

/-- n bytes as reads give them, from a flat address; the bytes may span words. -/
def Mem.readByte (m : Mem) (f : Nat) : Byte := (m.data f).extractLsb' (8 * (f % 8)) 8

/-- Writes all 8 bytes of a word with fresh check bits: poison cleared, full kept (R199). -/
def Mem.writeWord (m : Mem) (f : Nat) (w : Word) : Mem :=
  (m.putData (wordAt f) w).putTag f { full := (m.tag f).full }

/-- Merges bytes into a word with fresh check bits; poison and full kept. mask bit i writes byte i of d. -/
def Mem.mergeWord (m : Mem) (f : Nat) (mask : BitVec 8) (d : Word) : Mem :=
  if mask = BitVec.allOnes 8 then m.writeWord f d
  else
    let old := m.data f
    let sel := (List.range 8).foldl
      (fun (acc : Word) i => if mask.getLsbD i then acc ||| (0xFF#64 <<< (8 * i)) else acc) 0
    let t := m.tag f
    (m.putData (wordAt f) ((old &&& ~~~sel) ||| (d &&& sel))).putTag f { full := t.full, poison := t.poison }

/-- A store's bytes reach a word: part of a bad word stays as it is, poisoned (R199). -/
def Mem.storeWord (m : Mem) (f : Nat) (mask : BitVec 8) (d : Word) : Mem :=
  if mask != BitVec.allOnes 8 && m.isBad f then m.putTag f { m.tag f with poison := true } else m.mergeWord f mask d

def Mem.setPoison (m : Mem) (f : Nat) (p : Bool) : Mem := m.putTag f { m.tag f with poison := p }
def Mem.setFull (m : Mem) (f : Nat) (b : Bool) : Mem := m.putTag f { m.tag f with full := b }

/-- Rewrites a corrected word (R199). -/
def Mem.scrubbed (m : Mem) (f : Nat) : Mem :=
  let e := m.ecc f
  if e.corrected then (m.putData (wordAt f) e.data).putTag f { m.tag f with flips := 0 }
  else if e.bad then m.setPoison f true
  else m

/-! ### Records (R34) -/

def Rec.word0 (r : Rec) : Word := 0#2 ++ r.job ++ r.prio ++ r.code
def Rec.word1 (r : Rec) : Word := 0#1 ++ r.join ++ r.frame
def Rec.word2 (r : Rec) : Word :=
  0#10 ++ BitVec.ofBool r.chn ++ BitVec.ofBool r.top ++ BitVec.ofBool r.wake ++ BitVec.ofBool r.etag
    ++ BitVec.ofBool r.msg ++ BitVec.ofBool r.act ++ r.widp

/-- The record's flags as a2 gives them (R18): word 2 bits 63:48. -/
def Rec.flags (r : Rec) : Word := r.word2 >>> 48

def Rec.toWords (r : Rec) : List Word := [r.word0, r.word1, r.word2, 0]

/-- A record from its words, reserved bits ignored (R35). -/
def Rec.ofWords (w0 w1 w2 : Word) : Rec :=
  { job := w0.extractLsb' 50 12, prio := w0.extractLsb' 48 2, code := w0.extractLsb' 2 46 ++ 0#2,
    join := w1.extractLsb' 48 15, frame := w1.extractLsb' 0 48,
    chn := w2.getLsbD 53, top := w2.getLsbD 52, wake := w2.getLsbD 51, etag := w2.getLsbD 50, msg := w2.getLsbD 49,
    act := w2.getLsbD 48, widp := w2.extractLsb' 0 48 }

/-! ### Notices (R343, R354) -/

/-- Bits of a notice header. -/
def noticeHeader (kind die count : Nat) : Word :=
  BitVec.ofNat 64 (kind + 256 * (die % 8) + 4096 * (die / 8) + 2 ^ 32 * (count % 2 ^ 32))

/-- Writes words from a flat address as hardware does. -/
def Mem.writeWords (m : Mem) (f : Nat) (l : List Word) : Mem :=
  match l with
  | [] => m
  | w :: t => (m.writeWord f w).writeWords (f + 8) t

/-- Words from a flat address. -/
def Mem.readWords (m : Mem) (f n : Nat) : List Word :=
  match n with
  | 0 => []
  | k + 1 => m.data f :: m.readWords (f + 8) k

/-! ### Effects of a write on other agents -/

/-- A change of a job's partial count at a place, and one event more (R323, R324). -/
def Job.count (j : Job) (place : Nat) (d : Int) : Job :=
  { j with counts := FMap.put 0 j.counts place (FMap.get 0 j.counts place + d), events := j.events + 1 }

/-- A balance event of a job at a slot, a DRAM actor or the host queue (R323, R324). -/
def State.balance (s : State) (place : Nat) (job : BitVec 12) (d : Int) : State :=
  match FMap.get none s.wafer.jobs job.toNat with
  | none => s
  | some j => s.mapWafer fun w => { w with jobs := FMap.put none w.jobs job.toNat (some (j.count place d)) }

/-- Places of the partial counts that DRAM actors and the host queue keep (R323). -/
def dramPlace (n : Nat) : Nat := slotCount + n
def hostPlace : Nat := slotCount + 16
def nodePlace (n : Node) : Nat :=
  match n with
  | .actor slot _ => slot
  | .dram k => dramPlace k
  | .host => hostPlace

/-- Records of one level's spill ring (R209). -/
def ringCap (g : Gv) : Nat := g.spill.toNat / 2 ^ 32 % 2 ^ 20 / 128
/-- Scratchpad offset of slot i of a level's ring. -/
def ringSlot (g : Gv) (level i : Nat) : Nat := g.spill.toNat % 2 ^ 20 + (level * ringCap g + i) * 32

def levelQ (q : Sched) (l : Nat) : List QRec := FMap.get [] q.fifo l
def levelRing (q : Sched) (l : Nat) : Ring := FMap.get {} q.ring l

/-- Whether a level can take one more ordinary record (R206, R209). -/
def Core.hasRoom (c : Core) (l : Nat) : Bool :=
  decide ((levelRing c.q l).seqs.length < ringCap c.g)
    || ((levelRing c.q l).seqs.isEmpty && decide ((levelQ c.q l).length < 63))

/-- Whether a core's transaction reads one of the lines and the write dooms it: another agent's write does, and so does one that
its own hart makes above the task's privilege (R167, R185). -/
def Core.dooms (c : Core) (own : Bool) (lines : List Nat) : Bool :=
  (!own || c.inHandler) && c.r.rset.any fun p => lines.contains p.1

/-- A write to lines dooms the transactions that read them (R185) and breaks the reservations of other harts on them (R96). -/
def State.doomLines (s : State) (agent : Option Nat) (lines : List Nat) : State :=
  let s1 := s.each (s.cores.filter fun p => p.2.dooms (some p.1 == agent) lines) fun s p =>
    s.mapCoreAt p.1 fun c => { c with r.doomed := true }
  s1.each (s1.cores.filter fun p => some p.1 ≠ agent && (match p.2.h.resv with
      | some l => lines.contains l
      | none => false)) fun s p => s.mapCoreAt p.1 fun c => { c with h.resv := none }

/-- Sleepers of a cluster that a write to lines wakes: those that watch one, and those whose entries cannot be read (R189,
R290). -/
def State.watchers (s : State) (cl : Nat) (lines : List Nat) : List Sleeper :=
  (s.clusterAt cl).wake.filter fun sl => !sl.woken && (sl.broken || sl.lines.any lines.contains)

/-- Sleepers that a write wakes are marked, and their cores look at them (R189). -/
def State.markWoken (s : State) (cl : Nat) (lines : List Nat) : State :=
  let hit := s.watchers cl lines
  if hit.isEmpty then s
  else (s.mapClusterAt cl fun c =>
    { c with wake := c.wake.map fun t => if hit.contains t then { t with woken := true } else t }).each hit fun s sl =>
      s.dueAt .taskDispatch sl.slot

/-- The core writes a record's words into a slot of a spill ring: a write as any other (R185, R189, R209). -/
def State.spillTo (s : State) (slot f : Nat) (r : Rec) : State :=
  let lines := [lineAt f, lineAt (f + 24)].eraseDups
  ((s.mapMem fun m => m.writeWords f r.toWords).doomLines none lines).markWoken (slotCluster slot) lines

/-- Appends an ordinary record at its level: to the FIFO, or to the tail of the level's ring (R206, R209). -/
def State.enqueueAt (s : State) (slot : Nat) (r : Rec) : State :=
  let c := s.coreAt slot
  let l := r.prio.toNat
  let ring := levelRing c.q l
  if ring.seqs.isEmpty && decide ((levelQ c.q l).length < 63) then
    (s.mapCoreAt slot fun c =>
      { c with q.fifo := FMap.put [] c.q.fifo l (levelQ c.q l ++ [{ item := r, seq := c.q.enq }]), q.enq := c.q.enq + 1 }).dueAt
      .taskDispatch slot
  else
    let i := (ring.head + ring.seqs.length) % (max (ringCap c.g) 1)
    ((s.spillTo slot (spFlat slot (ringSlot c.g l i)) r).mapCoreAt slot fun c =>
      { c with q.ring := FMap.put {} c.q.ring l { head := if ring.seqs.isEmpty then i else ring.head, seqs := ring.seqs ++ [r.ringRec c.q.enq], lost := ring.lost }, q.enq := c.q.enq + 1 }).dueAt
      .taskDispatch slot

/-- The record at place i of a level's ring, as its words give it; a lost ring's records are free values (entry 12). -/
def State.ringRec (s : State) (slot l i : Nat) : Rec :=
  let g := (s.coreAt slot).g
  let ring := levelRing (s.coreAt slot).q l
  let f := spFlat slot (ringSlot g l ((ring.head + i) % max (ringCap g) 1))
  let w (j : Nat) : Word := if ring.lost then Config.freeWord (s.fresh + 3 * i + j) else s.mem.data (f + 8 * j)
  Rec.ofWords (w 0) (w 1) (w 2)

/-- Whether a job's context is being saved or restored at a core, or is saved from it, so that what reaches the core for
the job waits (R217). -/
def State.jobAway (s : State) (slot : Nat) (job : BitVec 12) : Bool :=
  job != 0 && ((match (s.coreAt slot).u.swap with
    | some w => w.job == job
    | none => false) || (s.dieAt (slotDie slot)).ds.saved.any fun x => x.slot == slot && x.job == job)

/-- Whether a core takes a record now: its level or ring has room, and its job is not away (R210, R217). -/
def State.takesRec (s : State) (slot : Nat) (r : Rec) : Bool :=
  (s.coreAt slot).hasRoom r.prio.toNat && !s.jobAway slot r.job

/-- Whether a record that comes now passes none of its level and job that waits in the core's input. -/
def State.admits (s : State) (slot : Nat) (r : Rec) : Bool :=
  s.takesRec slot r && !(s.coreAt slot).q.waitq.any fun w => w.prio == r.prio && w.job == r.job

/-- Enqueues a record, or keeps it waiting in the core's input where its level and ring are full (R210) or its job is away
(R217). Records of one level keep their order; no level waits for another. -/
def State.enqueueOrWait (s : State) (slot : Nat) (r : Rec) : State :=
  if s.admits slot r then s.enqueueAt slot r
  else s.mapCoreAt slot fun c => { c with q.waitq := c.q.waitq ++ [r] }

/-- Whether a sleeping task's job is away, so that a wake is recorded against its saved entry (R190, R217). -/
def State.wakeWaits (s : State) (sl : Sleeper) : Bool := s.jobAway sl.slot sl.item.job

/-- A sleeping task becomes Ready and its table entries are freed; where its core has no room, or its job is away, the entry
is marked and waits (R189, R190, R210). -/
def State.wakeOne (s : State) (cl : Nat) (sl : Sleeper) : State :=
  if s.takesRec sl.slot sl.item then
    (s.mapClusterAt cl fun c => { c with wake := c.wake.filter fun t => t ≠ sl }).enqueueAt sl.slot sl.item
  else s.mapClusterAt cl fun c => { c with wake := c.wake.map fun t => if t = sl then { t with woken := true } else t }

/-- A write to lines of a cluster's reach by an agent (a hart, or none for any other): it dooms readers (R185), breaks
reservations (R96) and wakes sleepers (R189). -/
def State.touchLines (s : State) (agent : Option Nat) (cl : Nat) (lines : List Nat) : State :=
  let s2 := s.doomLines agent lines
  s2.each (s2.watchers cl lines) fun s sl => s.wakeOne cl sl

/-- The cluster whose transactions and sleepers can watch a flat address; none for DRAM. -/
def watchCluster (f : Nat) : Option Nat :=
  match homeOf f with
  | .sp slot _ => some (slotCluster slot)
  | .cm cl _ => some cl
  | .dram _ _ => none

/-- A write to one line. -/
def State.touch (s : State) (agent : Option Nat) (f : Nat) : State :=
  match watchCluster f with
  | some cl => s.touchLines agent cl [lineAt f]
  | none => s

/-- Writes to several words, line by line. -/
def State.touchAll (s : State) (agent : Option Nat) (fs : List Nat) : State :=
  s.each (fs.map lineAt).eraseDups fun s l => s.touch agent l

/-! ### Notices to a supervisor -/

def noticeSlotFlat (b : Mailbox) (i : Nat) : Nat := spFlat b.core (b.base + 32 * i)
def cmdSlotFlat (b : Mailbox) (i : Nat) : Nat := spFlat b.core (b.base + 0x800 + 32 * i)
def scanBlockFlat (b : Mailbox) (i : Nat) : Nat := spFlat b.core (b.base + 0xC00 + 128 * i)

/-- Writes one notice into the next slot (R343); its count is that of the die's notices so far, itself among them (DESIGN CHOICE,
entry 3). -/
def State.writeNotice (s : State) (d : Nat) (b : Mailbox) (n : Notice) : State :=
  let f := noticeSlotFlat b b.nextNotice
  let k := (b.count + 1) % 2 ^ 32
  ((s.mapMem fun m => ((m.writeWords f [noticeHeader n.kind d k, n.w1, n.w2, n.w3]).setFull f true)).mapDieAt d
    fun x => { x with rc.box := some { b with nextNotice := (b.nextNotice + 1) % 64, count := k } }).touch
    none f

/-- Posts queued notices while the next slot is empty; n bounds the slots of the ring. -/
def State.flushNotices (s : State) (d n : Nat) : State :=
  match n with
  | 0 => s
  | k + 1 =>
    match (s.dieAt d).rc.box with
    | none => s
    | some b =>
      match b.queue with
      | [] => s
      | x :: t =>
        if (s.mem.tag (noticeSlotFlat b b.nextNotice)).full then s
        else (s.writeNotice d { b with queue := t } x).flushNotices d k

/-- Posts a notice to the die's supervisor (R343); a die without a mailbox keeps none, and while the wafer is frozen it waits for thaw
(R397). -/
def State.notice (s : State) (d : Nat) (n : Notice) : State :=
  match (s.dieAt d).rc.box with
  | none => s
  | some b =>
    let t := s.mapDieAt d fun x => { x with rc.box := some { b with queue := b.queue ++ [n] } }
    if t.wafer.freeze = .running then t.flushNotices d 64 else t

/-- Address of a word as a notice names it: a global address for cluster memory and DRAM, else the local one. -/
def globalOf (f : Nat) : Word :=
  match homeOf f with
  | .sp _ off => BitVec.ofNat 64 off
  | .cm cl off => BitVec.ofNat 64 (2 ^ 56 + clusterY cl * 2 ^ 32 + clusterX cl * 2 ^ 24 + off)
  | .dram _ off => BitVec.ofNat 64 off

/-- X and Y of a slot in a notice: [7:0], [15:8]. -/
def slotXY (slot : Nat) : Word := BitVec.ofNat 64 (slotX slot + 256 * slotY slot)

/-- Of n things that may come next, the one that State.order chooses, and what remains of the choices. -/
def State.chosen (s : State) (n : Nat) : State × Nat := ({ s with order := s.order.drop 1 }, s.order.headD 0 % max n 1)

/-- The damage that the next reading of codewords outside memory meets (entry 132). -/
def State.nextUpset (s : State) : State × Option Upset := ({ s with upsets := s.upsets.drop 1 }, s.upsets.headD none)

/-- Writes a sample slot: seq + 1, fresh, value (R263). -/
def State.putSample (s : State) (slot i : Nat) (value : Nat) : State :=
  s.mapCoreAt slot fun c =>
    let old := FMap.get 0 c.u.samples i
    let seq := (old.toNat / 2 ^ 48 + 1) % 2 ^ 16
    { c with u.samples := FMap.put 0 c.u.samples i (BitVec.ofNat 64 (seq * 2 ^ 48 + 2 ^ 47 + value % 2 ^ 47)) }

/-- One correctable error of a core (R354). -/
def State.countCore (s : State) (slot : Nat) : State :=
  let s1 := s.mapCoreAt slot fun c =>
    { c with u.corr := c.u.corr + 1, u.corrLaunch := min (c.u.corrLaunch + 1) (2 ^ 32 - 1) }
  let s2 := s1.putSample slot 3 (s1.coreAt slot).u.corrLaunch
  let d := slotDie slot
  let n := (s2.coreAt slot).u.corr
  if (s2.dieAt d).rc.threshold ≤ n then
    (s2.mapCoreAt slot fun c => { c with u.corr := 0 }).notice d
      { kind := 3, w1 := slotXY slot, w2 := BitVec.ofNat 64 n }
  else s2

/-- One correctable error at the place of a flat address (R199, R354). -/
def State.countCorr (s : State) (f : Nat) : State :=
  match homeOf f with
  | .dram _ _ => s
  | .cm cl _ => s.mapClusterAt cl fun c => { c with corr := c.corr + 1 }
  | .sp slot _ => s.countCore slot

/-- A word that fails its check is poisoned where part of it is to be written (R199). -/
def State.keepBad (s : State) (f : Nat) : State := if (s.mem.ecc f).bad then s.mapMem fun m => m.setPoison f true else s

/-- CheckECC at an access: a corrected word is rewritten and counted, an uncorrectable one poisoned (R199). -/
def State.checkWord (s : State) (f : Nat) : State :=
  let e := s.mem.ecc f
  let s1 := s.mapMem fun m => m.scrubbed f
  if e.corrected then s1.countCorr f else s1

/-! ### Edge rings and firings (R202, R203, R256, R405) -/

def State.edgeAt (s : State) (e : Nat) : Option Edge := FMap.find s.wafer.edges e

/-- The default edge of the edge table's list form: no edge. -/
def noEdge : Edge :=
  { job := 0, src := .host, se := 0, dst := .host, dq := 0, slots := 0, bytes := 8, rel := false, replay := 8, pair := false }

def State.mapEdge (s : State) (e : Nat) (f : Edge → Edge) : State :=
  match s.edgeAt e with
  | none => s
  | some x => s.mapWafer fun w => { w with edges := FMap.put noEdge w.edges e (f x) }

/-- Scratchpad offset of a slot's header of an edge's ring (R255). -/
def Edge.header (e : Edge) (i : Nat) : Nat := e.ring + i * (8 + e.bytes)

def Core.actor (c : Core) (n : Nat) : ActorEntry := FMap.get {} c.q.actors n
def State.mapActor (s : State) (slot n : Nat) (f : ActorEntry → ActorEntry) : State :=
  s.mapCoreAt slot fun c => { c with q.actors := FMap.put {} c.q.actors n (f (c.actor n)) }

/-- The edge bound to an actor's input or output. -/
def boundEdge (l : List Nat) (i : Nat) : Option Nat :=
  match l[i]? with
  | some e => if e = 0xFFFF then none else some e
  | none => none

/-- Flat address of the head slot's header of an input port. -/
def State.headFlat (s : State) (slot : Nat) (a : ActorEntry) (q : Nat) : Option Nat :=
  match boundEdge a.inq q with
  | none => none
  | some e => match s.edgeAt e with
    | none => none
    | some x => some (spFlat slot (x.header x.headSlot))

def State.headFull (s : State) (slot : Nat) (a : ActorEntry) (q : Nat) : Bool :=
  match s.headFlat slot a q with
  | none => false
  | some f => (s.mem.tag f).full

/-- Whether an output edge has a free slot (R202). A firing's own reservations are released before the next firing. -/
def State.hasCredit (s : State) (a : ActorEntry) (e : Nat) : Bool :=
  match boundEdge a.outq e with
  | none => false
  | some x => match s.edgeAt x with
    | none => false
    | some d => decide (0 < d.credits)

/-- The ports a firing names: the surviving port alone where a comparator's other port is gone (R406). -/
def ActorEntry.ports (a : ActorEntry) : BitVec 8 :=
  match a.single with
  | some p => a.inmask &&& (if p = 0 then 0xFD else 0xFE)
  | none => a.inmask

/-- The first failing condition of the firing rule: 1 an input empty, 2 an output full, and its index; none where the token
conditions hold (R202, R204). That a full output is held downstream, cause 3, is told where the counter is read. -/
def State.stallOf (s : State) (slot : Nat) (a : ActorEntry) : Option (Nat × Nat) :=
  match (List.range 8).find? fun q => a.ports.getLsbD q && !s.headFull slot a q with
  | some q => some (1, q)
  | none =>
    match (List.range 8).find? fun e => a.outmask.getLsbD e && !s.hasCredit a e with
    | some e => some (2, e)
    | none => none

/-- Header words of the heads on the ports a firing names. -/
def State.heads (s : State) (slot : Nat) (a : ActorEntry) : List Word :=
  (List.range 8).filterMap fun q =>
    if a.ports.getLsbD q then (s.headFlat slot a q).map fun f => s.mem.data f else none

/-- Whether a head on the ports a firing names came as a release-class write (R388). -/
def State.headsRel (s : State) (a : ActorEntry) : Bool :=
  (List.range 8).any fun q => a.ports.getLsbD q && (match boundEdge a.inq q with
    | some e => match s.edgeAt e with
      | some x => x.relSlots.contains x.headSlot
      | none => false
    | none => false)

/-- The record of a firing (R203, R52). -/
def firingRecord (a : ActorEntry) (job : BitVec 12) (top rel : Bool) (heads : List Word) : Rec :=
  { job := job, rel := rel, chk := true, prio := a.prio, code := a.code, frame := a.state, act := true, widp := a.widp,
    etag := heads.any fun w => w.getLsbD 62,
    top := match heads.find? fun w => w.getLsbD 61 != top with
      | some w => w.getLsbD 61
      | none => top }

/-- Whether both comparator ports hold full heads that must be compared (R405), with the two edges. -/
def State.pairOf (s : State) (a : ActorEntry) : Option (Nat × Nat) :=
  if a.single.isSome then none
  else match boundEdge a.inq 0, boundEdge a.inq 1 with
    | some e, some f => match s.edgeAt e, s.edgeAt f with
      | some x, some y => if x.pair && y.pair then some (e, f) else none
      | _, _ => none
    | _, _ => none

/-- The head token of an edge's ring: seq and payload words. -/
def State.headToken (s : State) (slot : Nat) (e : Edge) : Word × List Word :=
  let f := spFlat slot (e.header e.headSlot)
  (s.mem.data f &&& 0xFFFFFFFF, s.mem.readWords (f + 8) (e.bytes / 8))

/-- Sends a re-injection request to a token's producer (R262), with the payload and top bit as they last arrived. -/
def State.askReinject (s : State) (e : Nat) (seq : BitVec 32) (payload : List Word) (top : Bool) : State :=
  s.due .tokenReinject { place := e, a := seq.toNat, words := payload, flag := top }

/-- A slot header (R255). -/
def slotHeader (seq : BitVec 32) (rel top etag done : Bool) : Word :=
  BitVec.ofBool done ++ BitVec.ofBool etag ++ BitVec.ofBool top ++ BitVec.ofBool rel ++ 0#28 ++ seq

/-- The header of a token that lands with its error tag: done 0, top the consuming core's reading (R262). -/
def State.taggedHeader (s : State) (slot : Nat) (e : Edge) (seq : BitVec 32) : Word :=
  slotHeader seq e.rel (s.coreAt slot).g.top true false

/-- Discards a comparator's differing heads and asks for both again, or lands them tagged at the third comparison
(R405). Either is a write of the core's. -/
def State.recompare (s : State) (slot : Nat) (e f : Nat) (x y : Edge) : State :=
  let hx := spFlat slot (x.header x.headSlot)
  let hy := spFlat slot (y.header y.headSlot)
  let top (h : Nat) : Bool := (s.mem.data h).getLsbD 61
  if 2 ≤ x.compared then
    (((s.mapMem fun m => (m.writeWord hx (s.taggedHeader slot x x.headSeq)).writeWord hy (s.taggedHeader slot y y.headSeq)).mapEdge
      e (fun x => { x with compared := 0 })).mapEdge f (fun y => { y with compared := 0 })).touchAll none [hx, hy]
  else
    (((((s.mapMem fun m => (m.setFull hx false).setFull hy false).mapEdge e
      (fun x => { x with compared := x.compared + 1, landed := x.landed.filter (· ≠ x.headSlot) })).mapEdge f
      (fun y => { y with compared := y.compared + 1, landed := y.landed.filter (· ≠ y.headSlot) })).touchAll none [hx, hy]).askReinject e
      x.headSeq (s.headToken slot x).2 (top hx)).askReinject f y.headSeq (s.headToken slot y).2 (top hy)

/-- Makes the firing (R202, R203): busy, reservations, the header's ports, the record. -/
def State.fire (s : State) (slot n : Nat) : State :=
  let c := s.coreAt slot
  let a := c.actor n
  let job := c.u.job.getD 0
  let r := firingRecord a job c.g.top (s.headsRel a) (s.heads slot a)
  let hdr := localFlat slot (a.state.setWidth 64)
  let s1 := match hdr with
    | some f => (s.mapMem fun m =>
        let w := m.data f
        m.writeWord f ((w &&& ~~~(0xFFFF000000#64)) ||| (1#64 <<< 24) ||| (a.ports.setWidth 64 <<< 32))).touch none f
    | none => s
  ((s1.mapActor slot n fun a =>
    { a with busy := true, starved := false, resv := a.outmask, stallCause := 0, stallIndex := 0, stallCount := 0 }).balance slot job 1).enqueueAt
    slot r

/-- The heads of a comparator's two ports, where both are full, differ and came without an error tag: the two edges with their
numbers (R405). -/
def State.mismatch (s : State) (slot : Nat) (a : ActorEntry) : Option (Nat × Nat × Edge × Edge) :=
  match s.pairOf a with
  | none => none
  | some (e, f) => match s.edgeAt e, s.edgeAt f with
    | some x, some y =>
      let tagged (z : Edge) : Bool := (s.mem.data (spFlat slot (z.header z.headSlot))).getLsbD 62
      if s.headFull slot a 0 && s.headFull slot a 1 && !tagged x && !tagged y && s.headToken slot x != s.headToken slot y then
        some (e, f, x, y)
      else none
    | _, _ => none

/-- The comparisons of a comparator's heads start anew (R405). -/
def State.clearCompared (s : State) (a : ActorEntry) : State :=
  match s.pairOf a with
  | none => s
  | some (e, f) => (s.mapEdge e fun x => { x with compared := 0 }).mapEdge f fun y => { y with compared := 0 }

/-- Fires an actor whose rule holds, if a record slot is free; keeps the failing condition of one whose rule does not
(R202, R204, R210). -/
def State.fireOr (s : State) (slot n : Nat) : State :=
  let a := (s.coreAt slot).actor n
  match s.stallOf slot a with
  | some (cause, i) => s.mapActor slot n fun a =>
      { a with stallCause := BitVec.ofNat 2 cause, stallIndex := BitVec.ofNat 3 i }
  | none =>
    if (s.coreAt slot).hasRoom a.prio.toNat then (s.clearCompared a).fire slot n
    else s.mapActor slot n fun a => { a with starved := true, stallCause := 0, stallIndex := 0 }

/-- Whether a core evaluates its firing rules: it holds a job's context, which is not being saved or restored, and the wafer is not
frozen (R217, R221, R325, R397). -/
def State.evaluates (s : State) (slot : Nat) : Bool :=
  (s.coreAt slot).u.job.isSome && (s.coreAt slot).u.swap.isNone && decide (s.wafer.freeze = .running)

/-- Evaluates an actor's firing rule (R202), and before it the comparison of a comparator (R405). -/
def State.evalActor (s : State) (slot n : Nat) : State :=
  let a := (s.coreAt slot).actor n
  if !a.en || a.held || a.mig || a.busy || !s.evaluates slot then s
  else match s.mismatch slot a with
    | some (e, f, x, y) => (s.recompare slot e f x y).fireOr slot n
    | none => s.fireOr slot n

/-- Evaluates every actor of a core, in number order (R208). -/
def State.evalCore (s : State) (slot : Nat) : State :=
  s.each ((s.coreAt slot).q.actors.map Prod.fst) fun s n => s.evalActor slot n

/-- Looks again at the actors whose firing found no record slot (R210). -/
def State.evalStarved (s : State) (slot : Nat) : State :=
  s.each (((s.coreAt slot).q.actors.filter fun p => p.2.starved).map Prod.fst) fun s n => s.evalActor slot n

/-- An emptied head header advances its ring's descriptor (R256); the slot becomes a credit at the task's end. A slot in which
no token landed puts the descriptor out of step: the slots of later tokens and the balance are then free values (R257,
entry 12). -/
def State.advance (s : State) (en : Nat) (e : Edge) (slot n : Nat) : State :=
  let next := (e.headSlot + 1) % (max e.slots 1)
  let a := (s.coreAt slot).actor n
  let own := e.landed.contains e.headSlot
  let s0 := if own then s else { s with fresh := s.fresh + 2 }
  let s1 := s0.mapEdge en fun x =>
    { x with headSlot := next, headSeq := if own then e.headSeq + 1 else (Config.freeWord s.fresh).setWidth 32, landed := x.landed.filter (· ≠ e.headSlot),
             relSlots := x.relSlots.filter (· ≠ e.headSlot),
             spent := if own then x.spent ++ [e.headSeq] else x.spent }
  let s2 := match localFlat slot (a.state.setWidth 64 + BitVec.ofNat 64 (8 + 8 * e.dq)) with
    | some f => (s1.mapMem fun m => m.writeWord f (BitVec.ofNat 64 (e.header next))).touch none f
    | none => s1
  s2.balance slot e.job (if own then -1 else (Config.freeWord (s.fresh + 1)).toInt)

/-- The number of the token that a slot of a ring holds, relative to the head's (R255). -/
def Edge.seqOf (e : Edge) (i : Nat) : BitVec 32 :=
  e.headSeq + BitVec.ofNat 32 ((i + max e.slots 1 - e.headSlot) % max e.slots 1)

/-- An emptied slot behind the head: a token that landed there is taken, and the slot becomes a credit at the task's end; the
descriptor stays (R256, R257). -/
def State.emptied (s : State) (en : Nat) (e : Edge) (slot i : Nat) : State :=
  if e.landed.contains i then
    (s.mapEdge en fun x => { x with landed := x.landed.filter (· ≠ i), relSlots := x.relSlots.filter (· ≠ i),
                                    spent := x.spent ++ [e.seqOf i] }).balance slot e.job (-1)
  else s

/-- The slot of an edge's ring at a core whose header is a flat address. -/
def Edge.slotAt (e : Edge) (slot f : Nat) : Option Nat :=
  let base := spFlat slot e.ring
  let i := (f - base) / (8 + e.bytes)
  if base ≤ f ∧ (f - base) % (8 + e.bytes) = 0 ∧ i < e.slots then some i else none

/-- Edges whose rings have a slot's header at a flat address: number, edge, slot of the core, actor, slot of the ring. -/
def State.ringEdges (s : State) (f : Nat) : List (Nat × Edge × Nat × Nat × Nat) :=
  s.wafer.edges.filterMap fun p =>
    match p.2.dst with
    | .actor slot n => (p.2.slotAt slot f).map fun i => (p.1, p.2, slot, n, i)
    | _ => none

/-- The mailbox command event of a header word's op (R344). -/
def commandEvent (op : Nat) : Instr :=
  if op = 1 then .resumeFault else if op = 2 then .endFault else if op = 3 then .setRoot else if op = 4 then .invalidate
  else if op = 5 then .saveArea else if op = 6 then .watchdogInterval else if op = 7 then .errorThreshold
  else if op = 8 then .replicatePage else if op = 9 then .movePage else if op = 10 then .bindPort else .unknownCommand

/-- The next command slot of a die, when it is full, makes its command due (R344). -/
def State.dueCommand (s : State) (d : Nat) : State :=
  match (s.dieAt d).rc.box with
  | none => s
  | some b =>
    let f := cmdSlotFlat b b.nextCmd
    if (s.mem.tag f).full then s.dueAt (commandEvent ((s.mem.data f).toNat % 256)) d else s

/-- Flat address of slot i of gateway core g's transmit ring at a port of a die (R419, R420). -/
def gatewaySlot (d k g : Nat) : Nat := dieSlot d (8 * k + g) (if d % 8 = 0 then 0 else 23)
def txFlat (d k : Nat) (p : PortEng) (g i : Nat) : Nat :=
  cmFlat (slotCluster (gatewaySlot d k g)) (p.ring + 2048 * (g % 4) + 128 * i)

/-- What becomes of a word's full bit changing: rings advance or fire (R202, R256), the mailbox takes a command or posts a
notice (R343, R344), a port engine finds a block to send (R420). -/
def State.fullChanged (s : State) (f : Nat) (now : Bool) : State :=
  let s1 := s.each (s.ringEdges f) fun s p =>
    let (en, e, slot, n, i) := p
    (if now then s else if i = e.headSlot then s.advance en e slot n else s.emptied en e slot i).evalActor slot n
  let die := match homeOf f with
    | .sp slot _ => slotDie slot
    | .cm cl _ => clusterDie cl
    | .dram _ _ => dieCount
  let s2 := match (s1.dieAt die).rc.box with
    | none => s1
    | some b =>
      if now then (if f = cmdSlotFlat b b.nextCmd then s1.dueCommand die else s1)
      else if noticeSlotFlat b 0 ≤ f && f < noticeSlotFlat b 64 then s1.flushNotices die 64
      else if scanBlockFlat b 0 ≤ f && f < scanBlockFlat b 8 then
        s1.each (s1.dieAt die).rc.scanWait fun s c => s.dueAt .watchdogFire c
      else s1
  if now then
    s2.each ((s2.dieAt die).ports.filter fun p => p.2.bound && (List.range 8).any fun g =>
        (List.range 16).any fun i => txFlat die p.1 p.2 g i == f)
      fun s p => s.due .ueTransmit { place := die, a := p.1 }
  else s2

/-- Writes full bits as one act of an agent (R186, R208): the bits change together, then the writes have their effects on other
agents, then what follows from each bit that changed. -/
def State.putFulls (s : State) (agent : Option Nat) (touched : List Nat) (l : List (Nat × Bool)) : State :=
  let changed := l.filter fun p => (s.mem.tag p.1).full != p.2
  ((s.mapMem fun m => l.foldl (fun m p => m.setFull (wordAt p.1) p.2) m).touchAll agent touched).each changed fun s p =>
    s.fullChanged (wordAt p.1) p.2

/-- A write of one word by an agent that leaves its full bit at b. -/
def State.putFull (s : State) (agent : Option Nat) (f : Nat) (b : Bool) : State := s.putFulls agent [f] [(f, b)]

/-! ### Taking an exception, and returning (R158, R159, R165) -/

/-- Status bits (published). -/
def mSIE : Word := 0x2
def mMIE : Word := 0x8
def mSPIE : Word := 0x20
def mMPIE : Word := 0x80
def mSPP : Word := 0x100
def mMPP : Word := 0x1800

def putBits (w mask : Word) (on : Bool) : Word := if on then w ||| mask else w &&& ~~~mask
def hasBits (w mask : Word) : Bool := w &&& mask != 0

/-- Previous privilege as MPP holds it. -/
def Priv.code (p : Priv) : Word :=
  match p with
  | .u => 0
  | .s => 1
  | .m => 3

/-- The mode a hart counts as being in (R165): U while no task runs and the hart is idle. -/
def Core.mode (c : Core) : Priv :=
  match c.h.hs with
  | .idle => .u
  | _ => c.h.mode

/-- Handler address: the base, or base + 4 × code for an interrupt in vectored mode (R159). -/
def vectorOf (tvec : Word) (intr : Bool) (code : Nat) : Word :=
  let base := tvec &&& ~~~3
  if intr && tvec &&& 3 == 1 then base + BitVec.ofNat 64 (4 * code) else base

/-- Trap entry into M or S: xepc, xcause, xtval, xstatus, mode and pc written, the reservation dropped (R158). -/
def Core.enter (c : Core) (toS intr : Bool) (code : Nat) (epc tval : Word) : Core :=
  let cause : Word := BitVec.ofNat 64 code ||| (if intr then 1#64 <<< 63 else 0)
  let st := c.c.mstatus
  if toS then
    { c with
      t.sepc := epc, t.scause := cause, t.stval := tval,
      c.mstatus := putBits (putBits (putBits st mSPIE (hasBits st mSIE)) mSIE false) mSPP (c.mode != .u),
      h.mode := .s, h.hs := .run, h.pc := vectorOf c.c.stvec intr code, h.resv := none, h.traps := BitVec.ofNat 8 code :: c.h.traps }
  else
    { c with
      t.mepc := epc, t.mcause := cause, t.mtval := tval,
      c.mstatus := ((putBits (putBits st mMPIE (hasBits st mMIE)) mMIE false) &&& ~~~mMPP) ||| (c.mode.code <<< 11),
      h.mode := .m, h.hs := .run, h.pc := vectorOf c.c.mtvec intr code, h.resv := none, h.traps := BitVec.ofNat 8 code :: c.h.traps }

/-- Whether an exception or interrupt goes to S mode: delegated, and not taken from M (R162). -/
def Core.delegated (c : Core) (intr : Bool) (code : Nat) : Bool :=
  c.mode != .m && (if intr then c.c.mideleg else c.c.medeleg).getLsbD code

/-- Takes an exception with a saved pc (R158, R160). -/
def State.trapAt (s : State) (code : Nat) (tval epc : Word) : State :=
  s.mapCore fun c => c.enter (c.delegated false code) false code epc tval

/-- Takes an exception at the present instruction. -/
def State.trap (s : State) (code : Nat) (tval : Word) : State := s.trapAt code tval s.core.h.pc

/-- Takes an interrupt: before the present instruction, or with xepc = 0 where no task runs (R165). -/
def State.interrupt (s : State) (code : Nat) : State :=
  s.mapCore fun c =>
    c.enter (c.delegated true code) true code (if c.h.hs = .idle then 0 else c.h.pc) 0

/-- The bits of an instruction, zero-extended (R67). -/
def bitsOf (i : Instr) : Word :=
  match encode i with
  | some w => w.setWidth 64
  | none => 0

/-- Illegal instruction (R67). -/
def State.illegal (s : State) (i : Instr) : State := s.trap 2 (bitsOf i)
/-- Region or transaction misuse (R160, cause 49). -/
def State.misuse (s : State) (i : Instr) : State := s.trap 49 (bitsOf i)

/-- Return to a mode and an address. Without a task, a return to address 0 gives the hart back to the core scheduler
(R165); a return to the task after an overrun restarts its count (R169). -/
def Core.leave (c : Core) (p : Priv) (pc : Word) : Core :=
  let d : Core := { c with h.mode := p, h.pc := pc, h.traps := c.h.traps.drop 1 }
  match c.h.task with
  | none => if pc = 0 then { d with h.mode := .u, h.hs := .idle, h.traps := [] } else d
  | some t =>
    if p.rank ≤ (jobPriv t.item.job).rank && t.overran then { d with h.task := some { t with count := 0, overran := false } }
    else d

/-- mret (published): MIE := MPIE, MPIE := 1, mode := MPP, MPP := U. -/
def Core.mret (c : Core) : Core :=
  let st := c.c.mstatus
  let p : Priv := if st &&& mMPP = mMPP then .m else if st &&& mMPP = 0x800 then .s else .u
  let st' := (putBits (putBits st mMIE (hasBits st mMPIE)) mMPIE true) &&& ~~~mMPP
  ({ c with c.mstatus := st' } : Core).leave p c.t.mepc

/-- sret (published): SIE := SPIE, SPIE := 1, mode := SPP, SPP := U. -/
def Core.sret (c : Core) : Core :=
  let st := c.c.mstatus
  let p : Priv := if hasBits st mSPP then .s else .u
  let st' := putBits (putBits (putBits st mSIE (hasBits st mSPIE)) mSPIE true) mSPP false
  ({ c with c.mstatus := st' } : Core).leave p c.t.sepc

/-! ### Retiring -/

/-- Counts a retired instruction: instret unless inhibited, and the progress counter at the task's privilege (R20, R350). -/
def Core.retired (c : Core) : Core :=
  let c1 : Core := if c.c.mcountinhibit.getLsbD 2 then c else { c with n.instret := c.n.instret + 1 }
  if c1.atTask then
    if c1.u.progSub = 4095 then { c1 with u.progSub := 0, u.prog := c1.u.prog + 1 }
    else { c1 with u.progSub := c1.u.progSub + 1 }
  else c1

/-- Retires the present instruction and goes on at an address. Bits 63:48 of it are kept, and the fetch raises cause 1 there: R16
calls them zero, and R96 and R160 give the address of a fetch outside the local windows as tval (DESIGN CHOICE, entry 122). -/
def State.retireTo (s : State) (pc : Word) : State :=
  s.mapCore fun c => { c with h.pc := pc }.retired

/-- Retires the present instruction and goes on at the next. -/
def State.retire (s : State) : State := s.retireTo (s.core.h.pc + 4)

/-! ### Flags -/

/-- SetFlags: ORs flags into gvfflags (R65). -/
def Core.setFlags (c : Core) (f : Flags) : Core := { c with g.fflags := c.g.fflags ||| f }

end Sys2Proof.Machine
end

