-- ==== Sys2Proof/Machine/Flags.lean ====
section
/-! DEFINITION. Flag computations (R27, R54, R62): the flags of an operation are computed beside its result in
Machine/Number.lean; here they reach gvfflags, which instructions only set. -/
namespace Sys2Proof.Machine

/-- SetFlags at the acting hart (R65). -/
def State.raise (s : State) (f : Flags) : State := s.mapCore fun c => c.setFlags f

/-- SetFlags at a core, for flags of an operation of its running task (R61). -/
def State.raiseAt (s : State) (slot : Nat) (f : Flags) : State := s.mapCoreAt slot fun c => c.setFlags f

/-- The flags of several elements. -/
def joinFlags (l : List Flags) : Flags := l.foldl (· ||| ·) 0

end Sys2Proof.Machine
end

