-- ==== Sys2Proof/Machine/RegionOps.lean ====
section
/-! DEFINITION. What recovery regions and transactions do to memory and registers (spec 07): the undo log, buffered writes,
rollback, commit, retry, and the consumption of an uncorrectable error. -/
namespace Sys2Proof.Machine

/-! ### The stack -/

/-- Whether an entry is the outermost transaction of a stack given from the entry outwards. -/
def outermostTxn (stackFromE : List Entry) : Bool :=
  match stackFromE with
  | [] => false
  | e :: below => e.txn && !below.any Entry.txn

/-- The outermost transaction of a stack (innermost first). -/
def findOutermost (st : List Entry) : Option Entry := st.reverse.find? Entry.txn

/-- The carry's stamp when an entry is the outermost transaction (R175, R192). -/
def carryStamp (stackFromE : List Entry) : Option Nat :=
  match stackFromE with
  | [] => none
  | e :: _ => if outermostTxn stackFromE then some e.stamp else none

/-- Whether every command of the hart that is not held has completed, as fence.eng waits (R181, R271). -/
def State.commandsDone (s : State) : Bool :=
  let c := s.core
  c.e.mxq.isEmpty && c.e.cpq.isEmpty && c.e.drq.isEmpty && c.h.pend &&& ~~~c.h.hpend == 0
    && !(s.clusterAt (slotCluster s.cur)).layq.any fun l => l.slot = s.cur

/-! ### The undo log (R179) -/

/-- Room for n more records below gvundol.limit. -/
def Core.logRoom (c : Core) (n : Nat) : Bool := decide (n = 0 ∨ c.r.logTop + 16 * n ≤ c.g.undol.toNat)

/-- Appends one record at LogTop. -/
def State.logRecord (s : State) (tag val : Word) : State :=
  let f := spFlat s.cur s.core.r.logTop
  ((s.mapMem fun m => m.writeWords f [tag, val]).mapCore fun c => { c with r.logTop := c.r.logTop + 16 }).touchAll
    (some s.cur) [f, f + 8]

def tagMarker (begin_ : Word) : Word := (1#64 <<< 60) ||| (begin_ &&& 0xFFFFFFFFFFFF)
def tagX (r : Nat) : Word := (2#64 <<< 60) ||| BitVec.ofNat 64 r
def tagV (r j : Nat) : Word := (3#64 <<< 60) ||| BitVec.ofNat 64 (r + 32 * j)
def tagK (r : Nat) : Word := (4#64 <<< 60) ||| BitVec.ofNat 64 r
def tagMem (a : Nat) (full poison : Bool) : Word :=
  (5#64 <<< 60) ||| (if poison then 1#64 <<< 59 else 0) ||| (if full then 1#64 <<< 58 else 0) ||| BitVec.ofNat 64 a

/-- The local-window address of a flat word of the hart's windows. -/
def localOf (f : Nat) : Nat :=
  match homeOf f with
  | .sp _ off => off
  | .cm _ off => 0x1000000 + off
  | .dram _ off => off

/-- A word as the running transaction sees it (R185): data, full, poison. -/
def State.txnWord (s : State) (f : Nat) : Word × Bool × Bool :=
  let base := s.mem.data f
  let t := s.mem.tag f
  match FMap.find s.core.r.wset (wordAt f) with
  | none => (base, t.full, s.mem.isBad f)
  | some w =>
    let d := (List.range 8).foldl (fun (acc : Word) i =>
      if w.mask.getLsbD i then (acc &&& ~~~(0xFF#64 <<< (8 * i))) ||| (w.data &&& (0xFF#64 <<< (8 * i))) else acc) base
    (d, w.full.getD t.full, w.poison.getD (s.mem.isBad f))

/-- Logs one memory word for the innermost entry unless its words set holds it (R180). The pre-image is the word as the
transaction sees it, or as memory holds it. The reading for the log is checked as any reading is (R199) and consumes no
error (R180). DESIGN CHOICE, entry 3. -/
def State.logMem (s0 : State) (f : Nat) (viaTxn : Bool) : State :=
  match s0.core.r.stack with
  | [] => s0
  | e :: rest =>
    if e.words.contains (wordAt f) then s0
    else
      let s := s0.checkWord (wordAt f)
      let v := if viaTxn then s.txnWord f else (s.mem.data f, (s.mem.tag f).full, s.mem.isBad f)
      (s.logRecord (tagMem (localOf (wordAt f)) v.2.1 v.2.2) v.1).mapCore fun c =>
        { c with r.stack := { e with words := e.words ++ [wordAt f] } :: rest }

/-- Names of the registers a mask adds to an entry: x registers 1 to 31, v registers as 32 + j (R177). -/
def maskRegs (mask : Word) (have_ : List Nat) : List Nat :=
  (List.range 64).filter fun i => i != 0 && mask.getLsbD i && !have_.contains i

/-- Log records that registers take: one for an x register, eight for a v register (R179). -/
def regRecords (l : List Nat) : Nat := (l.map fun i => if i < 32 then 1 else 8).sum

/-- Logs registers for the innermost entry (R177). -/
def State.logRegs (s : State) (l : List Nat) : State :=
  let h := s.core.h
  let s1 := s.each l fun s i =>
    if i < 32 then s.logRecord (tagX i) (h.getX (BitVec.ofNat 5 i))
    else s.each (List.range 8) fun s j =>
      s.logRecord (tagV (i - 32) j) ((h.getV (BitVec.ofNat 5 (i - 32))).extractLsb' (64 * j) 64)
  match s1.core.r.stack with
  | [] => s1
  | e :: rest => s1.mapCore fun c => { c with r.stack := { e with regs := e.regs ++ l } :: rest }

/-- LogMarker and LogK for an entry at a depth (R179). -/
def State.logBegin (s : State) (e : Entry) (depth : Nat) : State :=
  let val : Word := BitVec.ofNat 64 ((if e.txn then 1 else 0) + 256 * e.count + 4096 * depth)
  let h := s.core.h
  (s.logRecord (tagMarker e.begin_) val).each (List.range 8) fun s j => s.logRecord (tagK j) (h.getK (BitVec.ofNat 3 j))

/-! ### Applying words -/

/-- Writes words at once as an agent, with the effects on others (R274). -/
def State.applyWrites (s : State) (agent : Option Nat) (l : List WordWrite) : State :=
  (s.mapMem fun m => l.foldl (fun m w => m.storeWord w.addr w.mask w.data) m).touchAll agent (l.map WordWrite.addr)

/-- Restores a word with its tags, fresh check bits (R181). -/
def State.restoreMem (s : State) (f : Nat) (d : Word) (full poison : Bool) : State :=
  (s.mapMem fun m => (m.writeWord f d).setPoison f poison).putFull (some s.cur) f full

/-- RestoreWord (R181): into the write set when a transaction lies below, else into memory. -/
def State.restoreWord (s : State) (f : Nat) (d : Word) (full poison toWset : Bool) : State :=
  let w : WsWord := { data := d, mask := BitVec.allOnes 8, full := some full, poison := some poison }
  if toWset then s.mapCore fun c => { c with r.wset := FMap.put {} c.r.wset (wordAt f) w }
  else s.restoreMem f d full poison

/-- Pops records down to a mark; n bounds them. The result says at which record an uncorrectable error stopped it (R181).
regs: whether register and k records are restored. wmark: the mark of the outermost transaction; the memory records above it
go to its write set, as they were logged. -/
def State.popLog (s : State) (mark : Nat) (regs : Bool) (wmark : Option Nat) (n : Nat) : State × Option Nat :=
  match n with
  | 0 => (s, none)
  | k + 1 =>
    let top := s.core.r.logTop
    if top ≤ mark then (s, none)
    else
      let a := top - 16
      let toWset := match wmark with
        | some w => decide (w ≤ a)
        | none => false
      let f := spFlat s.cur a
      let s0 := (s.checkWord f).checkWord (f + 8)
      let s1 := s0.mapCore fun c => { c with r.logTop := a }
      if s0.mem.isBad f || s0.mem.isBad (f + 8) then (s1, some a)
      else
        let tag := s0.mem.data f
        let val := s0.mem.data (f + 8)
        let kind := tag.toNat / 2 ^ 60
        let where_ := tag.toNat % 2 ^ 48
        let s2 :=
          if kind = 2 then
            if regs then s1.mapHart fun h =>
              { h.putX (BitVec.ofNat 5 where_) val with mark := clearBit h.mark (BitVec.ofNat 5 where_) }
            else s1
          else if kind = 3 then
            if regs then s1.mapHart fun h =>
              let r : VReg := BitVec.ofNat 5 where_
              let j := where_ / 32 % 8
              let old := h.getV r
              h.putV r ((old &&& ~~~((BitVec.allOnes 64).setWidth 512 <<< (64 * j))) ||| (val.setWidth 512 <<< (64 * j)))
            else s1
          else if kind = 4 then if regs then s1.mapHart fun h => h.putK (BitVec.ofNat 3 where_) val else s1
          else if kind = 5 then
            match localFlat s.cur (BitVec.ofNat 64 where_) with
            | some g => s1.restoreWord g val (tag.getLsbD 58) (tag.getLsbD 59) toWset
            | none => s1
          else s1
        s2.popLog mark regs wmark k

/-! ### Discarding held effects (R98, R114, R181, R259) -/

/-- What issuing a held effect took is given back: a claimed route, a reply credit, a reservation, a token register. -/
def State.discardHeld (s : State) (x : Held) : State :=
  let s1 := s.mapHart fun h =>
    if x.rd = 0 then h else { h with pend := clearBit h.pend x.rd, hpend := clearBit h.hpend x.rd }
  match x.op with
  | .send _ m _ claim =>
    let s2 := match claim with
      | some (i, r) => s1.mapCore fun c => { c with m.routes := FMap.put none c.m.routes i (some r) }
      | none => s1
    match m.body with
    | .msg g => if !g.reply && claim.isNone && g.route.isSome then s2.mapCore fun c => { c with m.credits := c.m.credits - 1 } else s2
    | _ => s2
  | .put t _ =>
    match s1.edgeAt t.edge with
    | some e => match e.src with
      | .actor slot n => s1.mapActor slot n fun a => { a with resv := a.resv ||| (1#8 <<< e.se) }
      | _ => s1
    | none => s1
  | _ => s1

/-- Discards the held effects at and above a depth. -/
def State.discardFrom (s : State) (depth : Nat) : State :=
  let gone := s.core.r.hold.filter fun x => decide (depth ≤ x.depth)
  (s.each gone State.discardHeld).mapCore fun c =>
    { c with r.hold := c.r.hold.filter fun x => decide (x.depth < depth) }

/-! ### Rollback (R181) -/

/-- Rollback of the entry with i entries above it. The result says whether it ended; when a log record was
uncorrectable the entry stays open and cause 30 is raised. The caller has waited for the hart's commands. -/
def State.rollback (s : State) (i : Nat) (regs : Bool) : State × Bool :=
  let st := s.core.r.stack
  match st.drop i with
  | [] => (s, true)
  | e :: below =>
    let depth := below.length + 1
    let s1 := s.discardFrom depth
    let r := s1.popLog e.mark regs ((findOutermost st).map Entry.mark) (s1.core.r.logTop / 16 + 1)
    match r.2 with
    | some a =>
      let s2 := r.1.mapCore fun c => { c with r.stack := e :: below }
      (s2.trap 30 (BitVec.ofNat 64 a), false)
    | none =>
      let gone := (st.take (i + 1)).any Entry.txn && !below.any Entry.txn
      (r.1.mapCore fun c =>
        if gone then { c with r.stack := below, r.wset := [], r.rset := [], r.doomed := false }
        else { c with r.stack := below }, true)

/-- Rolls an entry back and runs it again from its begin with a carried count (R175, R192). Stalls while a command of the
hart is in flight. -/
def State.reexecute (s : State) (i count : Nat) (stamp : Option Nat) : State :=
  match s.core.r.stack[i]? with
  | none => s
  | some e =>
    if !s.commandsDone then s
    else
      let r := s.rollback i true
      if r.2 then r.1.mapCore fun c => { c with r.carry := some (count, stamp), h.pc := e.begin_ } else r.1

/-! ### Consumption (R191, R192) -/

/-- Consumes an uncorrectable error; tval is what cause 30 reports. -/
def State.consume (s : State) (tval : Word) : State :=
  let c := s.core
  match c.r.stack with
  | [] => s.trap 30 tval
  | e :: rest =>
    if !c.atTask || c.g.limit.toNat ≤ e.count then s.trap 30 tval
    else s.reexecute 0 (e.count + 1) (carryStamp (e :: rest))

/-! ### Commit (R186) -/

/-- Lines a write set touches. -/
def wsLines (w : FMap WsWord) : List Nat := (w.map fun p => lineAt p.1).eraseDups

/-- Other transactions of the cluster whose read set meets the lines. -/
def State.meeting (s : State) (lines : List Nat) : List (Nat × Core) :=
  s.cores.filter fun p =>
    p.1 != s.cur && slotCluster p.1 == slotCluster s.cur && p.2.r.rset.any fun l => lines.contains l.1

/-- Puts a buffered word into memory: its bytes with fresh check bits, its poison bit. -/
def Mem.applyWs (m : Mem) (f : Nat) (w : WsWord) : Mem :=
  let m1 := if w.mask = 0 then m else m.storeWord f w.mask w.data
  match w.poison with
  | some b => m1.setPoison f b
  | none => m1

/-- Applies a write set in increasing address as one act: every word and full bit first, then the effects of the writes, so that
no agent and no firing rule sees some of them without the others (R186). -/
def State.applyWset (s : State) (w : FMap WsWord) : State :=
  (s.mapMem fun m => w.foldl (fun m p => m.applyWs p.1 p.2) m).putFulls (some s.cur) (w.map Prod.fst)
    (w.filterMap fun p => p.2.full.map fun b => (p.1, b))

/-- What a txn.end of the outermost transaction comes to. -/
inductive CommitOutcome where
  | full                  -- the log cannot take the recovery region's records: cause 27
  | restart (s : State)   -- doomed, or refused by an older reader
  | done (s : State)

/-- Commit of the outermost transaction, which is the innermost entry (R186). -/
def State.commit (s : State) : CommitOutcome :=
  let c := s.core
  match c.r.stack with
  | [] => .done s
  | t :: below =>
    let ws := c.r.wset
    let fresh := match below with
      | [] => []
      | r :: _ => (ws.map Prod.fst).filter fun f => !r.words.contains f
    if !below.isEmpty && decide (c.g.undol.toNat < t.mark + 16 * fresh.length) then .full
    else
      let older := (s.meeting (wsLines ws)).any fun p =>
        !p.2.r.doomed && (match findOutermost p.2.r.stack with
          | some u => decide (u.stamp < t.stamp)
          | none => false)
      if c.r.doomed || older then .restart (s.reexecute 0 0 (some t.stamp))
      else
        let s1 := s.mapCore fun c => { c with r.stack := below, r.rset := [], r.wset := [], r.doomed := false }
        let s2 := match below with
          | [] => s1
          | _ :: _ => (s1.mapCore fun c => { c with r.logTop := t.mark }).each fresh fun s f => s.logMem f false
        let depth := below.length + 1
        let s3 := s2.mapCore fun c =>
          { c with r.hold := c.r.hold.map fun x => if x.depth = depth then { x with depth := depth - 1 } else x }
        .done (s3.applyWset ws)

/-! ### Retry (R188) -/

/-- Free entries of a cluster's wake table: 512, of which a sleeper takes one for each line and at least one; the
entries of a job that is swapped out are saved with it, and so are no entries of the table (R190). -/
def State.wakeFree (s : State) (cl : Nat) : Nat :=
  512 - (((s.clusterAt cl).wake.filter fun sl => !s.wakeWaits sl).map fun sl => max 1 sl.lines.length).sum

/-- The restart record of the running task (R189). -/
def restartRec (t : Task) (code : Word) : Rec :=
  { t.item with code := code.setWidth 48, prio := t.prio, join := 0, wake := true, chn := false, cont := t.serial }

/-- Index from the innermost entry of the innermost transaction that holds an alternative. -/
def altIndex (st : List Entry) : Option Nat :=
  (st.zipIdx.find? fun p => p.1.txn && p.1.alt != 0).map Prod.snd

/-- Goes to an alternative: entries above are rolled back, the transaction's own records above its marker and k records
are popped, and it stays open (R188). -/
def State.toAlternative (s : State) (i : Nat) : State :=
  let r := if i = 0 then (s, true) else s.rollback (i - 1) true
  if !r.2 then r.1
  else
    match r.1.core.r.stack with
    | [] => r.1
    | t :: below =>
      let outer := outermostTxn (t :: below)
      let p := r.1.popLog (t.mark + 144) true ((findOutermost (t :: below)).map Entry.mark) (r.1.core.r.logTop / 16 + 1)
      match p.2 with
      | some a => p.1.trap 30 (BitVec.ofNat 64 a)
      | none => p.1.mapCore fun c =>
          { c with r.stack := { t with alt := 0, words := [], regs := [] } :: below, h.pc := t.alt,
                   r.wset := if outer then [] else c.r.wset }

/-- Rolls back n entries, innermost first, before a task sleeps or is ended (R168). -/
def State.dropEntries (s : State) (regs : Bool) (n : Nat) : State × Bool :=
  match n with
  | 0 => (s, true)
  | k + 1 =>
    let r := s.rollback 0 regs
    if r.2 then r.1.dropEntries regs k else r

def State.dropAll (s : State) (regs : Bool) : State × Bool := s.dropEntries regs s.core.r.stack.length

end Sys2Proof.Machine
end

