-- ==== Sys2Proof/Machine/Operands.lean ====
section
/-! DEFINITION. Operand forms: reading and writing registers with their pending, held and error marks (R161, R166, R184,
R247), and the hart's loads and stores with their checks, read and write sets, undo log and store buffer (R96, R147,
R180 to R185, R199, R287). -/
namespace Sys2Proof.Machine

/-! ### Registers -/

/-- The shape of an error token (R166, R248): bit 63 set, bits 62:16 zero. -/
def tokenShape (v : Word) : Bool := v.getLsbD 63 && v.extractLsb' 16 47 == 0

/-- The uncorrectable-data token (R248). -/
def tokenBad : Word := 0x8000000000000010

/-- The first of a list of conditions that holds: the cause and tval of its trap (R161). -/
def firstTrap (l : List (Bool × Nat × Word)) : Option (Nat × Word) := (l.find? fun p => p.1).map Prod.snd

/-- Writes an x register: a value of the token shape written above the task's privilege sets the mark, every other write
clears it (R166). -/
def Core.writeX (c : Core) (r : XReg) (v : Word) : Core :=
  if r = 0 then c
  else
    let marked := c.h.task.isSome && c.inHandler && tokenShape v
    { c with h := { c.h.putX r v with mark := if marked then setBit c.h.mark r else clearBit c.h.mark r } }

def State.writeX (s : State) (r : XReg) (v : Word) : State := s.mapCore fun c => c.writeX r v

/-- Whether an instruction stalls on one of its registers: it is pending, and not for a held command (R184, R247). -/
def Core.pendingOn (c : Core) (l : List XReg) : Bool := l.any fun r => hasBit c.h.pend r && !hasBit c.h.hpend r

/-- The checks on an instruction's x registers before it acts: it stalls on a pending register (R247); the first source
that holds an error token raises cause 29, or consumes the uncorrectable-data token inside an open entry (R161, R166,
R191); a register pending for a held command raises cause 49 (R184). -/
def State.guard (s : State) (i : Instr) (srcs dsts : List XReg) (k : State → State) : State :=
  let c := s.core
  let regs := srcs ++ dsts
  if c.pendingOn regs then s
  else
    match (if c.atTask then srcs.find? fun r => hasBit c.h.mark r else none) with
    | some r =>
      let v := c.h.getX r
      if c.inEntry && v == tokenBad then s.consume v else s.trap 29 v
    | none =>
      if regs.any fun r => hasBit c.h.hpend r then s.misuse i else k s

/-- Marks a token register pending (R247). -/
def Core.markPending (c : Core) (r : XReg) : Core :=
  if r = 0 then c else { c with h.pend := setBit c.h.pend r, h.mark := clearBit c.h.mark r }

/-- Marks a token register pending for a held command (R184). Its old value and mark stay until completion (R181). -/
def Core.markHeld (c : Core) (r : XReg) : Core :=
  if r = 0 then c else { c with h.pend := setBit c.h.pend r, h.hpend := setBit c.h.hpend r }

/-- An engine or system form writes its token register at completion (R166, R247); the register of a task that has ended
is not there any more. -/
def State.completeToken (s : State) (slot : Nat) (rd : XReg) (serial : Nat) (v : Word) : State :=
  if rd = 0 then s
  else s.mapCoreAt slot fun c =>
    if hasBit c.h.pend rd && c.serialOf == serial then
      { c with h := { c.h.putX rd v with
          pend := clearBit c.h.pend rd, hpend := clearBit c.h.hpend rd,
          mark := if v.getLsbD 63 then setBit c.h.mark rd else clearBit c.h.mark rd } }
    else c

/-! ### What an access comes to -/

/-- An access is done, or traps, or consumes an uncorrectable error, or stalls the hart. -/
inductive Acc (α : Type) where
  | ok (s : State) (a : α)
  | trap (code : Nat) (tval : Word)
  | consume (s : State) (a : Word)
  | stall

/-- Goes on from an access of an instruction; a trap is precise (R158). -/
def Acc.andThen {α : Type} (r : Acc α) (s : State) (k : State → α → State) : State :=
  match r with
  | .ok t a => k t a
  | .trap code tval => s.trap code tval
  | .consume t a => t.consume a
  | .stall => s

/-- Misalignment before the window check (R96, R147, R161): cause and tval. -/
def checkAccess (store : Bool) (a : Word) (n : Nat) : Option (Nat × Word) :=
  if a.toNat % n ≠ 0 then some (if store then 6 else 4, a)
  else if !inWindow a n then some (if store then 7 else 5, a)
  else none

/-- The first failing check of a list of accesses, in order. -/
def firstFail (store : Bool) (l : List (Word × Nat)) : Option (Nat × Word) :=
  l.findSome? fun p => checkAccess store p.1 p.2

/-- The flat address of a checked local address. -/
def State.flat (s : State) (a : Word) : Nat := (localFlat s.cur a).getD 0

/-- Bytes of a mask replaced. -/
def mergeMask (old : Word) (mask : BitVec 8) (d : Word) : Word :=
  (List.range 8).foldl (fun (acc : Word) i =>
    if mask.getLsbD i then (acc &&& ~~~(0xFF#64 <<< (8 * i))) ||| (d &&& (0xFF#64 <<< (8 * i))) else acc) old

/-- A word as the hart's load sees it: memory, then its own buffered stores (R287), then its transaction's write set
(R185): data, and whether reading it consumes an error. -/
def State.hartWord (s : State) (f : Nat) : Word × Bool :=
  let c := s.core
  let fw := wordAt f
  let v := c.e.sb.foldl (fun (acc : Word × Bool) e =>
    match e with
    | .store ps => ps.flatten.foldl (fun (acc : Word × Bool) w =>
        if w.addr = fw then (mergeMask acc.1 w.mask w.data, acc.2 && w.mask != BitVec.allOnes 8) else acc) acc
    | _ => acc) (s.mem.data fw, s.mem.isBad fw)
  if c.inTxn then
    match FMap.find c.r.wset fw with
    | some w => (mergeMask v.1 w.mask w.data, w.poison.getD v.2)
    | none => v
  else v

/-! ### Loads -/

/-- Lines that accesses add to the read set (R185): 64 lines at most, else cause 27 with tval 4. -/
def State.joinReads (s : State) (l : List Word) : Option State :=
  if !s.core.inTxn then some s
  else
    let add := l.foldl (fun (acc : List (Nat × Word)) a =>
      let f := lineAt (s.flat a)
      if acc.any fun p => p.1 = f then acc else acc ++ [(f, a &&& ~~~63)]) s.core.r.rset
    if 64 < add.length then none else some (s.mapCore fun c => { c with r.rset := add })

/-- Whether the store buffer holds a posted form that acts on a word's line: a load there waits for it (R287). -/
def Core.postedOn (c : Core) (f : Nat) : Bool :=
  c.e.sb.any fun e => match e with
    | .nb op => lineAt (cmFlat op.cluster op.off) == lineAt f
    | .bar op => decide (cmFlat op.cluster op.off ≤ f) && decide (f < cmFlat op.cluster op.off + 128)
    | .store _ => false

/-- Whether a flat address lies in a cluster memory. -/
def isCluster (f : Nat) : Bool :=
  match homeOf f with
  | .cm _ _ => true
  | _ => false

/-- A transfer of words between a hart and memory: through the crossbar where one of them lies in a cluster memory. The result
says whether it failed its CRC-16 check twice, so that the data arrive as uncorrectable (R290). -/
def State.transfer (s : State) (fs : List Nat) : State × Bool :=
  if fs.any isCluster then ({ s with crc := s.crc.drop 1 }, s.crc.headD false) else (s, false)

/-- Whether reading a word consumes an error. -/
def State.readsBad (s : State) (failed : Bool) (f : Nat) : Bool := (s.hartWord f).2 || (failed && isCluster f)

/-- Reads elements of at most 8 bytes at checked addresses, as hart loads (R199): read set, then each word's check, then
the first bad word is consumed. -/
def State.readChecked (s : State) (l : List (Word × Nat)) : Acc (List Nat) :=
  if l.any fun p => s.core.postedOn (wordAt (s.flat p.1)) then .stall
  else match s.joinReads (l.map Prod.fst) with
  | none => .trap 27 4
  | some s1 =>
    let fs := (l.map fun p => wordAt (s.flat p.1)).eraseDups
    let x := (s1.each fs State.checkWord).transfer fs
    let s2 := x.1
    match l.find? fun p => s2.readsBad x.2 (s.flat p.1) with
    | some p => .consume s2 (p.1 &&& ~~~7)
    | none => .ok s2 (l.map fun p =>
        (s2.hartWord (s.flat p.1)).1.toNat / 2 ^ (8 * (p.1.toNat % 8)) % 2 ^ (8 * p.2))

/-- Hart loads of several elements: every check first (R147), then the reads. -/
def State.hartLoad (s : State) (l : List (Word × Nat)) : Acc (List Nat) :=
  match firstFail false l with
  | some (c, a) => .trap c a
  | none => s.readChecked l

/-- One load. -/
def State.load1 (s : State) (a : Word) (n : Nat) (k : State → Nat → State) : State :=
  (s.hartLoad [(a, n)]).andThen s fun t l => k t (l.headD 0)

/-! ### Stores -/

/-- Adds the write of an element to the words written so far; a later element wins (R149). -/
def addWrite (ws : List WordWrite) (f n v : Nat) : List WordWrite :=
  let fw := wordAt f
  let o := f - fw
  let mask : BitVec 8 := BitVec.ofNat 8 ((2 ^ n - 1) * 2 ^ o)
  let data : Word := BitVec.ofNat 64 (v % 2 ^ (8 * n) * 2 ^ (8 * o))
  if ws.any fun w => w.addr = fw then
    ws.map fun w => if w.addr = fw then { w with mask := w.mask ||| mask, data := mergeMask w.data mask data } else w
  else ws ++ [{ addr := fw, mask := mask, data := data }]

/-- The words that elements write. -/
def State.wordWrites (s : State) (l : List (Word × Nat × Nat)) : List WordWrite :=
  l.foldl (fun ws p => addWrite ws (s.flat p.1) p.2.1 p.2.2) []

/-- Groups words by their aligned 16-byte block (R149). -/
def pieces (ws : List WordWrite) : List (List WordWrite) :=
  (ws.map fun w => w.addr / 16).eraseDups.map fun b => ws.filter fun w => w.addr / 16 = b

/-- The 16-byte block of a piece. -/
def pieceBlock (p : List WordWrite) : Nat := (p.headD { addr := 0, mask := 0, data := 0 }).addr / 16

/-- Whether a store of the hart meets the undo log area while the stack is not empty (R182). -/
def State.inLog (s : State) (a : Word) (n : Nat) : Bool :=
  let c := s.core
  !c.r.stack.isEmpty && decide (a.toNat < c.g.undol.toNat) && decide (c.g.undo.toNat < a.toNat + n)

/-- Whether a write to words is logged by the innermost entry (R180): always, except directly under the outermost
transaction. -/
def logged (st : List Entry) : Bool := !st.isEmpty && !outermostTxn st

/-- Words of a list that the innermost entry has not logged. -/
def Core.unlogged (c : Core) (l : List Nat) : List Nat :=
  match c.r.stack with
  | [] => []
  | e :: _ => if logged c.r.stack then l.filter fun f => !e.words.contains f else []

/-- Whether the write set can take lines too: 32 at most (R185). -/
def Core.wsetRoom (c : Core) (l : List Nat) : Bool :=
  decide (((c.r.wset.map fun p => lineAt p.1) ++ l.map lineAt).eraseDups.length ≤ 32)

/-- Puts a word write into the write set. -/
def putWset (ws : FMap WsWord) (w : WordWrite) : FMap WsWord :=
  let old := FMap.get {} ws w.addr
  FMap.put {} ws w.addr { old with
    data := mergeMask old.data w.mask w.data, mask := old.mask ||| w.mask,
    poison := if w.mask = BitVec.allOnes 8 then some false else old.poison }

/-- Posts an entry into the store buffer; an event that drains it becomes due, for a store one for each piece, which names its
block (R149, R287). -/
def State.post (s : State) (e : SbEntry) : State :=
  let t := s.mapCore fun c => { c with e.sb := c.e.sb ++ [e] }
  match e with
  | .store ps => t.each ps fun t p => t.due .storeBufferDrain { place := t.cur, a := pieceBlock p }
  | _ => t.dueAt .storeBufferDrain t.cur

/-- Posts a store, if it writes a byte. -/
def State.postStore (s : State) (ws : List WordWrite) : State :=
  match pieces ws with
  | [] => s
  | ps => s.post (.store ps)

/-- A write by a handler above the task's privilege to a line in the transaction's read set aborts it (R167). -/
def State.handlerDooms (s : State) (fs : List Nat) : State :=
  if s.core.dooms true (fs.map lineAt) then s.mapCore fun c => { c with r.doomed := true } else s

/-- The capacity checks of a write of words inside an entry (R161: cause 27 stands above consumption): the trap's tval. -/
def Core.writeRoom (c : Core) (l : List Nat) : Option Word :=
  if c.inTxn && !c.wsetRoom l then some 5
  else if !c.logRoom (c.unlogged l).length then some 2
  else none

/-- Words of a piece reach memory in one act; where the crossbar failed it twice they arrive as uncorrectable (R149, R290). -/
def State.writePiece (s : State) (p : List WordWrite) : State :=
  let x := s.transfer (p.map WordWrite.addr)
  let t := x.1.applyWrites (some s.cur) p
  if x.2 then t.mapMem fun m => p.foldl (fun m w => m.setPoison w.addr true) m else t

/-- Writes words for the hart: inside an entry logged and applied at once, or buffered in the write set; outside, or in a
handler, through the store buffer (R167, R180, R185, R287). The checks have passed. -/
def State.commitWrites (s : State) (ws : List WordWrite) : State :=
  let c := s.core
  if c.inEntry then
    let s1 := s.each (c.unlogged (ws.map WordWrite.addr)) fun s f => s.logMem f c.inTxn
    if c.inTxn then s1.mapCore fun c => { c with r.wset := ws.foldl putWset c.r.wset }
    else s1.each (pieces ws) State.writePiece
  else (s.handlerDooms (ws.map WordWrite.addr)).postStore ws

/-- Stores of elements (address, size, value) of at most 8 bytes: every check first, then the writes (R131, R147, R182). -/
def State.hartStore (s : State) (l : List (Word × Nat × Nat)) : Acc Unit :=
  match firstFail true (l.map fun p => (p.1, p.2.1)) with
  | some (c, a) => .trap c a
  | none =>
    match l.find? fun p => s.inLog p.1 p.2.1 with
    | some p => .trap 7 p.1
    | none =>
      let ws := s.wordWrites l
      let c := s.core
      if c.inEntry && !c.e.sb.isEmpty then .stall
      else
        match (if c.inEntry then c.writeRoom (ws.map WordWrite.addr) else none) with
        | some t => .trap 27 t
        | none =>
          let part := ws.filter fun w => w.mask ≠ BitVec.allOnes 8
          match part.find? fun w => (s.hartWord w.addr).2 with
          | some w => .consume (s.each part fun s w => s.keepBad w.addr) (BitVec.ofNat 64 (localOf w.addr))
          | none => .ok (s.commitWrites ws) ()

/-! ### Atomic accesses at the core's port (R251, AMOs on scratchpad) -/

/-- The full bit of a word as the hart sees it. -/
def State.hartFull (s : State) (f : Nat) : Bool :=
  if s.core.inTxn then (s.txnWord f).2.1 else (s.mem.tag f).full

/-- Writes words and full bits at once for the hart, logged or buffered inside an entry (R180, R252). data none: only the
full bit changes. -/
def State.writeTagged (s : State) (f : Nat) (data : Option Word) (full : Bool) : Acc Unit :=
  let c := s.core
  if c.inEntry then
    match c.writeRoom [wordAt f] with
    | some t => .trap 27 t
    | none =>
      let s1 := s.each (c.unlogged [wordAt f]) fun s g => s.logMem g c.inTxn
      if c.inTxn then
        .ok (s1.mapCore fun c =>
          let old := FMap.get {} c.r.wset (wordAt f)
          let w : WsWord := match data with
            | some d => { data := d, mask := BitVec.allOnes 8, full := some full, poison := some false }
            | none => { old with full := some full }
          { c with r.wset := FMap.put {} c.r.wset (wordAt f) w }) ()
      else
        let s2 := match data with
          | some d => s1.mapMem fun m => m.writeWord f d
          | none => s1
        .ok (s2.putFull (some s.cur) f full) ()
  else
    let s2 := match data with
      | some d => s.mapMem fun m => m.writeWord f d
      | none => s
    .ok (s2.putFull (some s.cur) f full) ()

end Sys2Proof.Machine
end

