-- ==== Sys2Proof/Machine/Remote.lean ====
section
/-! DEFINITION. What engines, near-bank forms and writes that leave their die share: global addresses and the launch grid
(R197, R249), the dies' clocks with their release and acquire tests (R384 to R389), and the near-bank operations at a
port (R275 to R280). -/
namespace Sys2Proof.Machine

/-! ### Global addresses -/

/-- Whether a cluster lies in a job's launch grid: one of its slots lies inside the grid of a live launch; job 0 may
name every cluster (R249). -/
def State.inGrid (s : State) (job : BitVec 12) (cl : Nat) : Bool :=
  if job = 0 then true
  else match FMap.get none s.wafer.jobs job.toNat with
    | none => false
    | some j => j.live && (List.range 16).any fun i =>
        let t := clusterSlot cl i
        decide (j.x0 ≤ slotX t) && decide (slotX t < j.x0 + j.w) && decide (j.y0 ≤ slotY t) && decide (slotY t < j.y0 + j.h)

/-- What an address of an engine or near-bank form names: storage, DRAM of the job's space, or an error code of R248. -/
inductive Place where
  | at_ (f : Nat)
  | dram (va : Word)
  | bad (code : Nat)
  deriving DecidableEq, Repr

/-- The table Address spaces (R197) for a slot and job. -/
def State.resolve (s : State) (slot : Nat) (job : BitVec 12) (a : Word) : Place :=
  let n := a.toNat
  let top := n / 2 ^ 56
  if top = 0 then
    match localFlat slot a with
    | some f => .at_ f
    | none => .bad 0x11
  else if top = 1 then
    let cy := n / 2 ^ 32 % 256
    let cx := n / 2 ^ 24 % 256
    if n / 2 ^ 40 % 2 ^ 16 ≠ 0 ∨ 54 ≤ cy ∨ 48 ≤ cx then .bad 0x11
    else
      let cl := cy * 48 + cx
      if !s.inGrid job cl then .bad 0x12
      else if (s.clusterAt cl).dark then .bad 0x13
      else .at_ (cmFlat cl (n % 2 ^ 24))
  else if top = 2 then if n / 2 ^ 48 % 256 = 0 then .dram a else .bad 0x11
  else .bad 0x11

/-- An error token of a code (R248). -/
def errToken (code : Nat) : Word := 0x8000000000000000 ||| BitVec.ofNat 64 code

/-- Die of a flat address. -/
def flatDie (f : Nat) : Nat :=
  match homeOf f with
  | .sp slot _ => slotDie slot
  | .cm cl _ => clusterDie cl
  | .dram n _ => actorDie n

/-- Whether a form carries release, or acquire, at wafer scope. -/
def ordRel (o : Ord) : Bool := o.rl && o.scope == 3
def ordAcq (o : Ord) : Bool := o.aq && o.scope == 3

/-! ### Clocks (R384 to R389) -/

/-- Serial-number order of releases (R389). -/
def precedes (a b : BitVec 32) : Bool :=
  decide (1 ≤ (b - a).toNat) && decide ((b - a).toNat < 2 ^ 31)

/-- The largest contiguous number from a on, given further numbers; n bounds the steps. -/
def contiguous (a : BitVec 32) (more : List (BitVec 32)) (n : Nat) : BitVec 32 :=
  match n with
  | 0 => a
  | k + 1 => if more.contains (a + 1) then contiguous (a + 1) more k else a

def Clocks.above_ (k : Clocks) (d : Nat) : List (BitVec 32) := (k.above.filter fun p => p.1 = d).map Prod.snd

/-- Release number up to which a die knows die d's releases as applied, taking some numbers as exempt. -/
def Clocks.known (k : Clocks) (d : Nat) (exempt : List (BitVec 32)) : BitVec 32 :=
  let more := k.above_ d ++ exempt
  contiguous (FMap.get 0 k.a d) more more.length

/-- The test of R387, for a write or a combined write. -/
def Clocks.covers (k : Clocks) (t : Trailer) : Bool :=
  (List.range dieCount).all fun d =>
    !precedes (k.known d ((t.rels.filter fun p => p.1 = d).map Prod.snd)) (FMap.get 0 t.clock d)

/-- The element-wise maximum of two clocks. -/
def joinClock (a b : FMap (BitVec 32)) : FMap (BitVec 32) :=
  (List.range dieCount).foldl (fun m d =>
    if precedes (FMap.get 0 m d) (FMap.get 0 b d) then FMap.put 0 m d (FMap.get 0 b d) else m) a

def State.clocksAt (s : State) (d : Nat) : Clocks := (s.dieAt d).clk
def State.mapClocks (s : State) (d : Nat) (f : Clocks → Clocks) : State := s.mapDieAt d fun x => { x with clk := f x.clk }

/-- A release-class write of a die takes its release number and leaves with H (R385); none while the gap of R389 stalls the
die. -/
def State.takeReleaseDie (s : State) (d : Nat) : Option (State × Trailer) :=
  let k := s.clocksAt d
  let n := FMap.get 0 k.h d + 1
  if 2 ^ 30 ≤ (n - k.low).toNat then none
  else
    let h := FMap.put 0 k.h d n
    some (s.mapClocks d fun k => { k with h := h }, { clock := h, rels := [(d, n)] })

/-- A release-class write of a slot: also none while an earlier write of the hart is not acknowledged (R385). -/
def State.takeRelease (s : State) (slot : Nat) : Option (State × Trailer) :=
  if (s.coreAt slot).m.unacked ≠ 0 then none else s.takeReleaseDie (slotDie slot)

/-- Applying a release-class write at a die: H joins the trailer, and applied notices go to every die (R387). -/
def State.applyTrailer (s : State) (d : Nat) (t : Trailer) : State :=
  (s.mapClocks d fun k => { k with h := joinClock k.h t.clock }).each t.rels fun s r =>
    s.each (List.range dieCount) fun s e => s.due .appliedNotice { place := e, a := r.1, b := r.2.toNat }

/-- A write of a slot leaves the die, and is not yet acknowledged (R385). -/
def State.leaveDie (s : State) (slot : Nat) : State :=
  s.mapCoreAt slot fun c => { c with m.unacked := c.m.unacked + 1 }

/-- A release-class write waits at its destination die (R387). -/
def State.waitRelease (s : State) (d : Nat) (w : RelWrite) : State :=
  (s.mapClocks d fun k => { k with relq := k.relq ++ [w] }).dueAt .releaseWriteApply d

/-- An acquire-class access waits at its serving die (R388). -/
def State.waitAcquire (s : State) (d : Nat) (w : AcqRead) : State :=
  (s.mapClocks d fun k => { k with acqq := k.acqq ++ [w] }).dueAt .acquireServe d

/-! ### What a release covers (R112, R244, R269, R288, R385) -/

/-- Whether every write of a command has been applied, at replicas too (R387, R392). -/
def State.landed (s : State) (slot seq : Nat) : Bool :=
  (s.dies.all fun p => p.2.clk.relq.all fun w => match w.body with
    | .engine t n _ _ _ => t != slot || n != seq
    | _ => true) && s.wafer.replq.all fun w => w.owner != some (slot, seq)

def Phase.isFinished (p : Phase) : Bool :=
  match p with
  | .finished _ => true
  | _ => false

/-- Whether every engine command of a slot issued before number seq is done, or far enough as left says of its order and phase. The
copy of a cp.gomx is done once it has landed: its follow-on is a command of its own (R270). -/
def State.earlierAs (s : State) (slot seq : Nat) (left : Ord → Phase → Bool) : Bool :=
  let c := s.coreAt slot
  (c.e.mxq.all fun o => decide (seq ≤ o.seq))
    && (c.e.cpq.all fun o => decide (seq ≤ o.seq) || left o.ord o.phase
      || (decide (o.form = .gomx) && o.phase.isFinished && s.landed slot o.seq))
    && (c.e.drq.all fun o => decide (seq ≤ o.seq) || left o.ord o.phase)
    && (s.clusterAt (slotCluster slot)).layq.all fun o => o.slot != slot || decide (seq ≤ o.seq) || left o.ord o.phase

/-- Whether every engine command of a slot issued before number seq has completed. -/
def State.earlierDone (s : State) (slot seq : Nat) : Bool := s.earlierAs slot seq fun _ _ => false

/-- Whether each of those commands has completed, or has made all its writes as numbered releases, which the trailer of a later
release covers (R385). -/
def State.earlierLeft (s : State) (slot seq : Nat) : Bool := s.earlierAs slot seq fun o p => ordRel o && p.isFinished

/-- Whether every earlier store and posted form of a slot's hart is visible at a scope (R286): its store buffer is empty, and
its posted forms to other dies have been performed. -/
def Core.writesVisible (c : Core) : Bool := c.e.sb.isEmpty && c.m.nbOut == 0

/-- Whether every earlier write of a slot's hart is visible at a scope, so that an effect with release there may be applied
(R112, R288); leaves: the effect goes to another die, where at wafer scope its trailer covers the releases before it (R385). -/
def State.relReady (s : State) (slot : Nat) (scope : BitVec 2) (leaves : Bool) : Bool :=
  let c := s.coreAt slot
  if leaves && scope == 3 then c.e.sb.isEmpty && s.earlierLeft slot c.e.issued
  else c.writesVisible && s.earlierDone slot c.e.issued

/-- Whether an effect of the acting hart, for a slot, has to wait for what its release covers. -/
def State.relWaits (s : State) (rl : Option (BitVec 2)) (dst : Nat) : Bool :=
  match rl with
  | some sc => !s.relReady s.cur sc (slotDie dst != slotDie s.cur)
  | none => false

/-- Whether a near-bank or barrier form to another die is release-class and has to wait for engine commands before it. -/
def State.formWaits (s : State) (o : Ord) (leaves : Bool) : Bool :=
  ordRel o && leaves && !s.earlierLeft s.cur s.core.e.issued

/-- What waits for a core to come to rest looks again: a pre-emption (R321), a wave or hole change that holds its slot
(R370, R371). -/
def State.lookRest (s : State) (slot : Nat) : State :=
  let u := (s.coreAt slot).u
  let s1 := if u.preempt then s.dueAt .swapOut slot else s
  if u.whold then (s1.dueAt .barchanCopySlot (slotDie slot)).dueAt .removalRequest (slotDie slot) else s1

/-- What engine commands of a slot wait for may have happened: they look again. -/
def State.lookEngines (st : State) (slot : Nat) : State :=
  let s := st.lookRest slot
  let c := s.coreAt slot
  let s1 := match c.e.mxq with
    | [] => s
    | o :: _ => s.dueAt (if o.started then .mxOpComplete else .mxOpStart) slot
  let s2 := match c.e.cpq with
    | [] => s1
    | o :: _ => s1.dueAt (match o.phase with
        | .finished _ => .cpComplete
        | _ => .cpCommandRun) slot
  let s3 := s2.each c.e.drq.zipIdx fun s p => s.due (match p.1.phase with
        | .finished _ => .dramReqComplete
        | _ => .dramReqRun) { place := slot, a := p.1.seq }
  match (s.clusterAt (slotCluster slot)).layq with
  | [] => s3
  | o :: _ => s3.dueAt (match o.phase with
      | .finished _ => .layComplete
      | _ => .layPass) (slotCluster slot)

/-- What waited for an acknowledgement or a lower gap looks again: the slot's injections, its store buffer, its engine
commands. -/
def State.lookAgain (s : State) (slot : Nat) : State :=
  let c := s.coreAt slot
  let s1 := if c.m.sendq.isEmpty then s else s.dueAt .messageInject slot
  (if c.e.sb.isEmpty then s1 else s1.dueAt .storeBufferDrain slot).lookEngines slot

/-! ### Near-bank operations at a port (R277 to R280) -/

/-- The new value of a scalar form, none where it does not write (R277). w is 64 or 32. -/
def nbNew (form : NbForm) (w : Nat) (old b cmp : Nat) : Option Nat :=
  let f := if w = 64 then fp64 else fp32
  let so (v : Nat) : Int := (BitVec.ofNat w v).toInt
  match form with
  | .add => some ((old + b) % 2 ^ w)
  | .addf => some ((old + b) % 2 ^ w)
  | .fadd => some (f.add rne old b).1
  | .minmax sel =>
    if sel = 0 then some (if so b < so old then b else old)
    else if sel = 1 then some (if so old < so b then b else old)
    else if sel = 2 then some (min old b)
    else if sel = 3 then some (max old b)
    else some (f.minmax (sel == 5) old b).1
  | .logic sel => some (if sel = 0 then old &&& b else if sel = 1 then old ||| b else old ^^^ b)
  | .swap => some b
  | .cas => if old = cmp then some b else none
  | .vop _ => none

/-- A lane of nb.vop (R279). -/
def vopLane (sel w : Nat) (x y : Nat) : Nat :=
  let f := if w = 64 then fp64 else fp32
  if sel = 0 then (x + y) % 2 ^ w
  else if sel = 1 then (f.add rne x y).1
  else if sel = 2 then (f.minmax false x y).1
  else if sel = 3 then (f.minmax true x y).1
  else if sel = 4 then x &&& y
  else if sel = 5 then x ||| y
  else x ^^^ y

/-- A word of nb.vop, lane by lane. -/
def vopWord (sel : Nat) (dbl : Bool) (x y : Word) : Word :=
  if dbl then BitVec.ofNat 64 (vopLane sel 64 x.toNat y.toNat)
  else BitVec.ofNat 64 (vopLane sel 32 (x.toNat % 2 ^ 32) (y.toNat % 2 ^ 32)
    + 2 ^ 32 * vopLane sel 32 (x.toNat / 2 ^ 32) (y.toNat / 2 ^ 32))

def NbOp.width (op : NbOp) : Nat := if op.dbl then 64 else 32
/-- Bytes that an operation's target takes. -/
def NbOp.size (op : NbOp) : Nat :=
  match op.form with
  | .vop _ => 64
  | _ => op.width / 8
def NbOp.flat (op : NbOp) : Nat := cmFlat op.cluster op.off

/-- The words an operation acts on. -/
def NbOp.words (op : NbOp) : List Nat :=
  match op.form with
  | .vop _ => (List.range 8).map fun i => op.flat + 8 * i
  | _ => [wordAt op.flat]

/-- Sends a fetching form's reply back to its hart (R276). -/
def State.nbAnswer (s : State) (slot : Nat) (r : NbReply) : State :=
  (s.mapCoreAt slot fun c => { c with h.wait := c.h.wait.map fun w => { w with reply := some r } }).dueAt .nbReply slot

/-- The outcome on a bad or dark target (R280): the reply of a fetching form, or a kind-9 notice. -/
def State.nbRefuse (s : State) (cl slot : Nat) (fetch : Bool) (a : Word) (dark : Bool) : State :=
  if fetch then s.nbAnswer slot (if dark then .dark a else .bad a)
  else s.notice (clusterDie cl) { kind := 9, w1 := a, w2 := errToken (if dark then 0x13 else 0x10) }

/-- The sub-bank of a cluster-memory offset (R272); each has its own near-bank unit. -/
def bankOf (off : Nat) : Nat := off / 64 % 256

/-- Whether a near-bank unit holds a fired record that its target does not take yet (R210, R278). -/
def State.unitHeld (s : State) (cl bank : Nat) : Bool := (s.clusterAt cl).fired.any fun p => p.1 == bank

/-- A fire cell that reached zero copies its record to its target core, or its unit holds the record while the core does not take
it (R210); a target that is a hole drops it, with a notice whose code the spec leaves open (R278). -/
def State.addAndFire (s : State) (op : NbOp) : State :=
  let f := op.flat
  let slot := clusterSlot op.cluster ((s.mem.data (f + 8)).toNat % 16)
  let r := Rec.ofWords (s.mem.data (f + 0x20)) (s.mem.data (f + 0x28)) (s.mem.data (f + 0x30))
  let r1 : Rec := { r with
    join := 0, chn := false, wake := false, msg := false, act := false, job := if op.job = 0 then r.job else op.job }
  if FMap.get 1 (s.dieAt (slotDie slot)).rc.gens slot = 0 then
    { s with fresh := s.fresh + 1 }.notice (clusterDie op.cluster)
      { kind := 9, w1 := op.addr, w2 := Config.freeWord s.fresh }
  else
    let t := s.balance slot r1.job 1
    if t.admits slot r1 then t.enqueueAt slot r1
    else t.mapClusterAt op.cluster fun c => { c with fired := c.fired ++ [(bankOf op.off, slot, r1)] }

/-- Performs an operation at its port (R274, R277 to R280). An operation whose transfer through the crossbar fails twice acts as one
on a bad word (R290). -/
def State.nbPerform (s : State) (op : NbOp) : State :=
  if (s.clusterAt op.cluster).dark then s.nbRefuse op.cluster op.slot op.fetch op.addr true
  else
    let x := (s.each op.words State.checkWord).transfer [op.flat]
    let s1 := x.1
    if x.2 then s1.nbRefuse op.cluster op.slot op.fetch op.addr false
    else if op.words.any s1.mem.isBad then
      (s1.mapMem fun m => op.words.foldl (fun m f => if m.isBad f then m.setPoison f true else m) m).nbRefuse
        op.cluster op.slot op.fetch op.addr false
    else
      match op.form with
      | .vop sel =>
        s1.applyWrites (some op.slot) (op.words.zipIdx.map fun p =>
          { addr := p.1, mask := BitVec.allOnes 8, data := vopWord sel op.dbl (s1.mem.data p.1) (op.line.getD p.2 0) })
      | form =>
        let w := op.width
        let sh := 8 * (op.flat % 8)
        let old := (s1.mem.data op.flat).toNat / 2 ^ sh % 2 ^ w
        let b := op.b.toNat % 2 ^ w
        let s2 := match nbNew form w old b (op.cmp.toNat % 2 ^ w) with
          | some v =>
            let t := s1.applyWrites (some op.slot) (addWrite [] op.flat (w / 8) v)
            if form = .addf && v == 0 && b != 0 then t.addAndFire op else t
          | none => s1
        if op.fetch then s2.nbAnswer op.slot (.value ((BitVec.ofNat w old).signExtend 64)) else s2

/-- An operation arrives at its cluster's port. -/
def State.nbArrive (s : State) (op : NbOp) : State :=
  (s.mapClusterAt op.cluster fun c => { c with nbq := c.nbq ++ [op] }).dueAt .nbPortOp op.cluster

/-- Whether an operation leaves its die. -/
def NbOp.remote (op : NbOp) : Bool := slotDie op.slot != clusterDie op.cluster

/-- A posted form that left the die has been performed: the count of R286, and for a relaxed one the acknowledgement of
R385. -/
def State.nbDone (s : State) (slot : Nat) (ord : Ord) : State :=
  let s1 := s.mapCoreAt slot fun c => { c with m.nbOut := c.m.nbOut - 1 }
  let s2 := if (s1.coreAt slot).m.nbOut = 0 then s1.lookEngines slot else s1
  if ordRel ord then s2 else s2.dueAt .releaseAcknowledgement slot

/-- Performs an operation at its port, and for a posted one from another die acknowledges it. -/
def State.nbAtPort (s : State) (op : NbOp) : State :=
  let t := s.nbPerform op
  if op.remote && !op.fetch then t.nbDone op.slot op.ord else t

/-- Sends an operation to its port. A posted one of the own die is performed as it drains (R287), and keeps its place in the store
buffer while its unit is held (R210). Off the die, a release-class one takes its number first (R385), and an acquire-class one
carries H (R388). none: it has to wait. -/
def State.nbSend (s : State) (op : NbOp) (acquire : Bool) : Option State :=
  if !op.remote then
    if op.fetch then some (s.nbArrive op) else if s.unitHeld op.cluster (bankOf op.off) then none else some (s.nbPerform op)
  else
    let d := clusterDie op.cluster
    let out (t : State) : State :=
      if op.fetch then t else t.mapCoreAt op.slot fun c => { c with m.nbOut := c.m.nbOut + 1 }
    if ordRel op.ord then
      match s.takeRelease op.slot with
      | none => none
      | some (t, tr) => some ((out t).waitRelease d { trailer := tr, body := .nb op })
    else if op.fetch && acquire then
      some (s.waitAcquire d { clock := (s.clocksAt (slotDie op.slot)).h, body := .nb op })
    else some ((out (if op.fetch then s else s.leaveDie op.slot)).nbArrive op)

/-- What waits for a cluster's near-bank units looks again: their queued operations, store buffers whose oldest entry is one, and
release-class operations. -/
def State.lookUnits (s : State) (cl : Nat) : State :=
  let s1 := s.each (s.clusterAt cl).nbq fun s _ => s.dueAt .nbPortOp cl
  let s2 := s1.each (s1.cores.filter fun p => match p.2.e.sb with
      | .nb op :: _ => op.cluster == cl
      | _ => false) fun s p => s.dueAt .storeBufferDrain p.1
  if (s2.clocksAt (clusterDie cl)).relq.isEmpty then s2 else s2.dueAt .releaseWriteApply (clusterDie cl)

/-- A fired record that a unit holds leaves it, where its target takes it; a target that has become a hole drops it (R210, R278). -/
def State.unholdOne (s : State) (cl : Nat) (p : Nat × Nat × Rec) : State :=
  let slot := p.2.1
  let gone := FMap.get 1 (s.dieAt (slotDie slot)).rc.gens slot = 0
  if !gone && !s.admits slot p.2.2 then s
  else
    let t := (s.mapClusterAt cl fun c => { c with fired := c.fired.erase p }).lookUnits cl
    if gone then (t.balance slot p.2.2.job (-1)) else t.enqueueAt slot p.2.2

/-- The units of a cluster look at the records they hold for a core. -/
def State.unhold (s : State) (slot : Nat) : State :=
  let cl := slotCluster slot
  s.each ((s.clusterAt cl).fired.filter fun p => p.2.1 = slot) fun s p => s.unholdOne cl p

end Sys2Proof.Machine
end

