-- ==== Sys2Proof/Machine/Atomics.lean ====
section
/-! DEFINITION. AMOs, lr and sc (R96). -/
namespace Sys2Proof.Machine

/-- The near-bank operation that an AMO matches (R96). -/
inductive AmoKind where
  | swap
  | add
  | xor
  | and
  | or
  | min
  | max
  | minu
  | maxu
  deriving DecidableEq, Repr

def AmoKind.form (k : AmoKind) : NbForm :=
  match k with
  | .swap => .swap
  | .add => .add
  | .xor => .logic 2
  | .and => .logic 0
  | .or => .logic 1
  | .min => .minmax 0
  | .max => .minmax 1
  | .minu => .minmax 2
  | .maxu => .minmax 3

/-- Takes a hold-buffer entry for an effect of an instruction (R98): cause 27 where it is full. -/
def State.hold (s : State) (op : HeldOp) (rd : XReg) (k : State → State) : State :=
  let c := s.core
  if 64 ≤ c.r.hold.length then s.trap 27 1
  else k (s.mapCore fun c => { c with r.hold := c.r.hold ++ [{ op := op, depth := c.r.stack.length, rd := rd }] })

/-- A hart starts to wait for the reply of a fetching form (R276). -/
def State.awaitReply (s : State) (rd : XReg) : State :=
  s.mapHart fun h => { h with wait := some { rd := rd } }

/-- Issues a near-bank operation whose checks have passed (R276): a posted one enters the store buffer, or is held inside
an open entry; a fetching one waits for the store buffer and then for its reply. A handler's posted one dooms at its issue, as its
stores do; a fetching one dooms when it writes (R167). -/
def State.issueNb (s : State) (op : NbOp) (rd : XReg) : State :=
  let c := s.core
  if !c.inEntry && s.formWaits op.ord op.remote then s
  else if !op.fetch then
    if c.inEntry then s.hold (.nb op) 0 State.retire else ((s.handlerDooms op.words).post (.nb op)).retire
  else if !c.e.sb.isEmpty then s
  else
    let acq := ordAcq op.ord || (match c.h.task with
      | some t => t.acq
      | none => false)
    match s.nbSend op acq with
    | none => s
    | some t => t.awaitReply rd

/-- An AMO on scratchpad: atomic at the core's port, at once (R96). The word is logged inside an entry. A bad word is consumed
with the word's address as tval, also by a .w form on its upper half (DESIGN CHOICE, entry 126: R160 names the word, R280 the
operand address). -/
def State.amoLocal (s : State) (k : AmoKind) (dbl : Bool) (rd : XReg) (a : Word) (b : Word) : State :=
  let c := s.core
  let f := s.flat a
  let n := if dbl then 8 else 4
  if !c.e.sb.isEmpty then s
  else if s.inLog a n then s.trap 7 a
  else if c.inEntry && !c.logRoom (c.unlogged [wordAt f]).length then s.trap 27 2
  else
    let s1 := s.checkWord f
    if s1.mem.isBad f then (s1.mapMem fun m => m.setPoison f true).consume (a &&& ~~~7)
    else
      let w := 8 * n
      let old := (s1.mem.data f).toNat / 2 ^ (8 * (f % 8)) % 2 ^ w
      let new := (nbNew k.form w old (b.toNat % 2 ^ w) 0).getD old
      let ws := addWrite [] f n new
      let s2 := if c.inEntry then s1.each (c.unlogged [wordAt f]) fun s g => s.logMem g false else s1
      ((s2.applyWrites (some s.cur) ws).writeX rd ((BitVec.ofNat w old).signExtend 64)).retire

/-- An AMO (R96, R161): misuse inside a transaction, or fetching from cluster memory inside any entry (R184); then the
address checks of a store. -/
def amo (i : Instr) (k : AmoKind) (dbl aq rl : Bool) (rd rs1 rs2 : XReg) (s : State) : State :=
  s.guard i [rs1, rs2] [rd] fun s =>
    let a := s.x rs1
    let c := s.core
    let cl := decide (0x1000000 ≤ a.toNat) && decide (a.toNat < 0x2000000)
    if (c.inTxn && decide (a.toNat < spSize)) || (c.inEntry && cl && rd != 0) then s.misuse i
    else
      match checkAccess true a (if dbl then 8 else 4) with
      | some (code, tval) => s.trap code tval
      | none =>
        if cl then
          s.issueNb { form := k.form, dbl := dbl, cluster := slotCluster s.cur, off := a.toNat - 0x1000000, addr := a,
                      b := s.x rs2, slot := s.cur, job := c.jobOf, fetch := rd != 0, rd := rd,
                      ord := { aq := aq, rl := rl, scope := 3 } } rd
        else s.amoLocal k dbl rd a (s.x rs2)

def execAmoswapW (aq rl : Bool) (rd rs1 rs2 : XReg) (s : State) : Host.Outcome State Fault Refusal :=
  .next (amo (.amoswapW aq rl rd rs1 rs2) .swap false aq rl rd rs1 rs2 s)
def execAmoswapD (aq rl : Bool) (rd rs1 rs2 : XReg) (s : State) : Host.Outcome State Fault Refusal :=
  .next (amo (.amoswapD aq rl rd rs1 rs2) .swap true aq rl rd rs1 rs2 s)
def execAmoaddW (aq rl : Bool) (rd rs1 rs2 : XReg) (s : State) : Host.Outcome State Fault Refusal :=
  .next (amo (.amoaddW aq rl rd rs1 rs2) .add false aq rl rd rs1 rs2 s)
def execAmoaddD (aq rl : Bool) (rd rs1 rs2 : XReg) (s : State) : Host.Outcome State Fault Refusal :=
  .next (amo (.amoaddD aq rl rd rs1 rs2) .add true aq rl rd rs1 rs2 s)
def execAmoxorW (aq rl : Bool) (rd rs1 rs2 : XReg) (s : State) : Host.Outcome State Fault Refusal :=
  .next (amo (.amoxorW aq rl rd rs1 rs2) .xor false aq rl rd rs1 rs2 s)
def execAmoxorD (aq rl : Bool) (rd rs1 rs2 : XReg) (s : State) : Host.Outcome State Fault Refusal :=
  .next (amo (.amoxorD aq rl rd rs1 rs2) .xor true aq rl rd rs1 rs2 s)
def execAmoandW (aq rl : Bool) (rd rs1 rs2 : XReg) (s : State) : Host.Outcome State Fault Refusal :=
  .next (amo (.amoandW aq rl rd rs1 rs2) .and false aq rl rd rs1 rs2 s)
def execAmoandD (aq rl : Bool) (rd rs1 rs2 : XReg) (s : State) : Host.Outcome State Fault Refusal :=
  .next (amo (.amoandD aq rl rd rs1 rs2) .and true aq rl rd rs1 rs2 s)
def execAmoorW (aq rl : Bool) (rd rs1 rs2 : XReg) (s : State) : Host.Outcome State Fault Refusal :=
  .next (amo (.amoorW aq rl rd rs1 rs2) .or false aq rl rd rs1 rs2 s)
def execAmoorD (aq rl : Bool) (rd rs1 rs2 : XReg) (s : State) : Host.Outcome State Fault Refusal :=
  .next (amo (.amoorD aq rl rd rs1 rs2) .or true aq rl rd rs1 rs2 s)
def execAmominW (aq rl : Bool) (rd rs1 rs2 : XReg) (s : State) : Host.Outcome State Fault Refusal :=
  .next (amo (.amominW aq rl rd rs1 rs2) .min false aq rl rd rs1 rs2 s)
def execAmominD (aq rl : Bool) (rd rs1 rs2 : XReg) (s : State) : Host.Outcome State Fault Refusal :=
  .next (amo (.amominD aq rl rd rs1 rs2) .min true aq rl rd rs1 rs2 s)
def execAmomaxW (aq rl : Bool) (rd rs1 rs2 : XReg) (s : State) : Host.Outcome State Fault Refusal :=
  .next (amo (.amomaxW aq rl rd rs1 rs2) .max false aq rl rd rs1 rs2 s)
def execAmomaxD (aq rl : Bool) (rd rs1 rs2 : XReg) (s : State) : Host.Outcome State Fault Refusal :=
  .next (amo (.amomaxD aq rl rd rs1 rs2) .max true aq rl rd rs1 rs2 s)
def execAmominuW (aq rl : Bool) (rd rs1 rs2 : XReg) (s : State) : Host.Outcome State Fault Refusal :=
  .next (amo (.amominuW aq rl rd rs1 rs2) .minu false aq rl rd rs1 rs2 s)
def execAmominuD (aq rl : Bool) (rd rs1 rs2 : XReg) (s : State) : Host.Outcome State Fault Refusal :=
  .next (amo (.amominuD aq rl rd rs1 rs2) .minu true aq rl rd rs1 rs2 s)
def execAmomaxuW (aq rl : Bool) (rd rs1 rs2 : XReg) (s : State) : Host.Outcome State Fault Refusal :=
  .next (amo (.amomaxuW aq rl rd rs1 rs2) .maxu false aq rl rd rs1 rs2 s)
def execAmomaxuD (aq rl : Bool) (rd rs1 rs2 : XReg) (s : State) : Host.Outcome State Fault Refusal :=
  .next (amo (.amomaxuD aq rl rd rs1 rs2) .maxu true aq rl rd rs1 rs2 s)

/-- lr: misuse inside a transaction; waits for the store buffer; reads as a load and reserves the line (R96, R287). -/
def lr (i : Instr) (n : Nat) (rd rs1 : XReg) (s : State) : State :=
  s.guard i [rs1] [rd] fun s =>
    let a := s.x rs1
    if s.core.inTxn then s.misuse i
    else
      match checkAccess false a n with
      | some (code, tval) => s.trap code tval
      | none =>
        if !s.core.e.sb.isEmpty then s
        else s.load1 a n fun t v =>
          ((t.writeX rd ((BitVec.ofNat (8 * n) v).signExtend 64)).mapHart fun h =>
            { h with resv := some (lineAt (s.flat a)) }).retire

/-- Stores at once, past the empty store buffer, and logged inside an entry. -/
def State.storeNow (s : State) (a : Word) (n v : Nat) : Acc Unit :=
  let ws := s.wordWrites [(a, n, v)]
  let c := s.core
  match (if c.inEntry then c.writeRoom (ws.map WordWrite.addr) else none) with
  | some t => .trap 27 t
  | none =>
    if n ≠ 8 ∧ s.mem.isBad (s.flat a) then .consume (s.keepBad (s.flat a)) (a &&& ~~~7)
    else
      let s2 := if c.inEntry then s.each (c.unlogged (ws.map WordWrite.addr)) fun s f => s.logMem f false else s
      .ok (s2.writePiece ws) ()

/-- sc: stores where the reservation covers the line, and gives it up (R96). -/
def sc (i : Instr) (n : Nat) (rd rs1 rs2 : XReg) (s : State) : State :=
  s.guard i [rs1, rs2] [rd] fun s =>
    let a := s.x rs1
    if s.core.inTxn then s.misuse i
    else
      match checkAccess true a n with
      | some (code, tval) => s.trap code tval
      | none =>
        if s.inLog a n then s.trap 7 a
        else if !s.core.e.sb.isEmpty then s
        else
          let drop (t : State) : State := t.mapHart fun h => { h with resv := none }
          if s.core.h.resv = some (lineAt (s.flat a)) then
            (s.storeNow a n (s.x rs2).toNat).andThen s fun t _ => ((drop t).writeX rd 0).retire
          else ((drop s).writeX rd 1).retire

def execLrW (aq rl : Bool) (rd rs1 : XReg) (s : State) : Host.Outcome State Fault Refusal :=
  .next (lr (.lrW aq rl rd rs1) 4 rd rs1 s)

def execLrD (aq rl : Bool) (rd rs1 : XReg) (s : State) : Host.Outcome State Fault Refusal :=
  .next (lr (.lrD aq rl rd rs1) 8 rd rs1 s)

def execScW (aq rl : Bool) (rd rs1 rs2 : XReg) (s : State) : Host.Outcome State Fault Refusal :=
  .next (sc (.scW aq rl rd rs1 rs2) 4 rd rs1 rs2 s)

def execScD (aq rl : Bool) (rd rs1 rs2 : XReg) (s : State) : Host.Outcome State Fault Refusal :=
  .next (sc (.scD aq rl rd rs1 rs2) 8 rd rs1 rs2 s)

end Sys2Proof.Machine
end

