-- ==== Sys2Proof/Machine/Csr.lean ====
section
/-! DEFINITION. Control and status registers: what each reads, what a write stores, who may access it (R20 to R33, R159,
R162 to R164), and the Zicsr forms. -/
namespace Sys2Proof.Machine

/-! ### Views -/

/-- Writable bits of mstatus and of sstatus. -/
def mstatusMask : Word := 0x7019AA
def sstatusMask : Word := 0x122

/-- Whether the die's controller signals SEI at a slot: it is the supervisor core and a notice slot is full (R343). -/
def State.seip (s : State) (slot : Nat) : Bool :=
  match (s.dieAt (slotDie slot)).rc.box with
  | none => false
  | some b => b.core == slot && (List.range 64).any fun i => (s.mem.tag (noticeSlotFlat b i)).full

/-- mip: SSIP, STIP and SEIP; the others are never pending (R162 to R164). -/
def State.mip (s : State) (slot : Nat) : Word :=
  let c := s.coreAt slot
  (if c.c.ssip then 2 else 0) ||| (if c.c.stimecmp.toNat ≤ c.n.time.toNat then 0x20 else 0)
    ||| (if s.seip slot then 0x200 else 0)

/-- gvcore of a slot (R31, R32). -/
def gvcoreOf (slot : Nat) : Word :=
  BitVec.ofNat 64 (slotX slot + 2 ^ 8 * slotY slot + 2 ^ 16 * (slotX slot / 4) + 2 ^ 24 * (slotY slot / 4)
    + 2 ^ 32 * slotIdx slot)

/-- gvrgn: limit, depth and hold (R29). -/
def Core.gvrgn (c : Core) : Word :=
  BitVec.ofNat 64 (c.g.limit.toNat + 2 ^ 16 * c.r.stack.length + 2 ^ 20 * c.r.hold.length)

def Core.gvspeed (c : Core) : Word := BitVec.ofNat 64 (c.g.cls.toNat + 2 ^ 8 * c.g.clk.toNat)

/-- The value of a CSR, none where the address names no CSR. -/
def State.csrValue (s : State) (slot : Nat) (a : Nat) : Option Word :=
  let c := s.coreAt slot
  let g := c.g
  if a = 0x800 then some (g.fmta.setWidth 64)
  else if a = 0x801 then some (g.fmtb.setWidth 64)
  else if a = 0x802 then some (g.fmtc.setWidth 64)
  else if a = 0x803 then some g.scla
  else if a = 0x804 then some g.sclb
  else if a = 0x805 then some (if g.top then 1 else 0)
  else if a = 0x806 then some (g.fflags.setWidth 64)
  else if a = 0x807 then some (g.frm.setWidth 64)
  else if a = 0x808 then some c.gvrgn
  else if a = 0x809 then some (g.undo.setWidth 64)
  else if a = 0x80A then some (g.undol.setWidth 64)
  else if a = 0x80B then some (g.codes.setWidth 64)
  else if a = 0xCC0 then some g.wid
  else if a = 0xCC1 then some (gvcoreOf slot)
  else if a = 0xCC2 then some c.gvspeed
  else if a = 0x5C0 then some (g.bud.setWidth 64)
  else if a = 0x5C1 then some g.spill
  else if a = 0x5C2 then some g.fpool
  else if a = 0xC00 ∨ a = 0xB00 then some c.n.cycle
  else if a = 0xC01 then some c.n.time
  else if a = 0xC02 ∨ a = 0xB02 then some c.n.instret
  else if a = 0x100 then some ((c.c.mstatus &&& sstatusMask) ||| 0x200000000)
  else if a = 0x104 then some (c.c.mie &&& c.c.mideleg)
  else if a = 0x105 then some c.c.stvec
  else if a = 0x106 then some (c.c.scounteren.setWidth 64)
  else if a = 0x10A then some (if c.c.sfiom then 1 else 0)
  else if a = 0x140 then some c.t.sscratch
  else if a = 0x141 then some c.t.sepc
  else if a = 0x142 then some c.t.scause
  else if a = 0x143 then some c.t.stval
  else if a = 0x144 then some (s.mip slot &&& c.c.mideleg)
  else if a = 0x14D then some c.c.stimecmp
  else if a = 0x180 then some 0
  else if a = 0x300 then some (c.c.mstatus ||| 0xA00000000)
  else if a = 0x301 then some 0x8000000000141101
  else if a = 0x302 then some c.c.medeleg
  else if a = 0x303 then some c.c.mideleg
  else if a = 0x304 then some c.c.mie
  else if a = 0x305 then some c.c.mtvec
  else if a = 0x306 then some (c.c.mcounteren.setWidth 64)
  else if a = 0x30A then some (0x8000000000000000 ||| (if c.c.mfiom then 1 else 0))
  else if a = 0x320 then some (c.c.mcountinhibit.setWidth 64)
  else if a = 0x340 then some c.t.mscratch
  else if a = 0x341 then some c.t.mepc
  else if a = 0x342 then some c.t.mcause
  else if a = 0x343 then some c.t.mtval
  else if a = 0x344 then some (s.mip slot)
  else if 0x323 ≤ a ∧ a ≤ 0x33F then some 0
  else if (0xB03 ≤ a ∧ a ≤ 0xB1F) ∨ (0xC03 ≤ a ∧ a ≤ 0xC1F) then some 0
  else if 0xF11 ≤ a ∧ a ≤ 0xF13 ∨ a = 0xF15 then some 0
  else if a = 0xF14 then some (BitVec.ofNat 64 slot)
  else none

/-! ### Access rules -/

/-- Whether a mode may access a CSR (R21, R162 and published): the address's privilege, the read-only range, the counter
enables, and satp under mstatus.TVM. -/
def Core.csrAllowed (c : Core) (a : Nat) (write : Bool) : Bool :=
  let m := c.h.mode.rank
  decide (a / 256 % 4 ≤ m) && !(write && decide (a / 1024 = 3))
    && !(decide (0xC00 ≤ a) && decide (a ≤ 0xC1F) && decide (m < 3)
      && (!(decide (a ≤ 0xC02) && c.c.mcounteren.getLsbD (a % 32))
        || (decide (m = 0) && !c.c.scounteren.getLsbD (a % 32))))
    && !(decide (a = 0x180) && decide (m = 1) && hasBits c.c.mstatus 0x100000)

/-- CSRs whose write waits until no queued matrix operation is unstarted (R30, R228). -/
def csrWaitsMx (a : Nat) : Bool := decide (0x800 ≤ a) && decide (a ≤ 0x805) || decide (a = 0x80B)

/-- Whether a write waits now. -/
def Core.csrStalls (c : Core) (a : Nat) : Bool := csrWaitsMx a && c.e.mxq.any fun o => !o.started

/-- Whether a write is misuse: gvundo or gvundol while a region is open, of either kind, as R97 uses the word (R29; DESIGN CHOICE, entry
139: R9 calls those of rcv.begin alone regions). -/
def Core.csrMisuse (c : Core) (a : Nat) : Bool := (a == 0x809 || a == 0x80A) && !c.r.stack.isEmpty

/-! ### Writes -/

/-- A format code field keeps its value for codes that name no format (R22). -/
def fmtField (old : BitVec 4) (v : Word) : BitVec 4 := if v.toNat % 16 ≤ 6 then v.setWidth 4 else old

/-- gvscla and gvsclb (R25). -/
def sclField (v : Word) : Word :=
  let addr := if v.getLsbD 24 then v &&& 0x1FFFFE0 else v &&& 0xFFFE0
  (v &&& 0x8000000000000000) ||| addr

/-- mtvec and stvec keep the old mode for modes 2 and 3 (R159). -/
def tvecField (old v : Word) : Word := (v &&& ~~~3) ||| (if v.getLsbD 1 then old &&& 3 else v &&& 3)

/-- mstatus keeps the old MPP for the code that names no mode (published). -/
def mstatusField (old v : Word) : Word :=
  let w := (old &&& ~~~mstatusMask) ||| (v &&& mstatusMask)
  if w &&& mMPP = 0x1000 then (w &&& ~~~mMPP) ||| (old &&& mMPP) else w

/-- What a CSR stores of a written value. Fields that are read-only keep their value. -/
def Core.csrPut (c : Core) (a : Nat) (v : Word) : Core :=
  if a = 0x800 then { c with g.fmta := fmtField c.g.fmta v }
  else if a = 0x801 then { c with g.fmtb := fmtField c.g.fmtb v }
  else if a = 0x802 then { c with g.fmtc := fmtField c.g.fmtc v }
  else if a = 0x803 then { c with g.scla := sclField v }
  else if a = 0x804 then { c with g.sclb := sclField v }
  else if a = 0x805 then { c with g.top := v.getLsbD 0 }
  else if a = 0x806 then { c with g.fflags := v.setWidth 6 }
  else if a = 0x807 then { c with g.frm := if v.toNat % 8 ≤ 4 then v.setWidth 3 else c.g.frm }
  else if a = 0x808 then { c with g.limit := v.setWidth 4 }
  else if a = 0x809 then { c with g.undo := v.setWidth 20 &&& 0xFFFC0, r.logTop := (v.setWidth 20 &&& 0xFFFC0).toNat }
  else if a = 0x80A then { c with g.undol := v.setWidth 20 &&& 0xFFFC0 }
  else if a = 0x80B then { c with g.codes := v.setWidth 20 &&& 0xFFF80 }
  else if a = 0x5C0 then { c with g.bud := if v.toNat % 2 ^ 32 < 0x1000 then 0x1000 else v.setWidth 32 }
  else if a = 0x5C1 then { c with g.spill := v &&& 0x000FFFE0000FFFE0 }
  else if a = 0x5C2 then { c with g.fpool := v &&& 0x00FFFFFF000FFFC0 }
  else if a = 0xB00 then { c with n.cycle := v }
  else if a = 0xB02 then { c with n.instret := v }
  else if a = 0x100 then { c with c.mstatus := (c.c.mstatus &&& ~~~sstatusMask) ||| (v &&& sstatusMask) }
  else if a = 0x104 then { c with c.mie := (c.c.mie &&& ~~~c.c.mideleg) ||| (v &&& c.c.mideleg) }
  else if a = 0x105 then { c with c.stvec := tvecField c.c.stvec v }
  else if a = 0x106 then { c with c.scounteren := v.setWidth 3 }
  else if a = 0x10A then { c with c.sfiom := v.getLsbD 0 }
  else if a = 0x140 then { c with t.sscratch := v }
  else if a = 0x141 then { c with t.sepc := v &&& ~~~3 }
  else if a = 0x142 then { c with t.scause := v }
  else if a = 0x143 then { c with t.stval := v }
  else if a = 0x144 then if hasBits c.c.mideleg 2 then { c with c.ssip := v.getLsbD 1 } else c
  else if a = 0x14D then { c with c.stimecmp := v }
  else if a = 0x300 then { c with c.mstatus := mstatusField c.c.mstatus v }
  else if a = 0x302 then { c with c.medeleg := v &&& 0x00030000FF0003FF }
  else if a = 0x303 then { c with c.mideleg := v &&& 0x222 }
  else if a = 0x304 then { c with c.mie := v &&& 0x222 }
  else if a = 0x305 then { c with c.mtvec := tvecField c.c.mtvec v }
  else if a = 0x306 then { c with c.mcounteren := v.setWidth 3 }
  else if a = 0x30A then { c with c.mfiom := v.getLsbD 0 }
  else if a = 0x320 then { c with c.mcountinhibit := v.setWidth 3 &&& 5 }
  else if a = 0x340 then { c with t.mscratch := v }
  else if a = 0x341 then { c with t.mepc := v &&& ~~~3 }
  else if a = 0x342 then { c with t.mcause := v }
  else if a = 0x343 then { c with t.mtval := v }
  else if a = 0x344 then { c with c.ssip := v.getLsbD 1 }
  else c

/-- Whether a write sets the area of the spill rings or the frame pool anew while it holds records or frames (R33). -/
def Core.areaInUse (c : Core) (a : Nat) : Bool :=
  (a == 0x5C1 && c.q.ring.any fun p => !p.2.seqs.isEmpty) || (a == 0x5C2 && !c.m.frames.isEmpty)

/-- What becomes undefined of such an area (R33, entry 12): the rings' records, or which frames are in use, are free values. -/
def State.areaLost (s : State) (slot a : Nat) : State :=
  if a = 0x5C1 then s.mapCoreAt slot fun c =>
    { c with q.ring := c.q.ring.map fun p => (p.1, { p.2 with lost := !p.2.seqs.isEmpty }) }
  else
    { (s.mapCoreAt slot fun c =>
        { c with m.frames := (List.range 255).filter fun i => (Config.freeWord (s.fresh + i / 64)).getLsbD (i % 64) }) with
      fresh := s.fresh + 4 }

/-- A write of a CSR: a new time compare lets the timer match be seen (R164). -/
def State.csrStore (s : State) (slot a : Nat) (v : Word) : State :=
  let t := s.mapCoreAt slot fun c => c.csrPut a v
  if a = 0x14D then t.dueAt .stimerMatch slot
  else if (s.coreAt slot).areaInUse a then t.areaLost slot a
  else t

/-! ### The forms -/

/-- A CSR form (published): reads the old value, writes a new one unless new is none, and puts the old value into rd. An
access that the rules do not allow is an illegal instruction; a write takes effect after the instruction has otherwise
completed. -/
def csrForm (i : Instr) (srcs : List XReg) (rd : XReg) (csr : BitVec 12) (new : State → Word → Option Word) (s : State) :
    State :=
  let a := csr.toNat
  match s.csrValue s.cur a with
  | none => s.illegal i
  | some old =>
    if !s.core.csrAllowed a (new s old).isSome then s.illegal i
    else
      s.guard i srcs [rd] fun s =>
        match new s old with
        | none => (s.writeX rd old).retire
        | some v =>
          if s.core.csrMisuse a then s.misuse i
          else if s.core.csrStalls a then s
          else ((s.retire).csrStore s.cur a v).writeX rd old

def execCsrrw (rd : XReg) (csr : BitVec 12) (rs1 : XReg) (s : State) : Host.Outcome State Fault Refusal :=
  .next (csrForm (.csrrw rd csr rs1) [rs1] rd csr (fun s _ => some (s.x rs1)) s)
def execCsrrs (rd : XReg) (csr : BitVec 12) (rs1 : XReg) (s : State) : Host.Outcome State Fault Refusal :=
  .next (csrForm (.csrrs rd csr rs1) [rs1] rd csr (fun s o => if rs1 = 0 then none else some (o ||| s.x rs1)) s)
def execCsrrc (rd : XReg) (csr : BitVec 12) (rs1 : XReg) (s : State) : Host.Outcome State Fault Refusal :=
  .next (csrForm (.csrrc rd csr rs1) [rs1] rd csr (fun s o => if rs1 = 0 then none else some (o &&& ~~~s.x rs1)) s)
def execCsrrwi (rd : XReg) (csr : BitVec 12) (zimm : BitVec 5) (s : State) : Host.Outcome State Fault Refusal :=
  .next (csrForm (.csrrwi rd csr zimm) [] rd csr (fun _ _ => some (zimm.setWidth 64)) s)
def execCsrrsi (rd : XReg) (csr : BitVec 12) (zimm : BitVec 5) (s : State) : Host.Outcome State Fault Refusal :=
  .next (csrForm (.csrrsi rd csr zimm) [] rd csr (fun _ o => if zimm = 0 then none else some (o ||| zimm.setWidth 64)) s)
def execCsrrci (rd : XReg) (csr : BitVec 12) (zimm : BitVec 5) (s : State) : Host.Outcome State Fault Refusal :=
  .next (csrForm (.csrrci rd csr zimm) [] rd csr (fun _ o => if zimm = 0 then none else some (o &&& ~~~zimm.setWidth 64)) s)

/-! ### Events that write a CSR -/

/-- A place of the wafer, or the fault noSuchPlace. -/
def atSlot (s : State) (k : State → State) : Host.Outcome State Fault Refusal :=
  if s.arg.place < slotCount then .next (k s) else .fault .noSuchPlace
def atCluster (s : State) (k : State → State) : Host.Outcome State Fault Refusal :=
  if s.arg.place < clusterCount then .next (k s) else .fault .noSuchPlace
def atDie (s : State) (k : State → State) : Host.Outcome State Fault Refusal :=
  if s.arg.place < dieCount then .next (k s) else .fault .noSuchPlace
def atActor (s : State) (k : State → State) : Host.Outcome State Fault Refusal :=
  if s.arg.place < actorCount then .next (k s) else .fault .noSuchPlace

/-- Arguments: place a slot, a the CSR's address, word the value. The write of a CSR of a group as its hart makes it. -/
def csrEvent (group : Nat → Bool) (s : State) : Host.Outcome State Fault Refusal :=
  atSlot s fun s =>
    let c := s.coreAt s.arg.place
    if !group s.arg.a || (s.csrValue s.arg.place s.arg.a).isNone || c.csrStalls s.arg.a then s
    else s.csrStore s.arg.place s.arg.a s.arg.word

/-- CSRs whose writes have an event of their own. -/
def csrSpecial (a : Nat) : Bool :=
  [0x800, 0x801, 0x802, 0x80B, 0x807, 0x809, 0x80A, 0x5C0, 0x305, 0x105].contains a

/-- CSR_WRITE (R21): a CSR that has no behaviour of its own stores the written fields. -/
def execCsrWrite (s : State) : Host.Outcome State Fault Refusal := csrEvent (fun a => !csrSpecial a) s
/-- GVFMT_WRITE (R22). -/
def execGvfmtWrite (s : State) : Host.Outcome State Fault Refusal :=
  csrEvent (fun a => a == 0x800 || a == 0x801 || a == 0x802) s
/-- GVCODES_WRITE (R30). -/
def execGvcodesWrite (s : State) : Host.Outcome State Fault Refusal := csrEvent (fun a => a == 0x80B) s
/-- GVFRM_WRITE (R28). -/
def execGvfrmWrite (s : State) : Host.Outcome State Fault Refusal := csrEvent (fun a => a == 0x807) s
/-- GVBUD_WRITE (R33). -/
def execGvbudWrite (s : State) : Host.Outcome State Fault Refusal := csrEvent (fun a => a == 0x5C0) s
/-- XTVEC_WRITE (R159). -/
def execXtvecWrite (s : State) : Host.Outcome State Fault Refusal := csrEvent (fun a => a == 0x305 || a == 0x105) s
/-- GVUNDO_WRITE (R29): cause 49 while a region is open; word2 holds the instruction's bits. -/
def execGvundoWrite (s : State) : Host.Outcome State Fault Refusal :=
  atSlot s fun s =>
    if s.arg.a != 0x809 && s.arg.a != 0x80A then s
    else if (s.coreAt s.arg.place).csrMisuse s.arg.a then s.asCore s.arg.place fun t => t.trap 49 s.arg.word2
    else s.csrStore s.arg.place s.arg.a s.arg.word

end Sys2Proof.Machine
end

