-- ==== Sys2Proof/Machine/Slots.lean ====
section
/-! DEFINITION. The logical core map and removal requests (R366 to R368), and capabilities: their checks (R115 to R121) and
the send queues that accept what uses them (R108, R119). -/
namespace Sys2Proof.Machine

/-! ### Row map words (R366, R367) -/

def State.rowWord (s : State) (d row : Nat) : Word := FMap.get 0x18 (s.dieAt d).rc.rows row
def State.setRowWord (s : State) (d row : Nat) (w : Word) : State :=
  s.mapDieAt d fun x => { x with rc.rows := FMap.put 0x18 x.rc.rows row w }

/-- Shift point of a row map word. -/
def rowShift (w : Word) : Nat := w.toNat % 32
def rowDead (w : Word) (p : Nat) : Bool := w.getLsbD (9 + p)
def rowHole (w : Word) (j : Nat) : Bool := w.getLsbD (34 + j)
/-- Physical column of a local slot under a row map word (R367). -/
def rowColumn (w : Word) (j : Nat) : Nat := if j < rowShift w then j else j + 1

/-- The local slot that stands at a physical column, holes aside. -/
def rowSlotAt (w : Word) (p : Nat) : Option Nat :=
  (List.range 24).find? fun j => rowColumn w j == p && !rowHole w j

/-- Whether a wave or a hole change holds a slot's row (R366). -/
def State.rowHeld (s : State) (slot : Nat) : Bool := (s.rowWord (slotDie slot) (slotRow slot)).getLsbD 63

/-- Physical column of a slot; none for a hole. -/
def State.columnOf (s : State) (slot : Nat) : Option Nat :=
  let w := s.rowWord (slotDie slot) (slotRow slot)
  if rowHole w (slotCol slot) then none else some (rowColumn w (slotCol slot))

/-- Whether a slot is a hole (R367). -/
def State.isHole (s : State) (slot : Nat) : Bool := rowHole (s.rowWord (slotDie slot) (slotRow slot)) (slotCol slot)

/-! ### Routers: py × 200 + px of P(px, py) -/

def routerCount : Nat := 43200

/-- The router of a slot, and of a hole the one that its place in the row gives. -/
def State.routerOf (s : State) (slot : Nat) : Nat :=
  slotY slot * 200 + slotX slot / 24 * 25 + rowColumn (s.rowWord (slotDie slot) (slotRow slot)) (slotCol slot)

/-- The slot that stands at a router (R367). -/
def State.slotAtRouter (s : State) (r : Nat) : Option Nat :=
  let d := r / 200 / 24 * 8 + r % 200 / 25
  let row := r / 200 % 24
  (rowSlotAt (s.rowWord d row) (r % 200 % 25)).map fun j => dieSlot d row j

def Core.sendq (c : Core) (vn : BitVec 2) : List Send := FMap.get [] c.m.sendq vn.toNat

/-- Whether the head of one of a core's send queues is for a slot. -/
def Core.headsFor (c : Core) (slot : Nat) : Bool := c.m.sendq.any fun p => (p.2.head?.map Send.dst) == some slot

/-- What waits for a slot's input or at its router looks again: packets, combinations, release-class writes to the die, and heads of
send queues. -/
def State.lookRouter (s : State) (slot : Nat) : State :=
  let r := s.routerOf slot
  let t := s.each (s.wafer.net.filter fun p => p.at_ = r ∧ p.held) fun s p => s.due .combine { place := r, a := p.route }
  ((t.dueAt .routerLookup r).dueAt .releaseWriteApply (slotDie slot)).each (s.cores.filter fun p => p.2.headsFor slot) fun s p =>
    s.dueAt .messageInject p.1

/-- A slot's entry in the generation vector: 1 at reset, 0 for a hole (R116, R375). -/
def State.genOf (s : State) (slot : Nat) : BitVec 20 := FMap.get 1 (s.dieAt (slotDie slot)).rc.gens slot

/-- A removal request reaches its region controller (R368). -/
def State.askRemoval (s : State) (slot : Nat) (col : Nat) (hole : Bool) (cause : Nat) : State :=
  let d := slotDie slot
  (s.mapDieAt d fun x =>
    { x with rc.requests := x.rc.requests ++ [{ row := slotRow slot, col := col, hole := hole, cause := cause }] }).dueAt
    .removalRequest d

/-! ### Capabilities (R115 to R121) -/

/-- Fields of word 0 (R115). -/
def capX (w : Word) : Nat := w.toNat % 256
def capY (w : Word) : Nat := w.toNat / 256 % 256
def capJob (w : Word) : BitVec 12 := w.extractLsb' 32 12
def capGen (w : Word) : BitVec 20 := w.extractLsb' 44 20
def capRights (w : Word) : BitVec 4 := w.extractLsb' 16 4

/-- The slot that a word 0 names, if the grid has it. -/
def capSlot (w : Word) : Option Nat := if capX w ≤ 191 ∧ capY w ≤ 215 then some (slotOf (capX w) (capY w)) else none

def State.sealOf (s : State) (w : Word) : Word := Config.seal s.module_.sealKey w

/-- The first failing condition of R121 for a task's job: 1 seal, 2 generation, 3 job, 4 a right; 0 none. -/
def State.capFault (s : State) (job : BitVec 12) (w0 w1 : Word) (needs : BitVec 4) : Nat :=
  if w1 ≠ s.sealOf w0 then 1
  else if (match capSlot w0 with
    | some t => capGen w0 != s.genOf t || s.genOf t == 0
    | none => true) then 2
  else if capJob w0 ≠ job ∧ job ≠ 0 then 3
  else if needs &&& ~~~capRights w0 ≠ 0 then 4
  else 0

/-- Rights of the forms: bit 0 send, 1 wake, 2 halt, 3 inspect. -/
def rightSend : BitVec 4 := 1
def rightWake : BitVec 4 := 2
def rightHalt : BitVec 4 := 4
def rightInspect : BitVec 4 := 8

/-- The checks of R99 on an operand object: cause 4 on alignment, 5 outside the local windows. -/
def objectFault (a : Word) (n : Nat) : Option (Nat × Word) :=
  if a.toNat % n ≠ 0 then some (4, a) else if !inWindow a n then some (5, a) else none

/-- An operand object's words as the hart's loads would see them, with whether reading each consumes an error; nothing is
read yet. -/
def State.peek (s : State) (a : Word) (n : Nat) : List (Word × Bool) :=
  (List.range n).map fun i => s.hartWord (s.flat (a + BitVec.ofNat 64 (8 * i)))

/-- Word i of a peeked object, and whether it is good. -/
def peekWord (l : List (Word × Bool)) (i : Nat) : Word := (l.getD i (0, false)).1
def peekGood (l : List (Word × Bool)) (i : Nat) : Bool := !(l.getD i (0, false)).2

/-- Whether a load of an object waits for a posted form (R287). -/
def State.objectWaits (s : State) (a : Word) (n : Nat) : Bool :=
  (List.range n).any fun i => s.core.postedOn (wordAt (s.flat (a + BitVec.ofNat 64 (8 * i))))

/-- Reads an operand object of words as hart loads. -/
def State.loadWords (s : State) (a : Word) (n : Nat) : Acc (List Word) :=
  match s.readChecked ((List.range n).map fun i => (a + BitVec.ofNat 64 (8 * i), 8)) with
  | .ok t l => .ok t (l.map (BitVec.ofNat 64))
  | .trap c v => .trap c v
  | .consume t v => .consume t v
  | .stall => .stall

/-! ### Send queues (R108, R119) -/

/-- A send queue accepts an entry; its injection becomes due. -/
def State.queueSend (s : State) (slot : Nat) (vn : BitVec 2) (m : Send) : State :=
  (s.mapCoreAt slot fun c => { c with m.sendq := FMap.put [] c.m.sendq vn.toNat (c.sendq vn ++ [m]) }).dueAt
    .messageInject slot

/-- Whether a send queue holds 16 entries. -/
def Core.sendFull (c : Core) (vn : BitVec 2) : Bool := decide (16 ≤ (c.sendq vn).length)

/-! ### cap.mint, cap.narrow, cap.check -/

/-- Writes a capability as the hart's stores. -/
def State.storeCap (s : State) (a w0 : Word) (rd : XReg) (old : State) : State :=
  (s.hartStore [(a, 8, w0.toNat), (a + 8, 8, (s.sealOf w0).toNat)]).andThen old fun t _ => (t.writeX rd w0).retire

/-- cap.mint (R118), an S form. -/
def execCapMint (rd rs1 rs2 : XReg) (s : State) : Host.Outcome State Fault Refusal :=
  let i : Instr := .capMint rd rs1 rs2
  .next (if s.core.h.mode = .u then s.illegal i else s.guard i [rs1, rs2] [rd] fun s =>
    let a := s.x rs2
    match objectFault a 16 with
    | some (c, v) => s.trap c v
    | none =>
      let w := s.x rs1 &&& 0x00000FFF000FFFFF
      match capSlot w with
      | none => (s.writeX rd 0).retire
      | some t =>
        if s.genOf t = 0 then (s.writeX rd 0).retire
        else s.storeCap a (w ||| ((s.genOf t).setWidth 64 <<< 44)) rd s)

/-- Reads the capability at rs1 and goes on with its words. -/
def State.withCap (s : State) (a : Word) (k : State → Word → Word → State) : State :=
  match objectFault a 16 with
  | some (c, v) => s.trap c v
  | none => (s.loadWords a 2).andThen s fun t l => k t (l.getD 0 0) (l.getD 1 0)

/-- cap.narrow (R120). -/
def execCapNarrow (rd rs1 rs2 : XReg) (s : State) : Host.Outcome State Fault Refusal :=
  .next (s.guard (.capNarrow rd rs1 rs2) [rs1, rs2] [rd] fun s =>
    s.withCap (s.x rs1) fun t w0 w1 =>
      if t.capFault t.core.jobOf w0 w1 0 ≠ 0 then (t.writeX rd 0).retire
      else t.storeCap (s.x rs1) (w0 &&& (0xFFFFFFFFFFF0FFFF ||| ((s.x rs2 &&& 15) <<< 16))) rd s)

/-- cap.check (R121). -/
def execCapCheck (rd rs1 rs2 : XReg) (s : State) : Host.Outcome State Fault Refusal :=
  .next (s.guard (.capCheck rd rs1 rs2) [rs1, rs2] [rd] fun s =>
    s.withCap (s.x rs1) fun t w0 w1 =>
      (t.writeX rd (BitVec.ofNat 64 (t.capFault t.core.jobOf w0 w1 ((s.x rs2).setWidth 4)))).retire)

end Sys2Proof.Machine
end

