-- ==== Sys2Proof/Machine/Task.lean ====
section
/-! DEFINITION. The core scheduler and the task forms: picking, starting and ending tasks, frames, spilled records
(R18, R35 to R39, R100 to R106, R168, R206 to R212, R257). -/
namespace Sys2Proof.Machine

/-! ### Frames and reply routes (R114, R212) -/

/-- Frame size of the pool (R33). -/
def frameSize (g : Gv) : Nat := if g.fpool.toNat / 2 ^ 32 % 256 = 0 then 16384 else g.fpool.toNat / 2 ^ 32 % 256 * 64
def frameCount (g : Gv) : Nat := g.fpool.toNat / 2 ^ 40 % 256
/-- Frames reserved for replies, at most count. -/
def frameReply (g : Gv) : Nat := min (g.fpool.toNat / 2 ^ 48 % 256) (frameCount g)
def frameBase (g : Gv) (i : Nat) : Nat := g.fpool.toNat % 2 ^ 20 + i * frameSize g

/-- The lowest free frame of a group whose end lies in the scratchpad (R212). -/
def Core.freeFrame (c : Core) (reply : Bool) : Option Nat :=
  let n := frameCount c.g
  let r := frameReply c.g
  (List.range n).find? fun i =>
    (if reply then decide (n - r ≤ i) else decide (i < n - r)) && !c.m.frames.contains i
      && decide (frameBase c.g i + frameSize c.g ≤ spSize)

/-- The frame of the pool that an address names. -/
def Core.frameAt (c : Core) (frame : Nat) : Option Nat :=
  c.m.frames.find? fun i => frameBase c.g i = frame

/-- The unspent reply route of the running task (R114). -/
def Core.routeOf (c : Core) : Option (Nat × Route) :=
  match c.h.task with
  | none => none
  | some t =>
    if t.item.msg && t.item.chk then
      match c.frameAt t.item.frame.toNat with
      | some i => (FMap.get none c.m.routes i).map fun r => (i, r)
      | none => none
    else none

/-- The reply that spends a route with no task's answer (R114). -/
def emptyReply (r : Route) : Msg :=
  { reply := true, job := r.job, code := r.rcode, prio := r.rprio, wid := false, payload := [], top := r.top }

/-- Port engines with blocks for a gateway core look again (R420). -/
def State.lookPort (s : State) (slot : Nat) : State :=
  let d := slotDie slot
  s.each ((s.dieAt d).ports.filter fun p => p.2.queue.any fun q => gatewaySlot d p.1 q.1 == slot) fun s p =>
    s.due .ueBlockReceive { place := d, a := p.1 }

/-- A record that ends gives its frame back to the pool; an unspent route sends an empty reply (R39, R114, R212). -/
def State.returnFrame (s : State) (slot : Nat) (r : Rec) : State :=
  let c := s.coreAt slot
  match (if r.msg then c.frameAt r.frame.toNat else none) with
  | none => s
  | some i =>
    let s1 := s.mapCoreAt slot fun c =>
      { c with m.frames := c.m.frames.filter (· ≠ i), m.routes := FMap.put none c.m.routes i none }
    let s2 := match FMap.get none c.m.routes i with
      | none => s1
      | some rt => (s1.balance slot rt.job 1).queueSend slot 1
          { dst := rt.origin, job := rt.job, rl := none, body := .msg (emptyReply rt) }
    (if (s2.coreAt slot).m.inq.isEmpty then s2 else s2.dueAt .messageAccept slot).lookPort slot

/-- Whether ending the task would send an empty reply into a full queue. -/
def Core.replyBlocked (c : Core) : Bool :=
  match c.h.task with
  | none => false
  | some t => match (if t.item.msg then c.frameAt t.item.frame.toNat else none) with
    | none => false
    | some i => (FMap.get none c.m.routes i).isSome && c.sendFull 1

/-! ### Queues (R206 to R211) -/

/-- A level's oldest ring record moves back into the FIFO while a slot is free; an uncorrectable one is dropped with a
notice (R209, R211). n bounds the ring. -/
def State.refill (s : State) (slot l n : Nat) : State :=
  match n with
  | 0 => s
  | k + 1 =>
    let c := s.coreAt slot
    let ring := levelRing c.q l
    match ring.seqs with
    | [] => s
    | m :: rest =>
      if 63 ≤ (levelQ c.q l).length then s
      else
        let off := ringSlot c.g l ring.head
        let f := spFlat slot off
        let ws := (List.range 4).map fun i => f + 8 * i
        let s1 := s.each ws State.checkWord
        let s2 := s1.mapCoreAt slot fun c =>
          let ring' : Ring := { head := (ring.head + 1) % (max (ringCap c.g) 1), seqs := rest, lost := ring.lost && !rest.isEmpty }
          { c with q.ring := FMap.put {} c.q.ring l ring' }
        let s3 :=
          if ws.any s1.mem.isBad then s2.notice (slotDie slot) { kind := 8, w1 := BitVec.ofNat 64 off }
          else
            let e : QRec := { item := m.on (s1.ringRec slot l 0), seq := m.seq }
            (if ring.lost then { s2 with fresh := s2.fresh + 3 } else s2).mapCoreAt slot fun c => { c with q.fifo := FMap.put [] c.q.fifo l (levelQ c.q l ++ [e]) }
        s3.refill slot l k

/-- Sleepers of a core that a write has woken and that still wait. -/
def State.wokenAt (s : State) (slot : Nat) : List Sleeper :=
  (s.clusterAt (slotCluster slot)).wake.filter fun sl => sl.slot == slot && sl.woken

/-- What waits for room at a core or for its job goes on as far as it can, in the order of R208: woken tasks, records in the
core's input, and near-bank units that hold an add-and-fire record for it (R210). -/
def State.admitWaiting (s : State) (slot : Nat) : State :=
  let s1 := s.each (s.wokenAt slot) fun s sl => s.wakeOne (slotCluster slot) sl
  let q := (s1.coreAt slot).q.waitq
  let s2 := if q.isEmpty then s1
    else (s1.mapCoreAt slot fun c => { c with q.waitq := [] }).each q fun s r => s.enqueueOrWait slot r
  s2.unhold slot

/-- What follows from a freed record slot: spilled and waiting records move up, firing rules are looked at again, and
waiting messages may be accepted (R209, R210). -/
def State.slotFreed (s : State) (slot l : Nat) : State :=
  let s1 := s.refill slot l ((levelRing (s.coreAt slot).q l).seqs.length)
  let s2 := s1.admitWaiting slot
  let s3 := s2.evalStarved slot
  (if (s3.coreAt slot).m.inq.isEmpty then s3 else s3.dueAt .messageAccept slot).lookPort slot

/-- Oldest enqueue number of a level. -/
def levelAge (q : Sched) (l : Nat) : Option Nat := ((levelQ q l).map QRec.seq).min?

/-- The level of the next pick (R207); oldest compares enqueue order. -/
def Sched.pickLevel (q : Sched) : Option Nat :=
  let ready := (List.range 4).filter fun l => !(levelQ q l).isEmpty
  let above := ready.filter fun l => decide (q.last < l)
  if q.run = 256 ∧ above ≠ [] then
    above.foldl (fun best l =>
      match best with
      | none => some l
      | some b => if (levelAge q l).getD 0 < (levelAge q b).getD 0 then some l else some b) none
  else ready.head?

/-- Run count and level after a pick (R207). -/
def Sched.picked (q : Sched) (l : Nat) : Sched :=
  if l = q.last then { q with run := min (q.run + 1) 256 } else { q with last := l, run := 1 }

/-! ### Starting a task (R18, R36, R52, R161, R192) -/

/-- Whether the core scheduler may dispatch (R123, R125, R217, R371). -/
def Core.mayDispatch (c : Core) : Bool :=
  c.h.hs == .idle && !c.u.halted && !c.u.haltPend && c.u.scan.isNone && !c.u.whold && c.u.swap.isNone && !c.u.failed

/-- Whether a record may be picked: those of a job that is to be swapped out are not (R215, R321). -/
def Core.picks (c : Core) (r : Rec) : Bool := !(c.u.preempt && c.u.job == some r.job)

/-- The queues that a pick looks at. -/
def Core.pickable (c : Core) : Sched :=
  { c.q with fifo := (List.range 4).map fun l => (l, (levelQ c.q l).filter fun q => c.picks q.item) }

/-- Register files at a task's first instruction (R18): frame pointer, stack pointer, work identifier, flags. -/
def entryRegs (r : Rec) (sp wid : Word) : FMap Word :=
  FMap.put 0 (FMap.put 0 (FMap.put 0 (FMap.put 0 [] 2 sp) 10 (r.frame.setWidth 64)) 11 wid) 12 r.flags

/-- The hart takes a record: entry state and mode, engine shadow registers reset; the budget is sampled (R18, R19, R33,
R169, R227). A woken task is the task that slept: it keeps its serial number (R37, R61). -/
def Core.start (c : Core) (r : Rec) (sp wid : Word) : Core :=
  { c with
    h := { c.h with
      x := entryRegs r sp wid, v := [], k := FMap.put 0 [] 0 (BitVec.allOnes 64), pc := r.code.setWidth 64,
      mode := jobPriv r.job, hs := .run, mark := 0, pend := 0, hpend := 0, resv := none, wait := none, traps := [],
      task := some { item := r, prio := r.prio, budget := c.g.bud.toNat, serial := if r.cont = 0 then c.h.serial + 1 else r.cont,
                       acq := r.rel },
      serial := c.h.serial + 1 },
    g.fflags := 0, g.wid := wid, e.shadow := [], r.carry := none, r.stack := [], r.doomed := false, r.rset := [], r.wset := [],
    r.hold := [], r.closing := false, r.owed := none, r.logTop := c.g.undo.toNat }

/-- A word that the dispatch reads as a hart load: checked, then its data unless it is uncorrectable. -/
def State.dispatchWord (s : State) (f : Nat) : State × Option Word :=
  let s1 := s.checkWord f
  if s1.mem.isBad f then (s1.mapMem fun m => m.setPoison f true, none) else (s1, some (s1.mem.data f))

/-- Starts a record on the acting hart, with the checks of R161 in their order. -/
def State.startTask (s : State) (r : Rec) : State :=
  let wp : Word := r.widp.setWidth 64
  let fp : Word := r.frame.setWidth 64
  let open_ := Config.freeWord s.fresh
  let begin_ (s : State) (sp wid : Word) : State := s.mapCore fun c => c.start r sp wid
  let tick (s : State) : State := { s with fresh := s.fresh + 1 }
  if wp ≠ 0 ∧ (wp.toNat % 8 ≠ 0 ∨ inWindow wp 8 = false) then ((tick s |> fun s => begin_ s open_ open_).trap 5 wp)
  else
    let rw := if wp = 0 then (s, some (0 : Word)) else s.dispatchWord (s.flat wp)
    match rw.2 with
    | none => (begin_ (tick rw.1) open_ open_).trap 30 wp
    | some wid =>
      if fp.toNat % 64 ≠ 0 ∨ inWindow fp 8 = false then (begin_ (tick rw.1) open_ wid).trap 5 fp
      else
        let rh := rw.1.dispatchWord (s.flat fp)
        match rh.2 with
        | none => (begin_ (tick rh.1) open_ wid).trap 30 fp
        | some hd =>
          let size := if hd.toNat % 2 ^ 24 = 0 then 2 ^ 24 else hd.toNat % 2 ^ 24
          let t := begin_ rh.1 (fp + BitVec.ofNat 64 size) wid
          if r.chk && r.top != t.core.g.top then t.trap 25 fp
          else if r.etag then t.trap 30 (fp ||| 0x8000000000000000)
          else t

/-- The core scheduler picks a record and the hart starts it (R207). What waited for room or for its job looks first. -/
def State.dispatch (st : State) (slot : Nat) : State :=
  let s := st.admitWaiting slot
  let c := s.coreAt slot
  if !c.mayDispatch then s
  else
    match c.pickable.pickLevel with
    | none => s
    | some l =>
      match (levelQ c.q l).find? fun q => c.picks q.item with
      | none => s
      | some q =>
        let s1 := s.mapCoreAt slot fun c =>
          { c with q := { c.q.picked l with fifo := FMap.put [] c.q.fifo l ((levelQ c.q l).erase q) } }
        (s1.asCore slot fun s => s.startTask q.item).slotFreed slot l

/-- TASK_DISPATCH. -/
def execTaskDispatch (s : State) : Host.Outcome State Fault Refusal := atSlot s fun s => s.dispatch s.arg.place

/-! ### Ending a task (R39, R168, R202, R257) -/

/-- Slots that the core's tasks emptied return to their producers as credits (R257). -/
def State.returnCredits (s : State) (slot : Nat) : State :=
  s.each s.wafer.edges fun s p =>
    match p.2.dst with
    | .actor t _ =>
      if t = slot then
        (s.each p.2.spent fun s seq => s.due .creditReturn { place := p.1, a := seq.toNat }).mapEdge p.1 fun e =>
          { e with spent := [] }
      else s
    | _ => s

/-- The actor whose firing a record is: its state block is the record's frame (R203). -/
def Core.actorOf (c : Core) (r : Rec) : Option Nat :=
  if r.act && r.chk then (c.q.actors.find? fun p => p.2.busy && p.2.state == r.frame).map Prod.fst else none

/-- Charges the next pick to the task's present priority (R106). -/
def Sched.charge (q : Sched) (prio : Nat) : Sched := if prio = q.last then q else { q with last := prio, run := 1 }

/-- The hart is given back to the core scheduler. -/
def Core.vacate (c : Core) : Core :=
  { c with
    h := { c.h with task := none, mode := .u, hs := .idle, pc := 0, resv := none, mark := 0, pend := 0, hpend := 0, traps := [] },
    r.carry := none, r.stack := [], r.doomed := false, r.rset := [], r.wset := [], r.hold := [], r.closing := false,
    r.owed := none }

/-- What a task end or sleep lets the core look at: a halt that waits (R123), a pre-emption request (R321), a wave or
hole change (R370) and its queues. -/
def State.afterTask (s : State) (slot : Nat) : State :=
  let s1 := s.mapCoreAt slot fun c =>
    if c.u.haltPend then { c with u.halted := true, u.haltPend := false } else c
  (s1.lookRest slot).dueAt .taskDispatch slot

/-- The matrix operations of a task that has ended are marked, follow-ons to come among them: their flags are discarded (R61). -/
def Core.forget (c : Core) (serial : Nat) : Core :=
  { c with e.mxq := c.e.mxq.map fun o => if o.serial = serial then { o with gone := true } else o,
           e.cpq := c.e.cpq.map fun o => if o.serial = serial then { o with gone := true } else o }

/-- The running task of a slot ends: its frame, its firing, its credits (R39, R202, R212, R257, R350). k enqueues its chain
copy, which stands before the firing that the freed actor may make (R208). -/
def State.endTaskWith (s : State) (slot : Nat) (k : State → State) : State :=
  match (s.coreAt slot).h.task with
  | none => k ((s.mapCoreAt slot Core.vacate).dueAt .taskDispatch slot)
  | some t =>
    let s1 := s.returnFrame slot t.item
    let s2 := match (s1.coreAt slot).actorOf t.item with
      | some n => s1.mapActor slot n fun a => { a with busy := false, resv := 0 }
      | none => s1
    let s3 := (s2.balance slot t.item.job (-1)).returnCredits slot
    let s4 := k ((s3.mapCoreAt slot fun c =>
      ({ c with q := c.q.charge t.prio.toNat, u.prog := c.u.prog + 1 }.forget t.serial).vacate).afterTask slot)
    match (s1.coreAt slot).actorOf t.item with
    | some n =>
      if ((s4.coreAt slot).actor n).mig then s4.dueAt .driftDrain (slotDie slot) else s4.evalActor slot n
    | none => s4

def State.endTask (s : State) (slot : Nat) : State := s.endTaskWith slot id

/-- The task becomes Sleeping: its record stands in the wake table, its frame and firing stay (R37, R189, R202, R257). -/
def State.sleepTask (s : State) (slot : Nat) : State :=
  match (s.coreAt slot).h.task with
  | none => s
  | some t => ((s.returnCredits slot).mapCoreAt slot fun c => { c with q := c.q.charge t.prio.toNat }.vacate).afterTask slot

/-- Ends the acting hart's task for task.end and task.chain: misuse by the task itself inside an entry; a handler rolls
every entry back first; pending tokens are awaited (R39, R168), and the task's buffered stores, so that none of them meets
the next use of its frame or of a ring slot (R410; entry 22). k runs between the task's end and the next pick. -/
def State.finish (s : State) (i : Instr) (k : State → State) : State :=
  let c := s.core
  if c.inEntry then s.misuse i
  else if c.h.task.isNone then s.endTaskWith s.cur k
  else if c.h.pend &&& ~~~c.h.hpend ≠ 0 ∨ (c.r.stack ≠ [] ∧ s.commandsDone = false) ∨ c.replyBlocked = true
      ∨ c.e.sb.isEmpty = false then s
  else
    let r := s.dropAll true
    if r.2 then (r.1.mapCore Core.retired).endTaskWith s.cur k else r.1

def execTaskEnd (s : State) : Host.Outcome State Fault Refusal := .next (s.finish .taskEnd id)

/-! ### task.chain, task.spawn, task.join -/

/-- A record copied from memory for the issuing task: its job rule (R103), join and chn as given. -/
def copiedRec (job : BitVec 12) (w0 w1 w2 : Word) (chn : Bool) : Rec :=
  let r := Rec.ofWords w0 w1 w2
  { r with join := 0, chn := chn, job := if job = 0 then r.job else job }

/-- Places a chain copy at the head of its level's FIFO (R101, R206). -/
def State.enqueueChain (s : State) (slot : Nat) (r : Rec) : State :=
  s.mapCoreAt slot fun c =>
    { c with q.fifo := FMap.put [] c.q.fifo r.prio.toNat ({ item := r, seq := c.q.enq } :: levelQ c.q r.prio.toNat),
             q.enq := c.q.enq + 1 }

/-- Reads the record at an address as hart loads and goes on with its words. -/
def State.withRec (s : State) (a : Word) (k : State → Word → Word → Word → State) : State :=
  match objectFault a 32 with
  | some (c, v) => s.trap c v
  | none => (s.loadWords a 4).andThen s fun t l => k t (l.getD 0 0) (l.getD 1 0) (l.getD 2 0)

def execTaskChain (rs1 : XReg) (s : State) : Host.Outcome State Fault Refusal :=
  let i : Instr := .taskChain rs1
  .next (s.guard i [rs1] [] fun s =>
    if s.core.inEntry then s.misuse i
    else s.withRec (s.x rs1) fun t w0 w1 w2 =>
      let r := copiedRec t.core.jobOf w0 w1 w2 true
      t.finish i fun t => (t.balance t.cur r.job 1).enqueueChain t.cur r)

/-- cause 24 with spill = 1 (R108). -/
def tvalSpill : Word := 0x200

/-- task.spawn (R102): its traps come before the record is read and consumed (R161); a held one copies its record at its issue
(DESIGN CHOICE, entry 127: R98 and R102 do not say when). -/
def execTaskSpawn (rl : Bool) (scope : BitVec 2) (rs1 : XReg) (s : State) : Host.Outcome State Fault Refusal :=
  .next (s.guard (.taskSpawn rl scope rs1) [rs1] [] fun s =>
    let a := s.x rs1
    let c := s.core
    match objectFault a 32 with
    | some (k, v) => s.trap k v
    | none =>
      let p := s.peek a 1
      if s.objectWaits a 4 || (!c.inEntry && rl && !s.relReady s.cur scope false) then s
      else match firstTrap
          [(!c.inEntry && peekGood p 0 && !c.hasRoom ((peekWord p 0).extractLsb' 48 2 : BitVec 2).toNat, 24, tvalSpill),
           (c.inEntry && decide (64 ≤ c.r.hold.length), 27, 1)] with
        | some (k, v) => s.trap k v
        | none => s.withRec a fun t w0 w1 w2 =>
          let r := copiedRec c.jobOf w0 w1 w2 false
          if c.inEntry then t.hold (.spawn r rl scope) 0 State.retire
          else ((t.balance t.cur r.job 1).enqueueAt t.cur r).retire)

/-- Whether a core's input has no place for another waiting record: it takes 4, as the buffers of R213 do (R210; entry 124). -/
def Core.inputFull (c : Core) : Bool := decide (4 ≤ c.q.waitq.length)

/-- Whether a join of the record at an address would make a record that the core's input has no place for (R104, R210). -/
def State.joinWaits (s : State) (a : Word) : Bool :=
  (s.mem.data (s.flat a + 8)).toNat / 2 ^ 48 % 2 ^ 15 == 1 && s.core.inputFull

/-- The decrement of a join field and the record it makes Ready (R104). The word is good; words 0 and 2 of the record are copied
as memory gives them, also where they are poisoned or fail their check (DESIGN CHOICE, entry 128: R104 names the join word
alone). -/
def State.joinAt (s : State) (a : Word) (job : BitVec 12) : State :=
  let f := s.flat a
  let w1 := s.mem.data (f + 8)
  let n := w1.toNat / 2 ^ 48 % 2 ^ 15
  if n = 0 then s
  else
    let t := s.applyWrites (some s.cur) [{ addr := f + 8, mask := BitVec.allOnes 8, data := w1 - (1#64 <<< 48) }]
    if n = 1 then
      let r := copiedRec job (t.mem.data f) (t.mem.data (f + 8)) (t.mem.data (f + 16)) false
      (t.balance t.cur r.job 1).enqueueOrWait t.cur r
    else t

def execTaskJoin (rs1 : XReg) (s : State) : Host.Outcome State Fault Refusal :=
  .next (s.guard (.taskJoin rs1) [rs1] [] fun s =>
    let a := s.x rs1
    let c := s.core
    match objectFault a 32 with
    | some (c, v) => s.trap c v
    | none =>
      if c.inEntry then s.hold (.join a c.jobOf) 0 State.retire
      else if !c.e.sb.isEmpty || s.joinWaits a then s
      else
        let s1 := s.checkWord (s.flat a + 8)
        if s1.mem.isBad (s.flat a + 8) then (s1.mapMem fun m => m.setPoison (s.flat a + 8) true).consume (a + 8)
        else (s1.joinAt a c.jobOf).retire)

/-! ### task.self, task.prio -/

/-- task.self (R105). -/
def taskSelf (rd : XReg) (s : State) : State :=
  s.guard (.taskSelf rd) [] [rd] fun s => (s.writeX rd s.core.g.wid).retire

/-- task.prio (R106): in U mode no value below the dispatch priority. -/
def taskPrio (rs1 : XReg) (s : State) : State :=
  s.guard (.taskPrio rs1) [rs1] [] fun s =>
    let v : BitVec 2 := (s.x rs1).setWidth 2
    (s.mapCore fun c => { c with h.task := c.h.task.map fun t =>
      { t with prio := if c.h.mode = .u && v.ult t.item.prio then t.item.prio else v } }).retire

def execTaskSelf0 (s : State) : Host.Outcome State Fault Refusal := .next (taskSelf 0 s)
def execTaskSelf1 (s : State) : Host.Outcome State Fault Refusal := .next (taskSelf 1 s)
def execTaskSelf2 (s : State) : Host.Outcome State Fault Refusal := .next (taskSelf 2 s)
def execTaskSelf3 (s : State) : Host.Outcome State Fault Refusal := .next (taskSelf 3 s)
def execTaskSelf4 (s : State) : Host.Outcome State Fault Refusal := .next (taskSelf 4 s)
def execTaskSelf5 (s : State) : Host.Outcome State Fault Refusal := .next (taskSelf 5 s)
def execTaskSelf6 (s : State) : Host.Outcome State Fault Refusal := .next (taskSelf 6 s)
def execTaskSelf7 (s : State) : Host.Outcome State Fault Refusal := .next (taskSelf 7 s)
def execTaskSelf8 (s : State) : Host.Outcome State Fault Refusal := .next (taskSelf 8 s)
def execTaskSelf9 (s : State) : Host.Outcome State Fault Refusal := .next (taskSelf 9 s)
def execTaskSelf10 (s : State) : Host.Outcome State Fault Refusal := .next (taskSelf 10 s)
def execTaskSelf11 (s : State) : Host.Outcome State Fault Refusal := .next (taskSelf 11 s)
def execTaskSelf12 (s : State) : Host.Outcome State Fault Refusal := .next (taskSelf 12 s)
def execTaskSelf13 (s : State) : Host.Outcome State Fault Refusal := .next (taskSelf 13 s)
def execTaskSelf14 (s : State) : Host.Outcome State Fault Refusal := .next (taskSelf 14 s)
def execTaskSelf15 (s : State) : Host.Outcome State Fault Refusal := .next (taskSelf 15 s)
def execTaskSelf16 (s : State) : Host.Outcome State Fault Refusal := .next (taskSelf 16 s)
def execTaskSelf17 (s : State) : Host.Outcome State Fault Refusal := .next (taskSelf 17 s)
def execTaskSelf18 (s : State) : Host.Outcome State Fault Refusal := .next (taskSelf 18 s)
def execTaskSelf19 (s : State) : Host.Outcome State Fault Refusal := .next (taskSelf 19 s)
def execTaskSelf20 (s : State) : Host.Outcome State Fault Refusal := .next (taskSelf 20 s)
def execTaskSelf21 (s : State) : Host.Outcome State Fault Refusal := .next (taskSelf 21 s)
def execTaskSelf22 (s : State) : Host.Outcome State Fault Refusal := .next (taskSelf 22 s)
def execTaskSelf23 (s : State) : Host.Outcome State Fault Refusal := .next (taskSelf 23 s)
def execTaskSelf24 (s : State) : Host.Outcome State Fault Refusal := .next (taskSelf 24 s)
def execTaskSelf25 (s : State) : Host.Outcome State Fault Refusal := .next (taskSelf 25 s)
def execTaskSelf26 (s : State) : Host.Outcome State Fault Refusal := .next (taskSelf 26 s)
def execTaskSelf27 (s : State) : Host.Outcome State Fault Refusal := .next (taskSelf 27 s)
def execTaskSelf28 (s : State) : Host.Outcome State Fault Refusal := .next (taskSelf 28 s)
def execTaskSelf29 (s : State) : Host.Outcome State Fault Refusal := .next (taskSelf 29 s)
def execTaskSelf30 (s : State) : Host.Outcome State Fault Refusal := .next (taskSelf 30 s)
def execTaskSelf31 (s : State) : Host.Outcome State Fault Refusal := .next (taskSelf 31 s)
def execTaskPrio0 (s : State) : Host.Outcome State Fault Refusal := .next (taskPrio 0 s)
def execTaskPrio1 (s : State) : Host.Outcome State Fault Refusal := .next (taskPrio 1 s)
def execTaskPrio2 (s : State) : Host.Outcome State Fault Refusal := .next (taskPrio 2 s)
def execTaskPrio3 (s : State) : Host.Outcome State Fault Refusal := .next (taskPrio 3 s)
def execTaskPrio4 (s : State) : Host.Outcome State Fault Refusal := .next (taskPrio 4 s)
def execTaskPrio5 (s : State) : Host.Outcome State Fault Refusal := .next (taskPrio 5 s)
def execTaskPrio6 (s : State) : Host.Outcome State Fault Refusal := .next (taskPrio 6 s)
def execTaskPrio7 (s : State) : Host.Outcome State Fault Refusal := .next (taskPrio 7 s)
def execTaskPrio8 (s : State) : Host.Outcome State Fault Refusal := .next (taskPrio 8 s)
def execTaskPrio9 (s : State) : Host.Outcome State Fault Refusal := .next (taskPrio 9 s)
def execTaskPrio10 (s : State) : Host.Outcome State Fault Refusal := .next (taskPrio 10 s)
def execTaskPrio11 (s : State) : Host.Outcome State Fault Refusal := .next (taskPrio 11 s)
def execTaskPrio12 (s : State) : Host.Outcome State Fault Refusal := .next (taskPrio 12 s)
def execTaskPrio13 (s : State) : Host.Outcome State Fault Refusal := .next (taskPrio 13 s)
def execTaskPrio14 (s : State) : Host.Outcome State Fault Refusal := .next (taskPrio 14 s)
def execTaskPrio15 (s : State) : Host.Outcome State Fault Refusal := .next (taskPrio 15 s)
def execTaskPrio16 (s : State) : Host.Outcome State Fault Refusal := .next (taskPrio 16 s)
def execTaskPrio17 (s : State) : Host.Outcome State Fault Refusal := .next (taskPrio 17 s)
def execTaskPrio18 (s : State) : Host.Outcome State Fault Refusal := .next (taskPrio 18 s)
def execTaskPrio19 (s : State) : Host.Outcome State Fault Refusal := .next (taskPrio 19 s)
def execTaskPrio20 (s : State) : Host.Outcome State Fault Refusal := .next (taskPrio 20 s)
def execTaskPrio21 (s : State) : Host.Outcome State Fault Refusal := .next (taskPrio 21 s)
def execTaskPrio22 (s : State) : Host.Outcome State Fault Refusal := .next (taskPrio 22 s)
def execTaskPrio23 (s : State) : Host.Outcome State Fault Refusal := .next (taskPrio 23 s)
def execTaskPrio24 (s : State) : Host.Outcome State Fault Refusal := .next (taskPrio 24 s)
def execTaskPrio25 (s : State) : Host.Outcome State Fault Refusal := .next (taskPrio 25 s)
def execTaskPrio26 (s : State) : Host.Outcome State Fault Refusal := .next (taskPrio 26 s)
def execTaskPrio27 (s : State) : Host.Outcome State Fault Refusal := .next (taskPrio 27 s)
def execTaskPrio28 (s : State) : Host.Outcome State Fault Refusal := .next (taskPrio 28 s)
def execTaskPrio29 (s : State) : Host.Outcome State Fault Refusal := .next (taskPrio 29 s)
def execTaskPrio30 (s : State) : Host.Outcome State Fault Refusal := .next (taskPrio 30 s)
def execTaskPrio31 (s : State) : Host.Outcome State Fault Refusal := .next (taskPrio 31 s)

end Sys2Proof.Machine
end

