-- ==== Sys2Proof/Machine/Tagged.lean ====
section
/-! DEFINITION. Waiting for memory: txn.retry and the implicit retry (R188, R189, R253), the tagged-memory forms (R250 to R254), and
str.sample (R264). -/
namespace Sys2Proof.Machine

/-! ### Retry (R188, R253) -/

/-- The running task takes its place in the wake table and gives the hart back (R189). An upset that strikes its entry shows when the
table is next looked up (R290; entry 132). -/
def State.sleepOn (s : State) (code : Word) (lines : List (Nat × Word)) : State :=
  match s.core.h.task with
  | none => s
  | some t =>
    let u := s.nextUpset
    let sl : Sleeper :=
      { item := restartRec t code, slot := s.cur, lines := lines.map Prod.fst, locals := lines.map Prod.snd,
        broken := match u.2 with
          | some x => (eccCheck ((lines.map Prod.snd).headD 0) x.flips).bad
          | none => false }
    (u.1.mapClusterAt (slotCluster s.cur) fun c => { c with wake := c.wake ++ [sl] }).sleepTask s.cur

/-- txn.retry of the innermost open transaction (R188): an alternative, a restart where it is doomed, or sleep. -/
def State.retry (s : State) (i : Instr) : State :=
  let c := s.core
  match altIndex c.r.stack with
  | some j => if s.commandsDone then s.toAlternative j else s
  | none =>
    match findOutermost c.r.stack with
    | none => s.misuse i
    | some t =>
      let above := (c.r.stack.takeWhile fun e => e ≠ t).length
      let n := max 1 c.r.rset.length
      if c.r.doomed then s.reexecute above 0 (some t.stamp)
      else if above + 1 < c.r.stack.length then s.misuse i
      else if s.wakeFree (slotCluster s.cur) < n then s.trap 31 (BitVec.ofNat 64 n)
      else if !s.commandsDone then s
      else
        let r := s.dropAll false
        if r.2 then (r.1.mapCore Core.retired).sleepOn t.begin_ c.r.rset else r.1

/-- ImplicitRetry of a form that finds its word not ready (R253). Above the task's privilege the form waits in place. -/
def State.implicitRetry (s : State) (i : Instr) (a : Word) : State :=
  let c := s.core
  match c.h.task with
  | none => s
  | some t =>
    if !c.atTask then s
    else if c.inTxn then s.retry i
    else if !c.r.stack.isEmpty then s.misuse i
    else if c.h.pend &&& ~~~c.h.hpend ≠ 0 then s
    else if s.wakeFree (slotCluster s.cur) < 1 then s.trap 31 1
    else s.sleepOn (t.item.code.setWidth 64) [(lineAt (s.flat a), a &&& ~~~63)]

/-! ### The tagged-memory forms (R251) -/

inductive FeForm where
  | ld
  | ldk
  | st
  | stf
  | clr
  | test
  deriving DecidableEq, Repr

/-- Whether a form stores data or clears, so that its causes are those of a store. -/
def FeForm.stores (f : FeForm) : Bool :=
  match f with
  | .st | .stf | .clr => true
  | _ => false

/-- Whether a form finds what it waits for. -/
def FeForm.ready (f : FeForm) (full : Bool) : Bool :=
  match f with
  | .ld | .ldk => full
  | .st => !full
  | _ => true

/-- What a form changes: data if any, and the full bit; none where it only reads. -/
def FeForm.change (f : FeForm) (v : Word) : Option (Option Word × Bool) :=
  match f with
  | .ld => some (none, false)
  | .st | .stf => some (some v, true)
  | .clr => some (none, false)
  | .ldk | .test => none

/-- One tagged-memory form at the word's port: the test, the capacity of the log and the write set, the consumption of a bad
word that is read, then the update (R161, R251). Data that the crossbar failed twice arrive as uncorrectable (R290). -/
def State.feAt (s : State) (i : Instr) (form : FeForm) (a : Word) (rd : XReg) (v : Word) : State :=
  match s.joinReads [a] with
  | none => s.trap 27 4
  | some t0 =>
    let f := s.flat a
    let full := s.hartFull f
    if !form.ready full then t0.implicitRetry i a
    else
      match (if (form.change v).isSome && s.core.inEntry then t0.core.writeRoom [wordAt f] else none) with
      | some w => s.trap 27 w
      | none =>
        let reads := decide (form = .ld) || decide (form = .ldk)
        let writes := decide (form = .st) || decide (form = .stf)
        let x := (if reads then t0.checkWord f else t0).transfer (if reads || (writes && !s.core.inTxn) then [f] else [])
        let t := x.1
        let w := t.hartWord f
        if reads && (w.2 || x.2) then t.consume a
        else
          let t1 := if reads then t.writeX rd w.1
            else if form = .test then t.writeX rd (if full then 1 else 0) else t
          match form.change v with
          | none => t1.retire
          | some (d, b) => (t1.writeTagged f d b).andThen s fun t _ =>
              (if writes && x.2 then t.mapMem fun m => m.setPoison f true else t).retire

/-- A tagged-memory form: its checks (R250, R251, R182), then the wait for earlier accesses that the store buffer or its
release needs (R254, R287). -/
def feForm (i : Instr) (form : FeForm) (o : Ord) (rd rs1 rs2 : XReg) (srcs dsts : List XReg) (s : State) : State :=
  s.guard i srcs dsts fun s =>
    let a := s.x rs1
    match checkAccess form.stores a 8 with
    | some (code, tval) => s.trap code tval
    | none =>
      if form.stores && s.inLog a 8 then s.trap 7 a
      else if !s.core.e.sb.isEmpty || (o.rl && !s.core.writesVisible) then s
      else s.feAt i form a rd (s.x rs2)

def execFeLd (o : Ord) (rd rs1 : XReg) (s : State) : Host.Outcome State Fault Refusal :=
  .next (feForm (.feLd o rd rs1) .ld o rd rs1 0 [rs1] [rd] s)
def execFeLdk (o : Ord) (rd rs1 : XReg) (s : State) : Host.Outcome State Fault Refusal :=
  .next (feForm (.feLdk o rd rs1) .ldk o rd rs1 0 [rs1] [rd] s)
def execFeSt (o : Ord) (rs1 rs2 : XReg) (s : State) : Host.Outcome State Fault Refusal :=
  .next (feForm (.feSt o rs1 rs2) .st o 0 rs1 rs2 [rs1, rs2] [] s)
def execFeStf (o : Ord) (rs1 rs2 : XReg) (s : State) : Host.Outcome State Fault Refusal :=
  .next (feForm (.feStf o rs1 rs2) .stf o 0 rs1 rs2 [rs1, rs2] [] s)
def execFeClr (o : Ord) (rs1 : XReg) (s : State) : Host.Outcome State Fault Refusal :=
  .next (feForm (.feClr o rs1) .clr o 0 rs1 0 [rs1] [] s)
def execFeTest (o : Ord) (rd rs1 : XReg) (s : State) : Host.Outcome State Fault Refusal :=
  .next (feForm (.feTest o rd rs1) .test o rd rs1 0 [rs1] [rd] s)

/-! ### str.sample (R264). Slot 2 holds the number of the last completed quiescence wave (R354). -/

def execStrSample (rd rs1 : XReg) (s : State) : Host.Outcome State Fault Refusal :=
  .next (s.guard (.strSample rd rs1) [rs1] [rd] fun s =>
    let i := (s.x rs1).toNat % 8
    let n := s.wafer.wave
    let w : Word := if i = 2 then
        BitVec.ofNat 64 (n % 2 ^ 16 * 2 ^ 48 + (if s.core.u.waveSeen = n then 0 else 2 ^ 47) + n % 2 ^ 32)
      else FMap.get 0 s.core.u.samples i
    ((s.writeX rd w).mapCore fun c =>
      if i = 2 then { c with u.waveSeen := n }
      else { c with u.samples := FMap.put 0 c.u.samples i (w &&& ~~~(1#64 <<< 47)) }).retire)

end Sys2Proof.Machine
end

