-- ==== Sys2Proof/Machine/NearBank.lean ====
section
/-! DEFINITION. Near-bank forms at the hart, at the port and at their return (R275 to R280). -/
namespace Sys2Proof.Machine

/-- The cluster and offset of a near-bank or barrier target: cluster memory of the own cluster or of the launch grid; a dark
cluster is found at the port (R276, R280). -/
def State.nbPlace (s : State) (a : Word) : Option (Nat × Nat) :=
  match s.resolve s.cur s.core.jobOf a with
  | .at_ f => match homeOf f with
    | .cm cl off => some (cl, off)
    | _ => none
  | .bad code =>
    if code = 0x13 then some (a.toNat / 2 ^ 32 % 256 * 48 + a.toNat / 2 ^ 24 % 256, a.toNat % 2 ^ 24) else none
  | .dram _ => none

/-- Alignment of a target (R276). -/
def nbAlign (form : NbForm) (dbl : Bool) : Nat :=
  match form with
  | .addf => 64
  | .vop _ => 64
  | _ => if dbl then 8 else 4

/-- A scalar form at the hart (R276): a fetching form in an open entry is misuse, then alignment and place. cas is always
fetching, and its register is also a source. -/
def nbForm (i : Instr) (form : NbForm) (dbl : Bool) (o : Ord) (rd rs1 rs2 : XReg) (s : State) : State :=
  let cas := form == .cas
  s.guard i (if cas then [rs1, rs2, rd] else [rs1, rs2]) [rd] fun s =>
    let a := s.x rs1
    let fetch := cas || rd != 0
    if s.core.inEntry && fetch then s.misuse i
    else if a.toNat % nbAlign form dbl ≠ 0 then s.trap 6 a
    else match s.nbPlace a with
      | none => s.trap 7 a
      | some (cl, off) =>
        s.issueNb { form := form, dbl := dbl, cluster := cl, off := off, addr := a, b := s.x rs2, cmp := s.x rd,
                    slot := s.cur, job := s.core.jobOf, fetch := fetch, rd := rd, ord := o } rd

/-- nb.vop at the hart (R279): the target's checks, the operand's, then the operand's line is read. -/
def nbVop (i : Instr) (sel : Nat) (dbl : Bool) (o : Ord) (rs1 rs2 : XReg) (s : State) : State :=
  s.guard i [rs1, rs2] [] fun s =>
    let a := s.x rs1
    let b := s.x rs2
    if a.toNat % 64 ≠ 0 then s.trap 6 a
    else if b.toNat % 64 ≠ 0 then s.trap 4 b
    else match s.nbPlace a with
      | none => s.trap 7 a
      | some (cl, off) =>
        if !inWindow b 64 then s.trap 5 b
        else if s.core.inEntry && decide (64 ≤ s.core.r.hold.length) then s.trap 27 1
        else (s.loadWords b 8).andThen s fun t l =>
          t.issueNb { form := .vop sel, dbl := dbl, cluster := cl, off := off, addr := a, b := 0, line := l,
                      slot := s.cur, job := s.core.jobOf, fetch := false, ord := o } 0

def execNbAddD (o : Ord) (rd rs1 rs2 : XReg) (s : State) : Host.Outcome State Fault Refusal :=
  .next (nbForm (.nbAddD o rd rs1 rs2) .add true o rd rs1 rs2 s)
def execNbAddW (o : Ord) (rd rs1 rs2 : XReg) (s : State) : Host.Outcome State Fault Refusal :=
  .next (nbForm (.nbAddW o rd rs1 rs2) .add false o rd rs1 rs2 s)
def execNbAddfD (o : Ord) (rd rs1 rs2 : XReg) (s : State) : Host.Outcome State Fault Refusal :=
  .next (nbForm (.nbAddfD o rd rs1 rs2) .addf true o rd rs1 rs2 s)
def execNbAddfW (o : Ord) (rd rs1 rs2 : XReg) (s : State) : Host.Outcome State Fault Refusal :=
  .next (nbForm (.nbAddfW o rd rs1 rs2) .addf false o rd rs1 rs2 s)
def execNbFaddD (o : Ord) (rd rs1 rs2 : XReg) (s : State) : Host.Outcome State Fault Refusal :=
  .next (nbForm (.nbFaddD o rd rs1 rs2) .fadd true o rd rs1 rs2 s)
def execNbFaddW (o : Ord) (rd rs1 rs2 : XReg) (s : State) : Host.Outcome State Fault Refusal :=
  .next (nbForm (.nbFaddW o rd rs1 rs2) .fadd false o rd rs1 rs2 s)
def execNbMinD (o : Ord) (rs1 rs2 : XReg) (s : State) : Host.Outcome State Fault Refusal :=
  .next (nbForm (.nbMinD o rs1 rs2) (.minmax 0) true o 0 rs1 rs2 s)
def execNbMinW (o : Ord) (rs1 rs2 : XReg) (s : State) : Host.Outcome State Fault Refusal :=
  .next (nbForm (.nbMinW o rs1 rs2) (.minmax 0) false o 0 rs1 rs2 s)
def execNbMaxD (o : Ord) (rs1 rs2 : XReg) (s : State) : Host.Outcome State Fault Refusal :=
  .next (nbForm (.nbMaxD o rs1 rs2) (.minmax 1) true o 0 rs1 rs2 s)
def execNbMaxW (o : Ord) (rs1 rs2 : XReg) (s : State) : Host.Outcome State Fault Refusal :=
  .next (nbForm (.nbMaxW o rs1 rs2) (.minmax 1) false o 0 rs1 rs2 s)
def execNbMinuD (o : Ord) (rs1 rs2 : XReg) (s : State) : Host.Outcome State Fault Refusal :=
  .next (nbForm (.nbMinuD o rs1 rs2) (.minmax 2) true o 0 rs1 rs2 s)
def execNbMinuW (o : Ord) (rs1 rs2 : XReg) (s : State) : Host.Outcome State Fault Refusal :=
  .next (nbForm (.nbMinuW o rs1 rs2) (.minmax 2) false o 0 rs1 rs2 s)
def execNbMaxuD (o : Ord) (rs1 rs2 : XReg) (s : State) : Host.Outcome State Fault Refusal :=
  .next (nbForm (.nbMaxuD o rs1 rs2) (.minmax 3) true o 0 rs1 rs2 s)
def execNbMaxuW (o : Ord) (rs1 rs2 : XReg) (s : State) : Host.Outcome State Fault Refusal :=
  .next (nbForm (.nbMaxuW o rs1 rs2) (.minmax 3) false o 0 rs1 rs2 s)
def execNbFminD (o : Ord) (rs1 rs2 : XReg) (s : State) : Host.Outcome State Fault Refusal :=
  .next (nbForm (.nbFminD o rs1 rs2) (.minmax 4) true o 0 rs1 rs2 s)
def execNbFminW (o : Ord) (rs1 rs2 : XReg) (s : State) : Host.Outcome State Fault Refusal :=
  .next (nbForm (.nbFminW o rs1 rs2) (.minmax 4) false o 0 rs1 rs2 s)
def execNbFmaxD (o : Ord) (rs1 rs2 : XReg) (s : State) : Host.Outcome State Fault Refusal :=
  .next (nbForm (.nbFmaxD o rs1 rs2) (.minmax 5) true o 0 rs1 rs2 s)
def execNbFmaxW (o : Ord) (rs1 rs2 : XReg) (s : State) : Host.Outcome State Fault Refusal :=
  .next (nbForm (.nbFmaxW o rs1 rs2) (.minmax 5) false o 0 rs1 rs2 s)
def execNbAndD (o : Ord) (rs1 rs2 : XReg) (s : State) : Host.Outcome State Fault Refusal :=
  .next (nbForm (.nbAndD o rs1 rs2) (.logic 0) true o 0 rs1 rs2 s)
def execNbAndW (o : Ord) (rs1 rs2 : XReg) (s : State) : Host.Outcome State Fault Refusal :=
  .next (nbForm (.nbAndW o rs1 rs2) (.logic 0) false o 0 rs1 rs2 s)
def execNbOrD (o : Ord) (rs1 rs2 : XReg) (s : State) : Host.Outcome State Fault Refusal :=
  .next (nbForm (.nbOrD o rs1 rs2) (.logic 1) true o 0 rs1 rs2 s)
def execNbOrW (o : Ord) (rs1 rs2 : XReg) (s : State) : Host.Outcome State Fault Refusal :=
  .next (nbForm (.nbOrW o rs1 rs2) (.logic 1) false o 0 rs1 rs2 s)
def execNbXorD (o : Ord) (rs1 rs2 : XReg) (s : State) : Host.Outcome State Fault Refusal :=
  .next (nbForm (.nbXorD o rs1 rs2) (.logic 2) true o 0 rs1 rs2 s)
def execNbXorW (o : Ord) (rs1 rs2 : XReg) (s : State) : Host.Outcome State Fault Refusal :=
  .next (nbForm (.nbXorW o rs1 rs2) (.logic 2) false o 0 rs1 rs2 s)
def execNbSwapD (o : Ord) (rd rs1 rs2 : XReg) (s : State) : Host.Outcome State Fault Refusal :=
  .next (nbForm (.nbSwapD o rd rs1 rs2) .swap true o rd rs1 rs2 s)
def execNbSwapW (o : Ord) (rd rs1 rs2 : XReg) (s : State) : Host.Outcome State Fault Refusal :=
  .next (nbForm (.nbSwapW o rd rs1 rs2) .swap false o rd rs1 rs2 s)
def execNbCasD (o : Ord) (rd rs1 rs2 : XReg) (s : State) : Host.Outcome State Fault Refusal :=
  .next (nbForm (.nbCasD o rd rs1 rs2) .cas true o rd rs1 rs2 s)
def execNbCasW (o : Ord) (rd rs1 rs2 : XReg) (s : State) : Host.Outcome State Fault Refusal :=
  .next (nbForm (.nbCasW o rd rs1 rs2) .cas false o rd rs1 rs2 s)
def execNbVaddD (o : Ord) (rs1 rs2 : XReg) (s : State) : Host.Outcome State Fault Refusal :=
  .next (nbVop (.nbVaddD o rs1 rs2) 0 true o rs1 rs2 s)
def execNbVaddW (o : Ord) (rs1 rs2 : XReg) (s : State) : Host.Outcome State Fault Refusal :=
  .next (nbVop (.nbVaddW o rs1 rs2) 0 false o rs1 rs2 s)
def execNbVfaddD (o : Ord) (rs1 rs2 : XReg) (s : State) : Host.Outcome State Fault Refusal :=
  .next (nbVop (.nbVfaddD o rs1 rs2) 1 true o rs1 rs2 s)
def execNbVfaddW (o : Ord) (rs1 rs2 : XReg) (s : State) : Host.Outcome State Fault Refusal :=
  .next (nbVop (.nbVfaddW o rs1 rs2) 1 false o rs1 rs2 s)
def execNbVfminD (o : Ord) (rs1 rs2 : XReg) (s : State) : Host.Outcome State Fault Refusal :=
  .next (nbVop (.nbVfminD o rs1 rs2) 2 true o rs1 rs2 s)
def execNbVfminW (o : Ord) (rs1 rs2 : XReg) (s : State) : Host.Outcome State Fault Refusal :=
  .next (nbVop (.nbVfminW o rs1 rs2) 2 false o rs1 rs2 s)
def execNbVfmaxD (o : Ord) (rs1 rs2 : XReg) (s : State) : Host.Outcome State Fault Refusal :=
  .next (nbVop (.nbVfmaxD o rs1 rs2) 3 true o rs1 rs2 s)
def execNbVfmaxW (o : Ord) (rs1 rs2 : XReg) (s : State) : Host.Outcome State Fault Refusal :=
  .next (nbVop (.nbVfmaxW o rs1 rs2) 3 false o rs1 rs2 s)
def execNbVandD (o : Ord) (rs1 rs2 : XReg) (s : State) : Host.Outcome State Fault Refusal :=
  .next (nbVop (.nbVandD o rs1 rs2) 4 true o rs1 rs2 s)
def execNbVandW (o : Ord) (rs1 rs2 : XReg) (s : State) : Host.Outcome State Fault Refusal :=
  .next (nbVop (.nbVandW o rs1 rs2) 4 false o rs1 rs2 s)
def execNbVorD (o : Ord) (rs1 rs2 : XReg) (s : State) : Host.Outcome State Fault Refusal :=
  .next (nbVop (.nbVorD o rs1 rs2) 5 true o rs1 rs2 s)
def execNbVorW (o : Ord) (rs1 rs2 : XReg) (s : State) : Host.Outcome State Fault Refusal :=
  .next (nbVop (.nbVorW o rs1 rs2) 5 false o rs1 rs2 s)
def execNbVxorD (o : Ord) (rs1 rs2 : XReg) (s : State) : Host.Outcome State Fault Refusal :=
  .next (nbVop (.nbVxorD o rs1 rs2) 6 true o rs1 rs2 s)
def execNbVxorW (o : Ord) (rs1 rs2 : XReg) (s : State) : Host.Outcome State Fault Refusal :=
  .next (nbVop (.nbVxorW o rs1 rs2) 6 false o rs1 rs2 s)

/-! ### At the port, and the reply -/

/-- NB_PORT_OP: the first of the operations that have arrived at a cluster, of those whose units hold no record, is performed (R210,
R278); place: the cluster. -/
def execNbPortOp (s : State) : Host.Outcome State Fault Refusal :=
  atCluster s fun s =>
    let cl := s.arg.place
    match (s.clusterAt cl).nbq.find? fun op => !s.unitHeld cl (bankOf op.off) with
    | none => s
    | some op => (s.mapClusterAt cl fun c => { c with nbq := c.nbq.erase op }).nbAtPort op

/-- The first access of a task is over (R388). -/
def Core.accessed (c : Core) : Core := { c with h.task := c.h.task.map fun t => { t with acq := false } }

/-- What a reply does at its hart (R276, R280): the result, or cause 30 or 7 at the waiting form. -/
def State.takeReply (s : State) (rd : XReg) (r : NbReply) : State :=
  let t := s.mapHart fun h => { h with wait := none }
  match r with
  | .value w => (t.writeX rd w).retire.mapCore Core.accessed
  | .bad a => t.consume a
  | .dark a => t.trap 7 a

/-- NB_REPLY: the reply reaches the hart that waits for it; place: its slot. -/
def execNbReply (s : State) : Host.Outcome State Fault Refusal :=
  atSlot s fun s => s.asCore s.arg.place fun s =>
    match s.core.h.wait with
    | some w => match w.reply with
      | some r => s.takeReply w.rd r
      | none => s
    | none => s

end Sys2Proof.Machine
end

