-- ==== Sys2Proof/Machine/Barrier.lean ====
section
/-! DEFINITION. Barrier forms (R281 to R285). -/
namespace Sys2Proof.Machine

/-! ### The object -/

/-- A barrier object's words: phase, mask or n, lead or arrived, observed (R281). -/
structure BarWords where
  phase : Word
  w40 : Word
  w48 : Word
  w50 : Word
  deriving DecidableEq, Repr

/-- Replaces the n low bits of a word. -/
def setLow (w : Word) (n v : Nat) : Word := BitVec.ofNat 64 (w.toNat / 2 ^ n * 2 ^ n + v % 2 ^ n)

def BarWords.ph (b : BarWords) : Nat := b.phase.toNat % 2 ^ 32
def BarWords.mask (b : BarWords) : Nat := b.w40.toNat % 2 ^ 16
def BarWords.lead (b : BarWords) (m : Nat) : Nat := b.w48.toNat / 2 ^ (2 * m) % 4
def BarWords.arrived (b : BarWords) : Nat := b.w48.toNat % 2 ^ 16
def BarWords.observed (b : BarWords) : Nat := b.w50.toNat % 2 ^ 16
def BarWords.isMember (b : BarWords) (m : Nat) : Bool := b.mask.testBit m
def BarWords.setLead (b : BarWords) (m v : Nat) : BarWords :=
  { b with w48 := setLow b.w48 32 (b.w48.toNat % 2 ^ 32 - b.lead m * 2 ^ (2 * m) + v * 2 ^ (2 * m)) }
def BarWords.setMask (b : BarWords) (v : Nat) : BarWords := { b with w40 := setLow b.w40 16 v }
def BarWords.setArrived (b : BarWords) (v : Nat) : BarWords := { b with w48 := setLow b.w48 16 v }
def BarWords.setObserved (b : BarWords) (v : Nat) : BarWords := { b with w50 := setLow b.w50 16 v }
def BarWords.nextPhase (b : BarWords) : BarWords := { b with phase := setLow b.phase 32 (b.ph + 1) }

/-- Members of a kind 0 object. -/
def BarWords.members (b : BarWords) : List Nat := (List.range 16).filter b.isMember

/-- Complete of R283; a lead counter is at most 3, so n = 3 rounds are all. -/
def BarWords.complete0 (b : BarWords) (n : Nat) : BarWords :=
  match n with
  | 0 => b
  | k + 1 =>
    if b.members.isEmpty || b.members.any (fun i => b.lead i == 0) then b
    else ((b.members.foldl (fun b i => b.setLead i (b.lead i - 1)) b).nextPhase).complete0 k

/-- Complete of R284. -/
def BarWords.complete1 (b : BarWords) : BarWords :=
  if 0 < b.mask ∧ b.mask ≤ b.arrived then ((b.setArrived 0).setObserved 0).nextPhase else b

/-- rd of a form that is granted. -/
def granted (n : Nat) : Word := BitVec.ofNat 64 (2 ^ 32 + n % 2 ^ 32)

/-- A form on a kind 0 object by member m (R283): the object after, and rd; none where a non-member arrives (R282). -/
def BarWords.act0 (b : BarWords) (form : BarForm) (m : Nat) : Option (BarWords × Word) :=
  match form with
  | .arrive =>
    if !b.isMember m then none
    else if b.lead m = 3 then some (b, 0)
    else some ((b.setLead m (b.lead m + 1)).complete0 3, granted (b.ph + b.lead m + 1))
  | .join =>
    some (if b.isMember m then b else (b.setMask (b.mask + 2 ^ m)).setLead m 0, granted b.ph)
  | .leave =>
    some (((if b.isMember m then b.setMask (b.mask - 2 ^ m) else b).setLead m 0).complete0 3, 0)
  | .phase => some (b, BitVec.ofNat 64 b.ph)

/-- A form on a kind 1 object (R284). -/
def BarWords.act1 (b : BarWords) (form : BarForm) : BarWords × Word :=
  match form with
  | .arrive =>
    if b.observed < b.mask then (b, 0)
    else ((b.setArrived (b.arrived + 1)).complete1, granted (b.ph + 1))
  | .join =>
    if b.mask = 65535 then (b, 0) else ((b.setMask (b.mask + 1)).setObserved (b.observed + 1), granted b.ph)
  | .leave =>
    if b.mask = 0 then (b, 0)
    else (((b.setMask (b.mask - 1)).setObserved (min b.observed (b.mask - 1))).complete1, 0)
  | .phase =>
    (if b.observed < b.mask then b.setObserved (b.observed + 1) else b, BitVec.ofNat 64 b.ph)

/-- The words that change from one state of the object to the next, the phase last (R285). -/
def BarWords.writes (b c : BarWords) (f : Nat) : List WordWrite :=
  ([(b.w40, c.w40, 0x40), (b.w48, c.w48, 0x48), (b.w50, c.w50, 0x50), (b.phase, c.phase, 0)].filter fun p => p.1 ≠ p.2.1).map
    fun p => { addr := f + p.2.2, mask := BitVec.allOnes 8, data := p.2.1 }

/-! ### At the unit -/

/-- A form that fails at its unit: cause 7 of a fetching form, else a notice whose code the spec leaves open (R282). -/
def State.barMisplaced (s : State) (op : BarOp) : State :=
  if op.form = .leave then
    { s with fresh := s.fresh + 1 }.notice (clusterDie op.cluster)
      { kind := 9, w1 := op.addr, w2 := Config.freeWord s.fresh }
  else s.nbAnswer op.slot (.dark op.addr)

/-- Performs a form at its unit as one act (R282 to R285). -/
def State.barPerform (s : State) (op : BarOp) : State :=
  let fetch := op.form != .leave
  if (s.clusterAt op.cluster).dark then s.nbRefuse op.cluster op.slot fetch op.addr true
  else
    let f := cmFlat op.cluster op.off
    let s0 := s.checkWord f
    let wide := (s0.mem.data f).getLsbD 63
    let ws := [f, f + 0x40, f + 0x48] ++ (if wide then [f + 0x50] else [])
    let s1 := s0.each ws State.checkWord
    if ws.any s1.mem.isBad then
      (s1.mapMem fun m => ws.foldl (fun m g => if m.isBad g then m.setPoison g true else m) m).nbRefuse
        op.cluster op.slot fetch op.addr false
    else if !wide && slotCluster op.slot != op.cluster then s1.barMisplaced op
    else
      let b : BarWords := { phase := s1.mem.data f, w40 := s1.mem.data (f + 0x40), w48 := s1.mem.data (f + 0x48),
                            w50 := s1.mem.data (f + 0x50) }
      match (if wide then some (b.act1 op.form) else b.act0 op.form op.idx) with
      | none => s1.barMisplaced op
      | some (c, v) =>
        let t := s1.applyWrites (some op.slot) (b.writes c f)
        if fetch then t.nbAnswer op.slot (.value v) else t

def State.barArrived (s : State) (op : BarOp) : State :=
  (s.mapClusterAt op.cluster fun c => { c with barq := c.barq ++ [op] }).dueAt .barUnitOp op.cluster

def BarOp.remote (op : BarOp) : Bool := slotDie op.slot != clusterDie op.cluster

/-- The two lines of the object that a form acts on. -/
def BarOp.lines (op : BarOp) : List Nat := [cmFlat op.cluster op.off, cmFlat op.cluster op.off + 64]

/-- Performs a form at its unit, and acknowledges a posted one from another die. -/
def State.barAtPort (s : State) (op : BarOp) : State :=
  let t := s.barPerform op
  if op.remote && op.form == .leave then t.nbDone op.slot op.ord else t

/-- Sends a form to its unit, as a near-bank operation goes to its port. none: it has to wait. -/
def State.barSend (s : State) (op : BarOp) (acquire : Bool) : Option State :=
  let fetch := op.form != .leave
  if !op.remote then some (if fetch then s.barArrived op else s.barPerform op)
  else
    let d := clusterDie op.cluster
    let out (t : State) : State :=
      if fetch then t else t.mapCoreAt op.slot fun c => { c with m.nbOut := c.m.nbOut + 1 }
    if ordRel op.ord then
      match s.takeRelease op.slot with
      | none => none
      | some (t, tr) => some ((out t).waitRelease d { trailer := tr, body := .bar op })
    else if fetch && acquire then
      some (s.waitAcquire d { clock := (s.clocksAt (slotDie op.slot)).h, body := .bar op })
    else some ((out (if fetch then s else s.leaveDie op.slot)).barArrived op)

/-- BAR_UNIT_OP: a cluster's unit performs the form that arrived first; place: the cluster. -/
def execBarUnitOp (s : State) : Host.Outcome State Fault Refusal :=
  atCluster s fun s =>
    match (s.clusterAt s.arg.place).barq with
    | [] => s
    | op :: rest => (s.mapClusterAt s.arg.place fun c => { c with barq := rest }).barAtPort op

/-! ### At the hart (R282) -/

/-- A barrier form: misuse in an open entry, then alignment and place; bar.leave is posted, the others fetch. -/
def barForm (i : Instr) (form : BarForm) (o : Ord) (rd rs1 : XReg) (s : State) : State :=
  s.guard i [rs1] [rd] fun s =>
    let a := s.x rs1
    let c := s.core
    if c.inEntry then s.misuse i
    else if a.toNat % 128 ≠ 0 then s.trap 6 a
    else match s.nbPlace a with
      | none => s.trap 7 a
      | some (cl, off) =>
        let op : BarOp := { form := form, cluster := cl, off := off, addr := a, slot := s.cur, idx := slotIdx s.cur, rd := rd,
                            ord := o }
        if s.formWaits o op.remote then s
        else if form = .leave then ((s.handlerDooms op.lines).post (.bar op)).retire
        else if !c.e.sb.isEmpty then s
        else
          let acq := ordAcq o || (match c.h.task with
            | some t => t.acq
            | none => false)
          match s.barSend op acq with
          | none => s
          | some t => t.awaitReply rd

def execBarArrive (o : Ord) (rd rs1 : XReg) (s : State) : Host.Outcome State Fault Refusal :=
  .next (barForm (.barArrive o rd rs1) .arrive o rd rs1 s)
def execBarJoin (o : Ord) (rd rs1 : XReg) (s : State) : Host.Outcome State Fault Refusal :=
  .next (barForm (.barJoin o rd rs1) .join o rd rs1 s)
def execBarLeave (o : Ord) (rs1 : XReg) (s : State) : Host.Outcome State Fault Refusal :=
  .next (barForm (.barLeave o rs1) .leave o 0 rs1 s)
def execBarPhase (o : Ord) (rd rs1 : XReg) (s : State) : Host.Outcome State Fault Refusal :=
  .next (barForm (.barPhase o rd rs1) .phase o rd rs1 s)

end Sys2Proof.Machine
end

