-- ==== Sys2Proof/Machine/Translate.lean ====
section
/-! DEFINITION. The die's translation unit (R345 to R349): Sv48 walks, the entries it holds, faults held and freed. -/
namespace Sys2Proof.Machine

/-- How an access uses a page (R347): a read or the source of a copy, a write, an atomic. -/
inductive Access where
  | read
  | write
  | atomic
  deriving DecidableEq, Repr

def Access.code (a : Access) : Nat :=
  match a with
  | .read => 0
  | .write => 1
  | .atomic => 2

/-- The index of a 48-bit address at a level: bits 47:39, 38:30, 29:21, 20:12. -/
def vaIndex (va : Word) (level : Nat) : Nat := va.toNat % 2 ^ 48 / 2 ^ (12 + 9 * level) % 512
/-- Page number of an address at a level. -/
def vaPage (va : Word) (level : Nat) : Nat := va.toNat % 2 ^ 48 / 2 ^ (12 + 9 * level)
/-- Physical address field of a page-table entry: its page number × 4 KiB. -/
def pteAddr (pte : Word) : Nat := pte.toNat / 2 ^ 10 % 2 ^ 44 * 2 ^ 12
def pteLeaf (pte : Word) : Bool := pte &&& 0xE != 0

/-- Reason 4 of an entry's own bits (R346). -/
def pteReserved (pte : Word) : Bool := pte.toNat / 2 ^ 54 != 0 || decide (2 ^ 46 ≤ pteAddr pte)

/-- Outcome of a walk: a leaf and its level, or a reason. -/
inductive Walk where
  | leaf (pte : Word) (level : Nat)
  | fail (reason : Nat)
  deriving DecidableEq, Repr

/-- The walk from a table at a level (R345, R346): reasons 5, 1 and 4. -/
def Mem.walk (m : Mem) (va : Word) (table level : Nat) : Walk :=
  match physFlat (table + 8 * vaIndex va level) with
  | none => .fail 4
  | some f =>
    let pte := m.data f
    if m.isBad f then .fail 5
    else if !pte.getLsbD 0 || (pte.getLsbD 2 && !pte.getLsbD 1) then .fail 1
    else if pteLeaf pte then
      if level = 3 then .fail 1
      else if pteReserved pte || pteAddr pte % 2 ^ (12 + 9 * level) != 0 then .fail 4
      else .leaf pte level
    else
      match level with
      | 0 => .fail 1
      | l + 1 =>
        if pteReserved pte || (physFlat (pteAddr pte)).isNone || (physFlat (pteAddr pte + 4088)).isNone then .fail 4
        else m.walk va (pteAddr pte) l

/-- Reasons 2 and 3 of a leaf (R346). -/
def leafReason (pte : Word) (job : BitVec 12) (a : Access) : Option Nat :=
  let r := pte.getLsbD 1
  let w := pte.getLsbD 2
  let denied := match a with
    | .read => !r
    | .write => !w
    | .atomic => !r || !w
  if denied || (job != 0 && !pte.getLsbD 4) then some 2
  else if !pte.getLsbD 6 || (a != .read && !pte.getLsbD 7) then some 3
  else none

/-- Physical address that a leaf gives. -/
def leafAddr (pte : Word) (level : Nat) (va : Word) : Nat :=
  pteAddr pte + va.toNat % 2 ^ (12 + 9 * level)

def TlbEntry.covers (e : TlbEntry) (va : Word) : Bool := vaPage va e.level == e.vpn

/-- Translates an address at a die: the physical address, or the reason of a fault. A leaf that a walk finds is kept. -/
def State.translate (s : State) (d : Nat) (job : BitVec 12) (va : Word) (a : Access) : State × (Nat ⊕ Nat) :=
  let x := (s.dieAt d).x
  let use (s : State) (pte : Word) (level : Nat) : State × (Nat ⊕ Nat) :=
    match leafReason pte job a with
    | some r => (s, .inr r)
    | none => (s, .inl (leafAddr pte level va))
  match x.tlb.find? fun e => e.job == job && e.covers va with
  | some e => use s e.pte e.level
  | none =>
    match FMap.get none x.roots job.toNat with
    | none => (s, .inr 6)
    | some ppn =>
      match s.mem.walk va (ppn * 2 ^ 12) 3 with
      | .fail r => (s, .inr r)
      | .leaf pte level =>
        let e : TlbEntry := { job := job, vpn := vaPage va level, level := level, pte := pte }
        use (s.mapDieAt d fun x => { x with x.tlb := (e :: x.x.tlb).take 2048 }) pte level

/-- Removes the entries of a job, or every job, that cover an address, or every address (R349). -/
def State.invalidate (s : State) (d : Nat) (job : Option (BitVec 12)) (va : Option Word) : State :=
  s.mapDieAt d fun x =>
    { x with x.tlb := x.x.tlb.filter fun e =>
        !((match job with
          | some j => e.job == j
          | none => true) && (match va with
          | some v => e.covers v
          | none => true)) }

/-! ### Faults (R347, R348) -/

def OpenFault.word2 (f : OpenFault) (id : Nat) : Word :=
  let where_ := if f.unit_ = 5 then f.port else slotX f.place + 256 * slotY f.place
  BitVec.ofNat 64 (f.job.toNat + 2 ^ 16 * id + 2 ^ 24 * f.reason + 2 ^ 28 * f.access + 2 ^ 32 * f.unit_ + 2 ^ 40 * where_)

/-- The lowest fault id that is not open at a die. -/
def Xlate.freeId (x : Xlate) : Option Nat := (List.range 256).find? fun i => x.faults.all fun f => f.id != some i

/-- Gives ids, and their notices, to held accesses while ids are free; n bounds them. -/
def State.giveIds (s : State) (d n : Nat) : State :=
  match n with
  | 0 => s
  | k + 1 =>
    let x := (s.dieAt d).x
    match x.faults.find? (fun f => f.id.isNone), x.freeId with
    | some f, some i =>
      let g : OpenFault := { f with id := some i }
      ((s.mapDieAt d fun x => { x with x.faults := x.x.faults.map fun e => if e = f then g else e }).notice d
        { kind := 1, w1 := f.va, w2 := f.word2 i }).giveIds d k
    | _, _ => s

/-- Holds a failing access (R347): it gets an id and one kind-1 notice, as soon as an id is free. -/
def State.holdFault (s : State) (d : Nat) (f : OpenFault) : State :=
  (s.mapDieAt d fun x => { x with x.faults := x.x.faults ++ [f] }).giveIds d 1

/-- Frees an open fault and hands its id on. -/
def State.freeFault (s : State) (d : Nat) (f : OpenFault) : State :=
  (s.mapDieAt d fun x => { x with x.faults := x.x.faults.filter fun e => e ≠ f }).giveIds d 1

/-- The global space 0x02 address of a job-virtual address. -/
def globalVa (va : Word) : Word := 0x0200000000000000 ||| (va &&& 0xFFFFFFFFFFFF)

end Sys2Proof.Machine
end

