-- ==== Sys2Proof/Machine/System.lean ====
section
/-! DEFINITION. Fences of the hart's accesses, system calls, returns, wfi, sfence.vma (R96, R286, R349), and the system forms at
their issuer (R122 to R127). -/
namespace Sys2Proof.Machine

/-! ### Fences (R286, R96) -/

/-- fence.sc: the hart stalls until its earlier accesses have been performed at the scope: a posted form that has left the die,
for no agent before it is performed at its unit, so that every scope waits for the same. -/
def fenceSc (s : State) : State := if s.core.writesVisible then s.retire else s

def execFenceScCore (s : State) : Host.Outcome State Fault Refusal := .next (fenceSc s)
def execFenceScCluster (s : State) : Host.Outcome State Fault Refusal := .next (fenceSc s)
def execFenceScDie (s : State) : Host.Outcome State Fault Refusal := .next (fenceSc s)
def execFenceScWafer (s : State) : Host.Outcome State Fault Refusal := .next (fenceSc s)
/-- fence executes as fence.sc at wafer scope (R70, R96). -/
def execFence (s : State) : Host.Outcome State Fault Refusal := .next (fenceSc s)
/-- fence.i: later fetches see every earlier store of this hart. -/
def execFenceI (s : State) : Host.Outcome State Fault Refusal :=
  .next (if s.core.e.sb.isEmpty then s.retire else s)

/-! ### Calls and returns -/

/-- Cause of ecall by mode. -/
def ecallCause (p : Priv) : Nat :=
  match p with
  | .u => 8
  | .s => 9
  | .m => 11

def execEcall (s : State) : Host.Outcome State Fault Refusal := .next (s.trap (ecallCause s.core.h.mode) 0)
def execEbreak (s : State) : Host.Outcome State Fault Refusal := .next (s.trap 3 s.core.h.pc)

/-- A hart that has gone idle looks for a record, and what waited for its handler looks again (R172). -/
def State.afterReturn (s : State) : State :=
  if s.core.h.hs = .idle then (s.lookRest s.cur).dueAt .taskDispatch s.cur else s

def execMret (s : State) : Host.Outcome State Fault Refusal :=
  .next (if s.core.h.mode = .m then (s.mapCore fun c => c.retired.mret).afterReturn else s.illegal .mret)

def execSret (s : State) : Host.Outcome State Fault Refusal :=
  .next (if s.core.h.mode = .u ∨ (s.core.h.mode = .s ∧ hasBits s.core.c.mstatus 0x400000 = true) then s.illegal .sret
    else (s.mapCore fun c => c.retired.sret).afterReturn)

/-- Whether an interrupt is pending and locally enabled, as wfi waits for (published). -/
def State.wfiPending (s : State) (slot : Nat) : Bool := s.mip slot &&& (s.coreAt slot).c.mie != 0

def execWfi (s : State) : Host.Outcome State Fault Refusal :=
  .next (if s.core.h.mode = .u then s.illegal .wfi
    else if s.wfiPending s.cur then s.retire
    else if s.core.h.mode = .s ∧ hasBits s.core.c.mstatus 0x200000 = true then s.illegal .wfi
    else s.retire.mapHart fun h => { h with hs := .wfi })

/-- sfence.vma acts on the die's own translation unit (R349). -/
def execSfenceVma (rs1 rs2 : XReg) (s : State) : Host.Outcome State Fault Refusal :=
  let i : Instr := .sfenceVma rs1 rs2
  .next (if s.core.h.mode = .u ∨ (s.core.h.mode = .s ∧ hasBits s.core.c.mstatus 0x100000 = true) then s.illegal i
    else s.guard i [rs1, rs2] [] fun s =>
      (s.invalidate (slotDie s.cur) (if rs2 = 0 then none else some ((s.x rs2).setWidth 12))
        (if rs1 = 0 then none else some (s.x rs1))).retire)

/-! ### System forms at the issuer -/

/-- A system form that a network carries (R119, R122, R123, R127): misuse inside an entry; its capability; network 3's queue; then
the capability is read and consumed (R161). -/
def sysForm (i : Instr) (op : SysOp) (needs : BitVec 4) (rs1 rd : XReg) (srcs : List XReg) (sel : State → Word) (s : State) :
    State :=
  s.guard i srcs [rd] fun s =>
    if s.core.inEntry then s.misuse i
    else
      let a := s.x rs1
      match objectFault a 16 with
      | some (k, v) => s.trap k v
      | none =>
        let h := s.peek a 2
        if s.objectWaits a 2 then s
        else match firstTrap
            [(peekGood h 0 && peekGood h 1 && s.capFault s.core.jobOf (peekWord h 0) (peekWord h 1) needs != 0, 26, a),
             (s.core.sendFull 3, 24, 3)] with
          | some (k, v) => s.trap k v
          | none => (s.loadWords a 2).andThen s fun t l =>
            let c : SysCmd := { op := op, issuer := t.cur, target := (capSlot (l.getD 0 0)).getD 0, sel := sel t, rd := rd,
                                serial := t.core.serialOf }
            (((t.queueSend t.cur 3 { dst := c.target, job := t.core.jobOf, rl := none, body := .sys c }).mapCore fun c =>
              c.markPending rd).retire)

def execSysHalt (rs1 : XReg) (s : State) : Host.Outcome State Fault Refusal :=
  .next (sysForm (.sysHalt rs1) .halt rightHalt rs1 0 [rs1] (fun _ => 0) s)
def execSysResume (rs1 : XReg) (s : State) : Host.Outcome State Fault Refusal :=
  .next (sysForm (.sysResume rs1) .resume rightHalt rs1 0 [rs1] (fun _ => 0) s)
def execSysInspect (rd rs1 rs2 : XReg) (s : State) : Host.Outcome State Fault Refusal :=
  .next (sysForm (.sysInspect rd rs1 rs2) .inspect rightInspect rs1 rd [rs1, rs2] (fun t => t.x rs2) s)
def execSysScan (rd rs1 : XReg) (s : State) : Host.Outcome State Fault Refusal :=
  .next (sysForm (.sysScan rd rs1) .scan (rightHalt ||| rightInspect) rs1 rd [rs1] (fun _ => 0) s)
def execSysSig (rd rs1 : XReg) (s : State) : Host.Outcome State Fault Refusal :=
  .next (sysForm (.sysSig rd rs1) .sig rightInspect rs1 rd [rs1] (fun _ => 0) s)

/-- sys.freeze asserts the net at this core once it has retired (R127, R396). -/
def execSysFreeze (s : State) : Host.Outcome State Fault Refusal :=
  .next (if s.core.h.mode = .u then s.illegal .sysFreeze
    else if s.core.inEntry then s.misuse .sysFreeze
    else s.retire.dueAt .freezeAssert s.cur)

/-- sys.remap asks the region controller of the named slot's die for its removal: shifted, or with rs2[0] turned into a hole (R127,
R368). -/
def execSysRemap (rs1 rs2 : XReg) (s : State) : Host.Outcome State Fault Refusal :=
  let i : Instr := .sysRemap rs1 rs2
  .next (if s.core.h.mode = .u then s.illegal i
    else sysForm i .remap rightHalt rs1 0 [rs1, rs2] (fun t => t.x rs2 &&& 1) s)

/-- A sys.remap reaches the region controller of its target's die (R368). -/
def State.remapArrives (s : State) (c : SysCmd) : State :=
  match s.columnOf c.target with
  | none => s
  | some p => s.askRemoval c.target p (c.sel == 1) (if c.sel = 1 then 1 else 0)

/-- The damage of sys.inject to the stored codeword (R126). -/
def Mem.inject (m : Mem) (f kind i : Nat) : Mem :=
  let bit (j : Nat) : BitVec 72 := 1#72 <<< j
  if kind = 2 then m.setPoison f true
  else
    let mask := if kind = 0 then bit i else bit i ^^^ bit ((i + 1) % 72)
    let t := m.tag f
    (m.putData (wordAt f) (m.word (wordAt f) ^^^ mask.setWidth 64)).putTag f { t with flips := t.flips ^^^ mask }

/-- sys.inject (R126): a kind or index that does not exist is an illegal instruction, which stands above an error token among the
sources (R161); the address rules by mode. The damage is no write to the line, so that it breaks no reservation, dooms no
transaction and wakes no task, and it does not wait for the hart's stores (DESIGN CHOICE, entry 120). -/
def execSysInject (rs1 rs2 : XReg) (s : State) : Host.Outcome State Fault Refusal :=
  let i : Instr := .sysInject rs1 rs2
  let kind := (s.x rs2).toNat % 256
  let bit := (s.x rs2).toNat / 256 % 256
  .next (if !s.core.pendingOn [rs1, rs2] && !hasBit s.core.h.hpend rs2 && decide (2 < kind ∨ 71 < bit) then s.illegal i
    else s.guard i [rs1, rs2] [] fun s =>
      let a := s.x rs1
      if a.toNat % 8 ≠ 0 then s.trap 6 a
      else
        match s.resolve s.cur 0 a with
        | .at_ f =>
          if s.core.h.mode = .u && !inWindow a 8 then s.trap 7 a
          else (s.mapMem fun m => m.inject f kind bit).retire
        | _ => s.trap 7 a)

end Sys2Proof.Machine
end

