-- ==== Sys2Proof/Machine/Boundary.lean ====
section
/-! DEFINITION. What happens between two instructions: doomed transactions, overruns, interrupts, fetching and illegal words
(R66, R67, R163 to R171, R185), the passing of local cycles (R20, R169, R200, R204, R263), and the store buffer (R287). -/
namespace Sys2Proof.Machine

/-! ### Local cycles -/

/-- Whether an actor's firing rule is false for a reason of the stall counter (R204). -/
def ActorEntry.stalled (a : ActorEntry) : Bool := a.en && !a.busy && (a.stallCause != 0 || a.held || a.mig)

/-- n lc at a core: cycle unless inhibited, time, the stall counters, and the task budget where they pass at the task's own
privilege (R20, R169, R204). -/
def Core.lcPass (c : Core) (n : Nat) (charged : Bool) : Core :=
  { c with
    n.cycle := if c.c.mcountinhibit.getLsbD 0 then c.n.cycle else c.n.cycle + BitVec.ofNat 64 n,
    n.time := c.n.time + BitVec.ofNat 64 n,
    h.task := if charged then c.h.task.map fun t => { t with count := t.count + n } else c.h.task,
    q.actors := c.q.actors.map fun p =>
      (p.1, if p.2.stalled then { p.2 with stallCount := BitVec.ofNat 32 (min (p.2.stallCount.toNat + n) (2 ^ 32 - 1)) } else p.2),
    u.scrubLc := c.u.scrubLc + n, u.sampleLc := c.u.sampleLc + n }

/-- lc of a core in 1 µs of its own time (R14): 600 + 50 × code. -/
def Core.lcPerMicro (c : Core) : Nat := 600 + 50 * c.g.clk.toNat

/-- n lc in cycles of the cluster-memory clock, 1,500 in 1 µs (R272). -/
def Core.memPass (c : Core) (n : Nat) : Core :=
  let k := c.u.memPart + 1500 * n
  { c with u.memCycles := c.u.memCycles + k / c.lcPerMicro, u.memPart := k % c.lcPerMicro }

/-- The cluster-memory clock follows the core of the cluster that is furthest ahead in its own time; for every 256 cycles each
sub-bank's scrubber is to visit one word (R273; entry 123). -/
def State.clusterPass (s : State) (slot : Nat) : State :=
  let cl := slotCluster slot
  let old := (s.clusterAt cl).cycles
  let new := max old (s.coreAt slot).u.memCycles
  let s1 := s.mapClusterAt cl fun c => { c with cycles := new }
  if new / 256 = old / 256 then s1 else s1.due .clusterScrubTick { place := cl, a := 0, b := new / 256 - old / 256 }

/-- lc in 16 µs of a core's own time (R14, R263). -/
def sampleLcs (c : Core) : Nat := 16 * c.lcPerMicro

/-- n lc pass at a slot; for every 256 of them its scrubber is to visit one word, and for every 16 µs of its own time it is to
publish a sample: an event makes that many, one after another (R200, R263). -/
def State.passLc (s : State) (slot n : Nat) (charged : Bool) : State :=
  let s1 := s.mapCoreAt slot fun c => (c.lcPass n charged).memPass n
  let c := s1.coreAt slot
  let s2 := s1.mapCoreAt slot fun c =>
    { c with u.scrubLc := c.u.scrubLc % 256, u.sampleLc := c.u.sampleLc % sampleLcs c }
  let s3 := if c.u.scrubLc < 256 then s2 else s2.due .scrubTick { place := slot, a := c.u.scrubLc / 256 }
  let s4 := if c.u.sampleLc < sampleLcs c then s3 else s3.due .driftSample { place := slot, a := c.u.sampleLc / sampleLcs c }
  s4.clusterPass slot

/-! ### Interrupts (R163, R165) -/

/-- Whether a hart can act at all: not while its core scans or has failed. -/
def Core.mayRun (c : Core) : Bool := c.u.scan.isNone && !c.u.failed

/-- Pending interrupts that a mode enables, by trap level (published): those for M, and those delegated to S. -/
def Core.enabledM (c : Core) (pend : Word) : Word :=
  if c.mode != .m || hasBits c.c.mstatus mMIE then pend &&& c.c.mie &&& ~~~c.c.mideleg else 0
def Core.enabledS (c : Core) (pend : Word) : Word :=
  if c.mode = .u ∨ (c.mode = .s ∧ hasBits c.c.mstatus mSIE = true) then pend &&& c.c.mie &&& c.c.mideleg else 0

/-- The first of a set of pending interrupts in the published order: SEI, SSI, STI. -/
def firstInterrupt (w : Word) : Option Nat :=
  if w.getLsbD 9 then some 9 else if w.getLsbD 1 then some 1 else if w.getLsbD 5 then some 5 else none

/-- The interrupt that a hart takes next; those that trap to M stand first. -/
def State.pendingInterrupt (s : State) : Option Nat :=
  let pend := s.mip s.cur
  (firstInterrupt (s.core.enabledM pend)).orElse fun _ => firstInterrupt (s.core.enabledS pend)

/-- Whether the hart stands between instructions: not in a fetching form's wait (R276), nor in a closing form that has begun
to release (R183). -/
def Core.atBoundary (c : Core) : Bool := c.mayRun && c.h.wait.isNone && !c.r.closing

/-! ### Overruns and dooms (R169 to R171, R185) -/

/-- A task whose count has reached its budget raises an overrun once. -/
def Core.overrunDue (c : Core) : Option Task :=
  match c.h.task with
  | some t => if c.atTask && decide (c.h.hs = .run) && !t.overran && decide (t.budget ≤ t.count) then some t else none
  | none => none

/-- Marks an overrun as raised. -/
def State.overMark (s : State) : State :=
  s.mapCore fun c => { c with h.task := c.h.task.map fun t => { t with overran := true } }

/-- Raises an overrun: with an entry open the innermost one is rolled back first (R170, R171). -/
def State.overrun (s : State) (t : Task) : State :=
  let tval := BitVec.ofNat 64 t.budget
  match s.core.r.stack with
  | [] => s.overMark.trap 28 tval
  | e :: below =>
    if !s.commandsDone then s
    else
      let r := s.rollback 0 true
      if r.2 then
        (r.1.mapCore fun c => { c with r.carry := some (e.count, carryStamp (e :: below)) }).overMark.trapAt 28 tval e.begin_
      else r.1

/-- Restarts the outermost transaction of a doomed stack with its stamp (R185). -/
def State.doomedRestart (s : State) : State :=
  let st := s.core.r.stack
  match findOutermost st with
  | none => s
  | some t => s.reexecute (st.findIdx fun e => e = t) 0 (some t.stamp)

/-- Whether a doomed transaction is to be restarted now. -/
def Core.doomDue (c : Core) : Bool := c.r.doomed && c.atTask && decide (c.h.hs = .run)

/-- INTERRUPT_TAKEN: the hart takes its pending enabled interrupt, unless an overrun stands above it; place: the slot. -/
def execInterruptTaken (s : State) : Host.Outcome State Fault Refusal :=
  atSlot s fun s => s.asCore s.arg.place fun s =>
    if !s.core.atBoundary || s.core.overrunDue.isSome then s
    else match s.pendingInterrupt with
      | some code => s.interrupt code
      | none => s

/-- STIMER_MATCH: the lc until time reaches stimecmp pass while the hart runs no instruction; STIP is then pending, and ends a
wfi that it is enabled for (R96, R164); place: the slot. -/
def execStimerMatch (s : State) : Host.Outcome State Fault Refusal :=
  atSlot s fun s =>
    let slot := s.arg.place
    let c := s.coreAt slot
    let s1 := if c.n.time.toNat < c.c.stimecmp.toNat then s.passLc slot (c.c.stimecmp.toNat - c.n.time.toNat) (c.atTask)
      else s
    if c.h.hs = .wfi ∧ s1.wfiPending slot = true then s1.mapCoreAt slot fun c => { c with h.hs := .run } else s1

/-- BUDGET_OVERRUN; place: the slot. -/
def execBudgetOverrun (s : State) : Host.Outcome State Fault Refusal :=
  atSlot s fun s => s.asCore s.arg.place fun s =>
    match s.core.overrunDue with
    | some t => if s.core.atBoundary then s.overrun t else s
    | none => s

/-- DOOMED_RESTART; place: the slot. -/
def execDoomedRestart (s : State) : Host.Outcome State Fault Refusal :=
  atSlot s fun s => s.asCore s.arg.place fun s =>
    if s.core.doomDue && s.core.atBoundary then s.doomedRestart else s

/-- ILLEGAL_INSTRUCTION: the hart meets a word (arg.word) that matches no assigned encoding; place: the slot. -/
def execIllegalInstruction (s : State) : Host.Outcome State Fault Refusal :=
  atSlot s fun s => s.asCore s.arg.place fun s =>
    match decode (s.arg.word.setWidth 32) with
    | .ok _ => s
    | .error _ => s.trap 2 ((s.arg.word.setWidth 32).setWidth 64)

/-! ### Fetching (R66, R96, R199) -/

/-- The word at an address as the hart's fetch reads memory. -/
def State.fetchWord (s : State) (pc : Word) : IWord :=
  let f := s.flat pc
  (s.mem.data f).extractLsb' (8 * (f % 8)) 32

/-- What a fetch comes to. -/
inductive Fetched where
  | word (s : State) (w : IWord)
  | trapped (s : State)

/-- Fetches at the pc: cause 1 outside the local windows; an uncorrectable word is consumed. -/
def State.fetch (s : State) : Fetched :=
  let pc := s.core.h.pc
  if !inWindow pc 4 || pc &&& 3 != 0 then .trapped (s.trap 1 pc)
  else
    let x := (s.checkWord (s.flat pc)).transfer [s.flat pc]
    let t := x.1
    if t.mem.isBad (s.flat pc) || x.2 then .trapped (t.consume (pc &&& ~~~7)) else .word t (t.fetchWord pc)

/-! ### Accesses of a task (R388) -/

/-- Whether an instruction accesses memory, so that a task's first access is over once it has retired. -/
def memoryAccess (i : Instr) : Bool :=
  match encode i with
  | none => false
  | some w =>
    let op := w.toNat % 128
    let f3 := w.toNat / 2 ^ 12 % 8
    let vop := w.toNat / 2 ^ 25 % 32
    decide (op = 0x03) || decide (op = 0x23) || decide (op = 0x2F) || (decide (op = 0x2B) && f3 != 1 && f3 != 2)
      || (decide (op = 0x7B) && decide (12 ≤ vop) && decide (vop ≤ 19))

/-! ### The store buffer (R287) -/

/-- The piece of a store that is written next: the one of the 16-byte block that is asked for, else the first (R149). -/
def pickPiece (ps : List (List WordWrite)) (block : Nat) : List WordWrite :=
  (ps.find? fun p => pieceBlock p = block).getD (ps.headD [])

/-- Performs the oldest entry of the acting hart's store buffer, of a store one piece (R149), with what of it remains. none: it
has to wait. -/
def State.drainHead (s : State) (e : SbEntry) (block : Nat) : Option (State × List SbEntry) :=
  match e with
  | .store ps =>
    let p := pickPiece ps block
    some (s.writePiece p, if (ps.erase p).isEmpty then [] else [.store (ps.erase p)])
  | .nb op => (s.nbSend op false).map fun t => (t, [])
  | .bar op => (s.barSend op false).map fun t => (t, [])

/-- STORE_BUFFER_DRAIN: the oldest entry is performed, of a store the piece of block a, or its first, and what follows becomes
due; place: the slot. -/
def execStoreBufferDrain (s : State) : Host.Outcome State Fault Refusal :=
  atSlot s fun s => s.asCore s.arg.place fun s =>
    match s.core.e.sb with
    | [] => s
    | e :: rest =>
      match (s.mapCore fun c => { c with e.sb := rest }).drainHead e s.arg.a with
      | none => s
      | some (t, left) =>
        let u := t.mapCore fun c => { c with e.sb := left ++ c.e.sb }
        if (left ++ rest).isEmpty then u.lookEngines u.cur else u.dueAt .storeBufferDrain u.cur

end Sys2Proof.Machine
end

