-- ==== Sys2Proof/Machine/Engine.lean ====
section
/-! DEFINITION. What the engines share: engine registers (R225 to R230), the orders of a command (R244, R269), the completion
word and token (R247, R269), captures (R228), and fence.eng (R271). -/
namespace Sys2Proof.Machine

/-! ### Engine registers (R225, R226, R265, R299, R337) -/

/-- Reset value of an engine register. -/
def engReset (i : Nat) : Word :=
  if i = 0x04 ∨ i = 0x05 then 0xFFFFFFFF
  else if i = 0x06 ∨ i = 0x09 then 0x7F
  else if i = 0x21 then 1
  else if i = 0x51 then 0x700
  else 0

/-- Bits of an engine register that are not reserved; 0 for an index that names no register. -/
def engMask (i : Nat) : Word :=
  if i = 0x00 ∨ i = 0x02 ∨ i = 0x07 then 0xFFFFFFFFFFFFFFF8
  else if i = 0x01 ∨ i = 0x03 ∨ i = 0x08 then 0xFFFFF8
  else if i = 0x04 ∨ i = 0x05 then 0xFFFFFFFF
  else if i = 0x06 then 0x7F
  else if i = 0x09 then 0x1FF
  else if i = 0x0A ∨ i = 0x24 ∨ i = 0x40 ∨ i = 0x52 then BitVec.allOnes 64
  else if i = 0x20 then 0xFFFFFF
  else if i = 0x21 then 0xFFFF
  else if i = 0x22 ∨ i = 0x23 ∨ i = 0x53 then 0xFFFFFFFFFF
  else if i = 0x25 then 1
  else if i = 0x26 ∨ i = 0x41 ∨ i = 0x54 then 0xFFFFFFFFFFFF
  else if i = 0x27 then 0x1F3F
  else if i = 0x50 then 0xFFF8
  else if i = 0x51 then 0x73F
  else 0

/-- A shadow register (R227). -/
def Core.eng (c : Core) (i : Nat) : Word := if engMask i = 0 then 0 else FMap.get (engReset i) c.e.shadow i
def Core.putEng (c : Core) (i : Nat) (v : Word) : Core :=
  if engMask i = 0 then c else { c with e.shadow := FMap.put (engReset i) c.e.shadow i (v &&& engMask i) }

def execEngWr (rs1 rs2 : XReg) (s : State) : Host.Outcome State Fault Refusal :=
  .next (s.guard (.engWr rs1 rs2) [rs1, rs2] [] fun s =>
    (s.mapCore fun c => c.putEng ((s.x rs1).toNat % 256) (s.x rs2)).retire)
def execEngRd (rd rs1 : XReg) (s : State) : Host.Outcome State Fault Refusal :=
  .next (s.guard (.engRd rd rs1) [rs1] [rd] fun s => (s.writeX rd (s.core.eng ((s.x rs1).toNat % 256))).retire)
def execEngSwap (rd rs1 rs2 : XReg) (s : State) : Host.Outcome State Fault Refusal :=
  .next (s.guard (.engSwap rd rs1 rs2) [rs1, rs2] [rd] fun s =>
    let i := (s.x rs1).toNat % 256
    let t := s.core.eng i
    ((s.mapCore fun c => c.putEng i (s.x rs2)).writeX rd t).retire)

/-! ### Orders of a command (R244, R269) -/

/-- Whether a command of a slot issued before number seq acts as acquire-class at wafer scope: later accesses of the hart wait for it
(R388). -/
def State.acquires (s : State) (slot seq : Nat) : Bool :=
  let c := s.coreAt slot
  c.e.cpq.any (fun k => decide (k.seq < seq) && (ordAcq k.ord || k.acq))
    || c.e.drq.any (fun k => decide (k.seq < seq) && (ordAcq k.ord || k.acq) && k.ctl.toNat % (if k.vec then 2 else 16) != 1)
    || (s.clusterAt (slotCluster slot)).layq.any fun k => k.slot == slot && decide (k.seq < seq) && (ordAcq k.ord || k.acq)

/-- Whether a command may read its first byte: the hart's earlier stores have been performed, and with acquire every
earlier access and command of the hart, at the scope. -/
def State.mayStart (s : State) (slot seq : Nat) (o : Ord) : Bool :=
  (s.coreAt slot).e.sb.isEmpty && !s.acquires slot seq && (!o.aq || ((s.coreAt slot).writesVisible && s.earlierDone slot seq))

/-- Whether a command that has started may write its completion word and token: with release, every earlier write of the hart is
visible at the scope; the hart's stores before it were performed when it started. -/
def State.mayFinish (s : State) (slot seq : Nat) (o : Ord) : Bool :=
  !o.rl || ((s.coreAt slot).m.nbOut == 0 && s.earlierDone slot seq)

/-- Writes the completion word, if there is one, as fe.stf does, and then the token register; a bad address drops the
write and becomes the token (R269). -/
def State.completeEngine (s : State) (slot : Nat) (rd : XReg) (serial : Nat) (fin v : Word) : State :=
  if fin = 0 then s.completeToken slot rd serial v
  else if (checkAccess true fin 8).isSome then s.completeToken slot rd serial (errToken 0x11)
  else
    let f := (localFlat slot fin).getD 0
    ((s.mapMem fun m => m.writeWord f v).putFull none f true).completeToken slot rd serial v

/-- The captures of a matrix operation (R226, R228). -/
def Core.capture (c : Core) : MxCapture :=
  { regs := c.e.shadow.filter fun p => decide (p.1 < 0x20), fmta := c.g.fmta, fmtb := c.g.fmtb, fmtc := c.g.fmtc,
    scla := c.g.scla, sclb := c.g.sclb, top := c.g.top }

/-- A number for a command that is issued now at a slot. -/
def State.nextSeqAt (s : State) (slot : Nat) : State × Nat :=
  (s.mapCoreAt slot fun c => { c with e.issued := c.e.issued + 1 }, (s.coreAt slot).e.issued)
/-- A number for a command that the acting hart issues now. -/
def State.nextSeq (s : State) : State × Nat := s.nextSeqAt s.cur

/-! ### fence.eng (R271) -/

/-- Whether every command of a slot to its engines has completed. -/
def State.enginesDone (s : State) (slot : Nat) : Bool :=
  let c := s.coreAt slot
  c.e.mxq.isEmpty && c.e.cpq.isEmpty && c.e.drq.isEmpty
    && !(s.clusterAt (slotCluster slot)).layq.any fun l => l.slot = slot

/-- fence.eng: the hart stalls until its issued commands have completed. Their writes are then visible at every scope,
since an engine command completes only once its writes have been applied. -/
def fenceEng (s : State) : State := if s.enginesDone s.cur then s.retire else s

def execFenceEngCore (s : State) : Host.Outcome State Fault Refusal := .next (fenceEng s)
def execFenceEngCluster (s : State) : Host.Outcome State Fault Refusal := .next (fenceEng s)
def execFenceEngDie (s : State) : Host.Outcome State Fault Refusal := .next (fenceEng s)
def execFenceEngWafer (s : State) : Host.Outcome State Fault Refusal := .next (fenceEng s)

end Sys2Proof.Machine
end

