-- ==== Sys2Proof/Machine/Matrix.lean ====
section
/-! DEFINITION. The matrix unit (R222 to R246): its forms, the operands an operation reads, its checks, its arithmetic (R56 to R61)
and its completion. -/
namespace Sys2Proof.Machine

/-! ### Formats and places of elements (R22, R45, R224, R231) -/

/-- Bits of an element by format code: T8, T6, LUT6, BF16, FP16, FP32, FP64. -/
def fmtBits (f : BitVec 4) : Nat :=
  match f.toNat with
  | 0 => 8
  | 1 => 6
  | 2 => 6
  | 3 => 16
  | 4 => 16
  | 5 => 32
  | _ => 64

/-- KOf (R224). -/
def fmtK (f : BitVec 4) : Nat :=
  match f.toNat with
  | 0 => 64
  | 1 => 64
  | 2 => 64
  | 3 => 32
  | 4 => 32
  | 5 => 8
  | _ => 4

/-- Addresses of the bytes that hold element i of a row. -/
def elemBytes (f : BitVec 4) (row : Word) (i : Nat) : List Word :=
  let bit := if fmtBits f = 6 then 24 * (i / 4) + 6 * (i % 4) else fmtBits f * i
  (List.range ((bit % 8 + fmtBits f + 7) / 8)).map fun k => row + BitVec.ofNat 64 (bit / 8 + k)

/-- Bytes of a memory as the unit reads them, by address in the windows of a slot. -/
def Mem.localByte (m : Mem) (slot : Nat) (a : Word) : Nat :=
  match localFlat slot a with
  | some f => (m.readByte f).toNat
  | none => 0

/-- A little-endian number from addresses. -/
def Mem.localNat (m : Mem) (slot : Nat) (l : List Word) : Nat :=
  match l with
  | [] => 0
  | a :: t => m.localByte slot a + 256 * m.localNat slot t

/-- The code of element i of a row. -/
def Mem.elemCode (m : Mem) (slot : Nat) (f : BitVec 4) (row : Word) (i : Nat) : Nat :=
  let v := m.localNat slot (elemBytes f row i)
  if fmtBits f = 6 then v / 2 ^ (6 * (i % 4) % 8) % 64 else v

/-- Value of a code (R46, R49 to R51, R55, R56). -/
def mxDecode (f : BitVec 4) (top : Bool) (lut : List (Word × Bool)) (c : Nat) : Num :=
  match f.toNat with
  | 0 => Taper.t8.decode top c
  | 1 => Taper.t6.decode top c
  | 2 => bf16.decode ((lut.getD (c / 4) (0, false)).1.toNat / 2 ^ (16 * (c % 4)) % 2 ^ 16)
  | 3 => bf16.decode c
  | 4 => fp16.decode c
  | 5 => fp32.decode c
  | _ => fp64.decode c

/-- Address of a scale byte of row or column i in K-block b; none where the operand takes no scales (R25, R57). -/
def scaleAddr (csr : Word) (f : BitVec 4) (b i : Nat) : Option Word :=
  if csr.getLsbD 63 && decide (f.toNat < 5) then some ((csr &&& 0x1FFFFE0) + BitVec.ofNat 64 (32 * b + i)) else none

/-! ### An operation's parameters -/

def MxOp.reg (o : MxOp) (i : Nat) : Word := FMap.get (engReset i) o.cap.regs i
def MxOp.rows (o : MxOp) : List Nat := (List.range 32).filter fun i => (o.reg 4).getLsbD i
def MxOp.cols (o : MxOp) : List Nat := (List.range 32).filter fun j => (o.reg 5).getLsbD j
def MxOp.kk (o : MxOp) : Nat := min (fmtK o.cap.fmta) (fmtK o.cap.fmtb)
def MxOp.kv (o : MxOp) : Nat := if o.reg 6 = 0x7F then o.kk else (o.reg 6).toNat
/-- FP64 mode (R236). -/
def MxOp.dbl (o : MxOp) : Bool := o.cap.fmta == 6 && o.cap.fmtb == 6
/-- Whether some product is valid. -/
def MxOp.any (o : MxOp) : Bool := !o.rows.isEmpty && !o.cols.isEmpty && o.kv != 0

def MxOp.rowA (o : MxOp) (i : Nat) : Word := o.reg 0 + BitVec.ofNat 64 i * o.reg 1
def MxOp.rowB (o : MxOp) (q : Nat) : Word := o.reg 2 + BitVec.ofNat 64 q * o.reg 3
def MxOp.rowS (o : MxOp) (i : Nat) : Word := o.reg 7 + BitVec.ofNat 64 i * o.reg 8

/-- Index of accumulator element (i, j): of its word, or of the low word in FP64 mode (R236). -/
def MxOp.zIndex (o : MxOp) (z i j : Nat) : Nat := z * 1024 + (if o.dbl then 64 * i + 2 * j else 32 * i + j)

/-- Scale byte of A's row i in block b as memory holds it; 127 where none applies. -/
def MxOp.scaleA (o : MxOp) (m : Mem) (slot b i : Nat) : Nat :=
  match scaleAddr o.cap.scla o.cap.fmta b i with
  | some a => m.localByte slot a
  | none => 127
def MxOp.scaleB (o : MxOp) (m : Mem) (slot b j : Nat) : Nat :=
  match scaleAddr o.cap.sclb o.cap.fmtb b j with
  | some a => m.localByte slot a
  | none => 127

/-- Addresses of the scale bytes that the valid products use (R232). -/
def MxOp.scaleReads (o : MxOp) : List Word :=
  if !o.any then []
  else (List.range ((o.kv + 31) / 32)).flatMap fun b =>
    o.rows.filterMap (scaleAddr o.cap.scla o.cap.fmta b) ++ o.cols.filterMap (scaleAddr o.cap.sclb o.cap.fmtb b)

/-- Whether A's element (i, q), or B's (q, j), stands in a valid product outside every zero-marked block (R232). -/
def MxOp.usesA (o : MxOp) (m : Mem) (slot i q : Nat) : Bool :=
  o.scaleA m slot (q / 32) i != 0xFF && o.cols.any fun j => o.scaleB m slot (q / 32) j != 0xFF
def MxOp.usesB (o : MxOp) (m : Mem) (slot q j : Nat) : Bool :=
  o.scaleB m slot (q / 32) j != 0xFF && o.rows.any fun i => o.scaleA m slot (q / 32) i != 0xFF

/-- Addresses of the operand bytes that an operation reads (R231, R232). -/
def MxOp.elemReads (o : MxOp) (m : Mem) (slot : Nat) : List Word :=
  if !o.any then []
  else
    (if o.form = .mma then o.rows.flatMap fun i => (List.range o.kv).flatMap fun q =>
        if o.usesA m slot i q then elemBytes o.cap.fmta (o.rowA i) q else []
      else [])
      ++ (List.range o.kv).flatMap fun q => o.cols.flatMap fun j =>
        if o.usesB m slot q j then elemBytes o.cap.fmtb (o.rowB q) j else []

/-- Addresses of the tile bytes and scale bytes that mx.store writes (R239, R240). -/
def MxOp.tileBytes (o : MxOp) : List Word :=
  o.rows.flatMap fun i =>
    if fmtBits o.cap.fmtc = 6 then
      ((List.range 8).filter fun g => o.cols.any fun j => j / 4 = g).flatMap fun g =>
        (List.range 3).map fun k => o.rowS i + BitVec.ofNat 64 (3 * g + k)
    else o.cols.flatMap fun j => elemBytes o.cap.fmtc (o.rowS i) j
def MxOp.scaleWrites (o : MxOp) : List Word :=
  if (o.reg 9).getLsbD 8 then o.rows.map fun i => o.reg 0xA + BitVec.ofNat 64 i else []

/-! ### Checks (R233) -/

/-- The first failing check of the table Matrix error codes: its number; 0 none. -/
def MxOp.check (o : MxOp) (m : Mem) (slot : Nat) : Nat :=
  let out (l : List Word) : Bool := l.any fun a => (localFlat slot a).isNone
  let fa := o.cap.fmta.toNat
  let kvBad := decide (o.kk < (o.reg 6).toNat) && o.reg 6 != 0x7F
  match o.form with
  | .zero => 0
  | .mma =>
    if (o.cap.fmta = 6) ≠ (o.cap.fmtb = 6) then 1
    else if o.dbl && o.zc.getLsbD 0 then 2
    else if kvBad then 4
    else if out o.scaleReads || out (o.elemReads m slot) then 5 else 0
  | .mmac =>
    if (fa = 2 ∨ 5 ≤ fa) ∨ o.cap.fmtb = 6 then 1
    else if o.kk = 64 ∧ o.za.getLsbD 0 = true then 2
    else if kvBad then 4
    else if out o.scaleReads || out (o.elemReads m slot) then 5 else 0
  | .store =>
    let auto := (o.reg 9).getLsbD 8
    if o.dbl && o.zc.getLsbD 0 then 2
    else if o.cap.fmtc = 2 ∨ (auto = true ∧ 1 < o.cap.fmtc.toNat) ∨ (auto = false ∧ (o.reg 9).toNat % 256 = 0xFF) then 3
    else if out o.tileBytes || out o.scaleWrites then 5 else 0

/-- Error token of a failing check: 0x101 to 0x105. -/
def mxErr (n : Nat) : Word := errToken (0x100 + n)

/-! ### Arithmetic (R58, R59, R237, R238) -/

/-- One group of eight products added into an accumulator element (R58). -/
def macStep (acc : Nat × Flags) (ps : List Num) : Nat × Flags :=
  let p := exactSum ps
  let a := fp32.decode acc.1
  let t := Num.add false a p.1
  let r := fp32.round rne t
  (r.1, acc.2 ||| r.2 ||| flagIf (p.2 || fp32.isSNaN acc.1 || (t.isNaN && !a.isNaN && !p.1.isNaN)) flagNV)

/-- An element of the accumulator before the operation. -/
def Core.zWord (c : Core) (i : Nat) : Nat := (FMap.get 0 c.e.z i).toNat
def Core.zElem (c : Core) (dbl : Bool) (i : Nat) : Nat :=
  if dbl then c.zWord i + 2 ^ 32 * c.zWord (i + 1) else c.zWord i

/-- Index of the accumulator element that mx.mmac reads as A(i, q) (R238). -/
def MxOp.aIndex (o : MxOp) (i q : Nat) : Nat := (o.za.toNat + q / 32) * 1024 + 32 * i + q % 32

/-- The down-converter: the code of an A element and its flags (R238). -/
def MxOp.convertA (o : MxOp) (c : Core) (m : Mem) (slot i q : Nat) : Nat × Flags :=
  let z := c.zWord (o.aIndex i q)
  let v := (fp32.decode z).scale (127 - (o.scaleA m slot (q / 32) i : Int))
  let r := match o.cap.fmta.toNat with
    | 0 => Taper.t8.round o.cap.top v
    | 1 => Taper.t6.round o.cap.top v
    | 3 => bf16.round rne v
    | _ => fp16.round rne v
  (r.1, r.2 ||| flagIf (fp32.isSNaN z) flagNV)

/-- Code of A(i, q) with the flags of its conversion. -/
def MxOp.codeA (o : MxOp) (c : Core) (m : Mem) (slot i q : Nat) : Nat × Flags :=
  if o.form = .mmac then o.convertA c m slot i q else (m.elemCode slot o.cap.fmta (o.rowA i) q, 0)

/-- ValA and ValB; none in a zero-marked block. -/
def MxOp.valA (o : MxOp) (c : Core) (m : Mem) (slot i q : Nat) : Option Num :=
  if o.usesA m slot i q then
    some ((mxDecode o.cap.fmta o.cap.top o.lut (o.codeA c m slot i q).1).scale ((o.scaleA m slot (q / 32) i : Int) - 127))
  else none
def MxOp.valB (o : MxOp) (m : Mem) (slot q j : Nat) : Option Num :=
  if o.usesB m slot q j then
    some ((mxDecode o.cap.fmtb o.cap.top o.lut (m.elemCode slot o.cap.fmtb (o.rowB q) j)).scale
      ((o.scaleB m slot (q / 32) j : Int) - 127))
  else none

def product (a b : Option Num) : Num :=
  match a, b with
  | some x, some y => x.mul y
  | _, _ => .zero

/-- The products of an element in order of q, over all of K: +0 where q is masked. -/
def products (a b : List (Option Num)) (k : Nat) : List Num :=
  (List.range k).map fun q => product (a.getD q none) (b.getD q none)

/-- Accumulates over groups of eight; n groups. -/
def macGroups (acc : Nat × Flags) (ps : List Num) (n : Nat) : Nat × Flags :=
  match n with
  | 0 => acc
  | g + 1 => macGroups (macStep acc (ps.take 8)) (ps.drop 8) g

/-- FP64: one fused addition for each q (R59); a masked product is +0. -/
def mac64 (acc : Nat × Flags) (l : List (Nat × Nat)) : Nat × Flags :=
  l.foldl (fun acc p => let r := fp64.fma rne false false p.1 p.2 acc.1; (r.1, acc.2 ||| r.2)) acc

/-- New elements of the accumulator, with all the flags, of mx.mma and mx.mmac. -/
def MxOp.multiply (o : MxOp) (c : Core) (m : Mem) (slot : Nat) : List (Nat × Nat) × Flags :=
  let zc := o.zc.toNat
  if o.dbl then
    let l := o.rows.flatMap fun i => o.cols.map fun j =>
      let ps := (List.range 4).map fun q =>
        if q < o.kv then (m.elemCode slot 6 (o.rowA i) q, m.elemCode slot 6 (o.rowB q) j) else (0, 0)
      let ix := o.zIndex zc i j
      (ix, mac64 (c.zElem true ix, 0) ps)
    (l.map fun p => (p.1, p.2.1), joinFlags (l.map fun p => p.2.2))
  else
    let qs := List.range o.kv
    let bs := o.cols.map fun j => (j, qs.map fun q => o.valB m slot q j)
    let l := o.rows.flatMap fun i =>
      let a := qs.map fun q => o.valA c m slot i q
      bs.map fun b =>
        let ix := o.zIndex zc i b.1
        (ix, macGroups (c.zElem false ix, 0) (products a b.2 o.kk) (o.kk / 8))
    let conv := if o.form = .mmac then o.rows.flatMap fun i => qs.map fun q =>
        if o.usesA m slot i q then (o.convertA c m slot i q).2 else 0
      else []
    let zb := o.scaleReads.any fun a => m.localByte slot a == 0xFF
    (l.map fun p => (p.1, p.2.1), joinFlags (l.map fun p => p.2.2) ||| joinFlags conv ||| flagIf (o.any && zb) flagZB)

/-! ### mx.store (R239, R240) -/

def MxOp.zNum (o : MxOp) (c : Core) (i j : Nat) : Num :=
  let v := c.zElem o.dbl (o.zIndex o.zc.toNat i j)
  if o.dbl then fp64.decode v else fp32.decode v

/-- Scale byte of a row: fixed, or from the largest finite non-zero magnitude. -/
def MxOp.rowScale (o : MxOp) (c : Core) (i : Nat) : Int :=
  if (o.reg 9).getLsbD 8 then
    let logs := o.cols.filterMap fun j =>
      match o.zNum c i j with
      | .fin _ m e => if m = 0 then none else some (floorLog2 m e)
      | _ => none
    match logs.max? with
    | none => 127
    | some l => max 0 (min 254 (l - (if o.cap.fmtc = 0 then 3 else 1) + 127))
  else ((o.reg 9).toNat % 256 : Nat)

/-- Code of an element in the output format, with its flags. -/
def MxOp.outCode (o : MxOp) (c : Core) (i j : Nat) : Nat × Flags :=
  let z := c.zElem o.dbl (o.zIndex o.zc.toNat i j)
  let v := (o.zNum c i j).scale (127 - o.rowScale c i)
  let r := match o.cap.fmtc.toNat with
    | 0 => Taper.t8.round o.cap.top v
    | 1 => Taper.t6.round o.cap.top v
    | 3 => bf16.round rne v
    | 4 => fp16.round rne v
    | 5 => fp32.round rne v
    | _ => fp64.round rne v
  (r.1, r.2 ||| flagIf (if o.dbl then fp64.isSNaN z else fp32.isSNaN z) flagNV)

/-- The bytes of one row of the tile: address, value. -/
def MxOp.rowOut (o : MxOp) (c : Core) (i : Nat) : List (Word × Nat) :=
  if fmtBits o.cap.fmtc = 6 then
    ((List.range 8).filter fun g => o.cols.any fun j => j / 4 = g).flatMap fun g =>
      let v := (List.range 4).foldl (fun acc k =>
        acc + (if o.cols.contains (4 * g + k) then (o.outCode c i (4 * g + k)).1 * 2 ^ (6 * k) else 0)) 0
      (List.range 3).map fun k => (o.rowS i + BitVec.ofNat 64 (3 * g + k), v / 256 ^ k % 256)
  else
    o.cols.flatMap fun j =>
      let v := (o.outCode c i j).1
      ((elemBytes o.cap.fmtc (o.rowS i) j).zipIdx.map fun p => (p.1, v / 256 ^ p.2 % 256))

/-- All bytes that mx.store writes, and its flags. -/
def MxOp.storeOut (o : MxOp) (c : Core) : List (Word × Nat) × Flags :=
  (o.rows.flatMap (o.rowOut c)
    ++ (if (o.reg 9).getLsbD 8 then o.rows.map fun i => (o.reg 0xA + BitVec.ofNat 64 i, (o.rowScale c i).toNat) else []),
   joinFlags (o.rows.flatMap fun i => o.cols.map fun j => (o.outCode c i j).2))

/-- The words that bytes at local addresses of a slot make, by 16-byte piece (R241). -/
def localPieces (slot : Nat) (l : List (Word × Nat)) : List (List WordWrite) :=
  pieces (l.foldl (fun ws p => match localFlat slot p.1 with
    | some f => addWrite ws f 1 p.2
    | none => ws) [])

/-- Writes a piece as an engine: its partial words merge and keep their poison (R241). -/
def State.enginePiece (s : State) (ws : List WordWrite) : State :=
  let s1 := s.each (ws.filter fun w => w.mask ≠ BitVec.allOnes 8) fun s w => s.checkWord w.addr
  (s1.mapMem fun m => ws.foldl (fun m w => m.mergeWord w.addr w.mask w.data) m).touchAll none (ws.map WordWrite.addr)

/-! ### Events (R222, R223) -/

/-- Accumulator codewords that an operation reads. -/
def MxOp.zReads (o : MxOp) (m : Mem) (slot : Nat) : List Nat :=
  let c := match o.form with
    | .zero => []
    | _ => o.rows.flatMap fun i => o.cols.map fun j => o.zIndex o.zc.toNat i j / 2
  if o.form = .mmac then
    c ++ o.rows.flatMap fun i => (List.range o.kv).filterMap fun q =>
      if o.usesA m slot i q then some (o.aIndex i q / 2) else none
  else c

/-- Memory as an operation has read it: its operand words as they then were (R243). -/
def MxOp.view (o : MxOp) (m : Mem) : Mem := o.got.foldl (fun m p => m.writeWord p.1 p.2.1) m

/-- Operand words that an operation has still to read: the scale bytes first, which say what else it reads (R232). -/
def MxOp.unread (o : MxOp) (m : Mem) (slot : Nat) : List Nat :=
  let open_ (l : List Word) : List Nat :=
    ((l.filterMap fun a => (localFlat slot a).map wordAt).eraseDups).filter fun f => (FMap.find o.got f).isNone
  match o.form with
  | .mma | .mmac => match open_ o.scaleReads with
    | [] => open_ (o.elemReads (o.view m) slot)
    | l => l
  | _ => []

/-- Whether an operand of an operation is LUT6, so that it uses the code table. -/
def MxOp.lutted (o : MxOp) : Bool :=
  o.form == .mma && o.cap.fmta == 2 || (o.form == .mma || o.form == .mmac) && o.cap.fmtb == 2

/-- Table words of an operation whose operands are LUT6 are uncorrectable. -/
def MxOp.lutBad (o : MxOp) : Bool := o.lutted && o.any && o.lut.any Prod.snd

/-- Token of an operation that completes without error (R234). -/
def MxOp.token (o : MxOp) : Word :=
  match o.form with
  | .store => BitVec.ofNat 64 (o.tileBytes.length + o.scaleWrites.length)
  | .zero => 0
  | _ => BitVec.ofNat 64 (o.rows.length * o.cols.length * o.kv)

/-- Writes accumulator elements. -/
def Core.putZ (c : Core) (dbl : Bool) (l : List (Nat × Nat)) : Core :=
  { c with e.z := l.foldl (fun z p =>
      if dbl then FMap.put 0 (FMap.put 0 z p.1 (BitVec.ofNat 32 p.2)) (p.1 + 1) (BitVec.ofNat 32 (p.2 / 2 ^ 32))
      else FMap.put 0 z p.1 (BitVec.ofNat 32 p.2)) c.e.z }

/-- Replaces the head operation. -/
def State.setMx (s : State) (slot : Nat) (o : MxOp) : State := s.mapCoreAt slot fun c => { c with e.mxq := o :: c.e.mxq.drop 1 }

/-- The operation leaves the queue with its token. Its flags reach the hart's gvfflags, also while its task sleeps, until that has
ended (R61). -/
def State.mxFinish (s : State) (slot : Nat) (o : MxOp) (v : Word) (f : Flags) : State :=
  let s1 := s.mapCoreAt slot fun c => { c with e.mxq := c.e.mxq.drop 1 }
  let s2 := if o.gone then s1 else s1.raiseAt slot f
  (s2.completeEngine slot o.rd o.serial o.fin v).lookEngines slot

/-- MX_OP_START (R223): the head operation starts once the hart's earlier stores have been performed: its checks, and the
code table of a LUT6 operand sampled (R30). -/
def execMxOpStart (s : State) : Host.Outcome State Fault Refusal :=
  atSlot s fun s =>
    let slot := s.arg.place
    match (s.coreAt slot).e.mxq with
    | [] => s
    | o :: _ =>
      if o.started || !s.mayStart slot o.seq o.ord then s
      else
        let base := spFlat slot (s.coreAt slot).g.codes.toNat
        let ws := (List.range 16).map fun i => base + 8 * i
        let s1 := if o.lutted then s.each ws State.checkWord else s
        let o1 : MxOp := { o with
          started := true, lut := if o.lutted then ws.map fun f => (s1.mem.data f, s1.mem.isBad f) else [] }
        match o.check s1.mem slot with
        | 0 => (s1.setMx slot o1).dueAt .mxOpComplete slot
        | n => if s.mayFinish slot o.seq o.ord then s1.mxFinish slot o (mxErr n) 0 else s

/-- Reads one open 16-byte piece of the operands (R243). -/
def State.mxRead (s : State) (slot : Nat) (o : MxOp) (l : List Nat) : State :=
  let bs := (l.map (· / 16)).eraseDups
  let x := s.chosen bs.length
  let ws := l.filter fun f => f / 16 = bs.getD x.2 0
  let s1 := x.1.each ws State.checkWord
  (s1.setMx slot { o with got := ws.foldl (fun g f => FMap.place (FMap.drop g f) f (s1.mem.data f, s1.mem.isBad f)) o.got }).dueAt
    .mxOpComplete slot

/-- Writes one open piece of the result of mx.store; after the last one the operation completes (R241, R243). -/
def State.mxWrite (s : State) (slot : Nat) (o : MxOp) (ps : List (List WordWrite)) (f : Flags) : State :=
  let x := s.chosen ps.length
  let p := ps.getD x.2 []
  if (ps.erase p).isEmpty then (x.1.enginePiece p).mxFinish slot o o.token f
  else ((x.1.enginePiece p).setMx slot { o with out := some (ps.erase p, f) }).dueAt .mxOpComplete slot

/-- An upset strikes one of the accumulator codewords that an operation reads: a correctable one is corrected, rewritten and
counted; an uncorrectable one, or one whose path fails its parity check, stays bad until mx.zero (R246). -/
def State.mxUpset (s : State) (slot : Nat) (l : List Nat) (u : Upset) : State :=
  let i := l.getD (u.word % max l.length 1) 0
  let c := s.coreAt slot
  let e := eccCheck ((FMap.get 0 c.e.z (2 * i + 1) ++ FMap.get 0 c.e.z (2 * i)) ^^^ u.flips.setWidth 64) u.flips
  let s1 := s.mapCoreAt slot fun c =>
    { c with e.z := FMap.put 0 (FMap.put 0 c.e.z (2 * i) (e.data.setWidth 32)) (2 * i + 1) (e.data.extractLsb' 32 32),
             e.zbad := if (e.bad || u.path) && !c.e.zbad.contains i then i :: c.e.zbad else c.e.zbad }
  if e.corrected then s1.countCore slot else s1

/-- What reading its accumulators comes to for an operation: with the damage that it meets (R246). -/
def State.mxStrike (s : State) (slot : Nat) (l : List Nat) : State :=
  if l.isEmpty then s
  else match s.nextUpset with
    | (t, some u) => t.mxUpset slot l u
    | (t, none) => t

/-- An operation that has read its operands takes effect and completes; an uncorrectable word ends it without effect (R233,
R246). -/
def State.mxEffect (s : State) (slot : Nat) (o : MxOp) : State :=
  let m := o.view s.mem
  if o.form = .zero then
    let z := o.zc.toNat
    (s.mapCoreAt slot fun c =>
      { c with e.z := c.e.z.filter (fun p => p.1 / 1024 ≠ z), e.zbad := c.e.zbad.filter fun i => i / 512 ≠ z }).mxFinish
      slot o 0 0
  else
    let s1 := s.mxStrike slot (o.zReads m slot)
    let c := s1.coreAt slot
    if o.lutBad || (o.got.any fun p => p.2.2) || (o.zReads m slot).any c.e.zbad.contains then s1.mxFinish slot o tokenBad 0
    else if o.form = .store then
      let w := o.storeOut c
      match localPieces slot w.1 with
      | [] => s1.mxFinish slot o o.token w.2
      | ps => (s1.setMx slot { o with out := some (ps, w.2) }).dueAt .mxOpComplete slot
    else
      let r := o.multiply c m slot
      (s1.mapCoreAt slot fun c => c.putZ o.dbl r.1).mxFinish slot o o.token r.2

/-- MX_OP_COMPLETE (R223): a started operation reads an open piece of its operands, or takes effect, or writes an open piece of its
result. -/
def execMxOpComplete (s : State) : Host.Outcome State Fault Refusal :=
  atSlot s fun s =>
    let slot := s.arg.place
    match (s.coreAt slot).e.mxq with
    | [] => s
    | o :: _ =>
      if !o.started then s
      else match o.out with
        | some (ps, f) => if ps.length ≤ 1 && !s.mayFinish slot o.seq o.ord then s else s.mxWrite slot o ps f
        | none =>
          match o.check (o.view s.mem) slot with
          | 0 => match o.unread s.mem slot with
            | [] => if s.mayFinish slot o.seq o.ord then s.mxEffect slot o else s
            | l => s.mxRead slot o l
          | n => if s.mayFinish slot o.seq o.ord then s.mxFinish slot o (mxErr n) 0 else s

/-! ### Issue (R222, R227, R228, R234) -/

/-- An operation enters the matrix queue. -/
def State.mxEnter (s : State) (slot : Nat) (o : MxOp) : State :=
  (s.mapCoreAt slot fun c => { c with e.mxq := c.e.mxq ++ [o] }).dueAt .mxOpStart slot

/-- A matrix form: it stalls while its token register is pending or the queue holds two operations. -/
def mxIssue (i : Instr) (form : MxForm) (zc za : ZReg) (rd : XReg) (o : Ord) (s : State) : State :=
  s.guard i [] [rd] fun s =>
    if 2 ≤ s.core.e.mxq.length then s
    else
      let n := s.nextSeq
      ((n.1.mxEnter s.cur { form := form, zc := zc, za := za, rd := rd, ord := o, cap := s.core.capture,
                            serial := s.core.serialOf, job := s.core.jobOf, seq := n.2 }).mapCore fun c =>
        c.markPending rd).retire

def execMxMma (o : Ord) (rd : XReg) (zc : ZReg) (s : State) : Host.Outcome State Fault Refusal :=
  .next (mxIssue (.mxMma o rd zc) .mma zc 0 rd o s)
def execMxMmac (o : Ord) (rd : XReg) (zc za : ZReg) (s : State) : Host.Outcome State Fault Refusal :=
  .next (mxIssue (.mxMmac o rd zc za) .mmac zc za rd o s)
def execMxStore (o : Ord) (rd : XReg) (zc : ZReg) (s : State) : Host.Outcome State Fault Refusal :=
  .next (mxIssue (.mxStore o rd zc) .store zc 0 rd o s)

/-- mx.zero (R242). -/
def mxZero (zc : ZReg) (s : State) : State := mxIssue (.mxZero zc) .zero zc 0 0 Ord.plain s

def execMxZero0 (s : State) : Host.Outcome State Fault Refusal := .next (mxZero 0 s)
def execMxZero1 (s : State) : Host.Outcome State Fault Refusal := .next (mxZero 1 s)
def execMxZero2 (s : State) : Host.Outcome State Fault Refusal := .next (mxZero 2 s)
def execMxZero3 (s : State) : Host.Outcome State Fault Refusal := .next (mxZero 3 s)
def execMxZero4 (s : State) : Host.Outcome State Fault Refusal := .next (mxZero 4 s)
def execMxZero5 (s : State) : Host.Outcome State Fault Refusal := .next (mxZero 5 s)
def execMxZero6 (s : State) : Host.Outcome State Fault Refusal := .next (mxZero 6 s)
def execMxZero7 (s : State) : Host.Outcome State Fault Refusal := .next (mxZero 7 s)

/-- fence.mx (R245): the hart stalls until the queued operations have completed. -/
def fenceMx (s : State) : State := if s.core.e.mxq.isEmpty then s.retire else s

def execFenceMxCore (s : State) : Host.Outcome State Fault Refusal := .next (fenceMx s)
def execFenceMxCluster (s : State) : Host.Outcome State Fault Refusal := .next (fenceMx s)
def execFenceMxDie (s : State) : Host.Outcome State Fault Refusal := .next (fenceMx s)
def execFenceMxWafer (s : State) : Host.Outcome State Fault Refusal := .next (fenceMx s)

end Sys2Proof.Machine
end

