-- ==== Sys2Proof/Machine/Space.lean ====
section
/-! DEFINITION. Bytes that engines read and write in any space (R197, R248, R267): where they stand, moved and replicated
pages (R391 to R395), poison, full bits, and release-class writes to another die (R385 to R388). -/
namespace Sys2Proof.Machine

/-! ### Where a byte stands -/

/-- What an engine's address comes to: a byte of storage; a translation fault; a page that is being moved; an error. -/
inductive Spot where
  | at_ (f : Nat)
  | fault (reason : Nat)
  | wait
  | bad (code : Nat)
  deriving DecidableEq, Repr

/-- The move of the page that holds a physical address (R394). -/
def State.moveOf (s : State) (pa : Nat) : Option Move :=
  s.dies.findSome? fun p => p.2.pages.moves.find? fun m => m.oldPa = pa / 4096 * 4096

/-- The replica of a page on a die (R391). -/
def State.replicaOn (s : State) (d : Nat) (job : BitVec 12) (va : Word) : Option Replica :=
  (s.dieAt d).pages.repl.find? fun r => r.job == job && vaPage r.va 0 == vaPage va 0

/-- Whether a job's page at home is replicated on some die: its sequencer die (R392). -/
def State.sequencerOf (s : State) (job : BitVec 12) (f : Nat) : Option Nat :=
  s.dies.findSome? fun p =>
    (p.2.pages.repl.find? fun r => r.job == job && decide (r.home = f / 4096 * 4096)).map fun r => r.seqDie

/-- Storage of a physical address that names any. -/
def storageSpot (pa : Nat) : Spot :=
  match physFlat pa with
  | some f => .at_ f
  | none => .bad 0x11

/-- Storage of a physical address for a request that has waited for its page: a page that has moved stands at its new home, a
removed one faults, and what comes directly for a new home waits for the end of the move (R394, R395). -/
def State.heldSpot (s : State) (pa : Nat) : Spot :=
  if s.dies.any fun p => p.2.pages.moves.any fun m => !m.removal && decide (m.newPa = pa / 4096 * 4096) then .wait
  else match s.moveOf pa with
  | some m => if !m.copied then .wait else if m.removal then .fault 1 else storageSpot (m.newPa + pa % 4096)
  | none => storageSpot pa

/-- Whether a request waits at its home for a moved page. -/
def State.piecesFor (s : State) (pa : Nat) : Bool :=
  s.wafer.actors.any fun p => p.2.pieces.any fun r => r.place.isNone && decide (r.pa / 4096 * 4096 = pa / 4096 * 4096)

/-- Storage of a physical address for a new access: while requests wait at the old home it goes behind them (R394, R395). -/
def State.physSpot (s : State) (pa : Nat) : Spot := if s.piecesFor pa then .wait else s.heldSpot pa

/-- An address of a job's access that comes by a die's translation unit. -/
def State.dramSpot (s : State) (d : Nat) (job : BitVec 12) (va : Word) (acc : Access) : State × Spot :=
  match (if acc = .read then s.replicaOn d job va else none) with
  | some r => (s, .at_ (r.at_ + va.toNat % 4096))
  | none =>
    match s.translate d job va acc with
    | (t, .inr r) => (t, .fault r)
    | (t, .inl pa) => (t, t.physSpot pa)

/-- An address of an engine's access for a slot and job. -/
def State.spot (s : State) (slot : Nat) (job : BitVec 12) (a : Word) (acc : Access) : State × Spot :=
  match s.resolve slot job a with
  | .at_ f => (s, .at_ f)
  | .bad c => (s, .bad c)
  | .dram va => s.dramSpot (slotDie slot) job va acc

/-- The runs of storage that n bytes from an address take, cut at 4 KiB boundaries, as far as they resolve, and what stopped
them. fuel bounds the runs. -/
def State.runs (s : State) (slot : Nat) (job : BitVec 12) (a : Word) (n : Nat) (acc : Access) (fuel : Nat) :
    State × List (Nat × Nat) × Option Spot :=
  match fuel with
  | 0 => (s, [], none)
  | k + 1 =>
    if n = 0 then (s, [], none)
    else
      let m := min n (4096 - a.toNat % 4096)
      match s.spot slot job a acc with
      | (t, .at_ f) =>
        let r := t.runs slot job (a + BitVec.ofNat 64 m) (n - m) acc k
        (r.1, (f, m) :: r.2.1, r.2.2)
      | (t, x) => (t, [], some x)

/-- Bytes that runs take. -/
def runLength (l : List (Nat × Nat)) : Nat := (l.map Prod.snd).sum

/-- The flat addresses of the first n bytes of runs. -/
def runBytes (l : List (Nat × Nat)) (n : Nat) : List Nat :=
  (l.flatMap fun r => (List.range r.2).map fun k => r.1 + k).take n

/-- The first code of R248 that some byte of an element's source or destination gives before translation. -/
def State.spaceError (s : State) (slot : Nat) (job : BitVec 12) (a : Word) (n fuel : Nat) : Option Nat :=
  match fuel with
  | 0 => none
  | k + 1 =>
    if n = 0 then none
    else
      let m := min n (4096 - a.toNat % 4096)
      match s.resolve slot job a with
      | .bad c => some c
      | _ => s.spaceError slot job (a + BitVec.ofNat 64 m) (n - m) k

/-! ### Reading and writing (R267) -/

/-- Reads bytes by flat address as an engine: each with whether its word is poisoned or uncorrectable. -/
def State.engineRead (s : State) (l : List Nat) : State × List (Byte × Bool) :=
  let s1 := s.each (l.map wordAt).eraseDups State.checkWord
  (s1, l.map fun f => (s1.mem.readByte f, s1.mem.isBad f))

/-- A word that an engine writes: its bytes, and whether one of them comes from a bad word. -/
structure EngWord where
  addr : Nat
  mask : BitVec 8
  data : Word
  bad : Bool
  deriving DecidableEq, Repr

/-- The words that bytes in order of address make. -/
def engWords (l : List (Nat × Byte × Bool)) : List EngWord :=
  match l with
  | [] => []
  | (f, b, p) :: t =>
    let mask : BitVec 8 := BitVec.ofNat 8 (2 ^ (f % 8))
    let data : Word := b.setWidth 64 <<< (8 * (f % 8))
    match engWords t with
    | [] => [{ addr := wordAt f, mask := mask, data := data, bad := p }]
    | w :: ws =>
      if w.addr = wordAt f ∧ w.mask &&& mask = 0 then
        { w with mask := w.mask ||| mask, data := w.data ||| data, bad := w.bad || p } :: ws
      else { addr := wordAt f, mask := mask, data := data, bad := p } :: w :: ws

/-- Whether a flat address is a DRAM word, which carries no full bit. -/
def isDram (f : Nat) : Bool := decide (dramBase ≤ f)

/-- Writes words as an engine: whole words take poison from the data, partial ones keep theirs too; full bits set where fe
asks for it (R267). -/
def State.engineStore (s : State) (l : List (Nat × Byte × Bool)) (fe : Bool) : State :=
  let ws := engWords l
  let s1 := s.each ws fun s w =>
    if w.mask = BitVec.allOnes 8 then s.mapMem fun m => (m.writeWord w.addr w.data).setPoison w.addr w.bad
    else
      let t := s.checkWord w.addr
      t.mapMem fun m => (m.mergeWord w.addr w.mask w.data).setPoison w.addr (m.isBad w.addr || w.bad)
  s1.putFulls none (ws.map EngWord.addr)
    (if fe then (ws.filter fun w => w.mask = BitVec.allOnes 8 && !isDram w.addr).map fun w => (w.addr, true) else [])

/-- Sends the bytes of a write that stand in replicated pages of its job to the replicas, in the sequencer's order (R392); owner: the
slot and number of the command that made the write. -/
def State.replicate (s : State) (job : BitVec 12) (owner : Option (Nat × Nat)) (l : List Nat) : State :=
  match l.filter fun f => isDram f && (s.sequencerOf job f).isSome with
  | [] => s
  | f :: t =>
    let d := (s.sequencerOf job f).getD 0
    let n := FMap.get 0 (s.dieAt d).pages.numbers job.toNat + 1
    let r : ReplWrite := { job := job, bytes := (f :: t).map fun g => (g, s.mem.readByte g, s.mem.isBad g), number := n, owner := owner }
    ((s.mapDieAt d fun x => { x with pages.numbers := FMap.put 0 x.pages.numbers job.toNat n }).mapWafer fun w =>
      { w with replq := w.replq ++ [r] }).dueAt .replicaWrite d

/-- Writes bytes for a job at once. -/
def State.engineWrite (s : State) (job : BitVec 12) (owner : Option (Nat × Nat)) (l : List (Nat × Byte × Bool)) (fe : Bool) : State :=
  (s.engineStore l fe).replicate job owner (l.map Prod.fst)

/-! ### Writes of commands with release, reads of commands with acquire (R385 to R388) -/

/-- The die that applies a write of a job to a byte. -/
def State.writeDie (s : State) (job : BitVec 12) (f : Nat) : Nat :=
  match (if isDram f then s.sequencerOf job f else none) with
  | some d => d
  | none => flatDie f

/-- Release-class writes of a command to other dies wait there; none while one cannot leave: a write of the hart that left the
die is not acknowledged, or an earlier command has writes to make (R288, R385). -/
def State.releaseBytes (s : State) (slot seq : Nat) (job : BitVec 12) (l : List (Nat × Byte × Bool)) (fe : Bool)
    (dies : List Nat) : Option State :=
  match dies with
  | [] => some s
  | d :: rest =>
    match (if s.earlierLeft slot seq then s.takeRelease slot else none) with
    | none => none
    | some (t, tr) =>
      let b : RelBody := .engine slot seq job (l.filter fun p => s.writeDie job p.1 = d) fe
      (t.waitRelease d { trailer := tr, body := b }).releaseBytes slot seq job l fe rest

/-- A command's write: at once, but for bytes on other dies of a command with release at wafer scope. -/
def State.commandWrite (s : State) (slot seq : Nat) (job : BitVec 12) (o : Ord) (l : List (Nat × Byte × Bool)) (fe : Bool) :
    Option State :=
  let away := if ordRel o then l.filter fun p => s.writeDie job p.1 ≠ slotDie slot else []
  match s.releaseBytes slot seq job away fe ((away.map fun p => s.writeDie job p.1).eraseDups) with
  | none => none
  | some t => some (if away.isEmpty then t.engineWrite job (some (slot, seq)) l fe
      else t.engineWrite job (some (slot, seq)) (l.filter fun p => s.writeDie job p.1 = slotDie slot) fe)

/-- The first other die, of those that serve an acquire-class read of a slot, whose applied vector does not cover the
slot's die's clock (R388). -/
def State.uncovered (s : State) (slot : Nat) (acq : Bool) (l : List (Nat × Nat)) : Option Nat :=
  if !acq then none
  else
    let h := (s.clocksAt (slotDie slot)).h
    ((l.map fun r => flatDie r.1).eraseDups.filter fun d => d ≠ slotDie slot).find? fun d =>
      !(s.clocksAt d).covers { clock := h, rels := [] }

/-- The clock that an acquire-class read of a slot carries. -/
def State.acquireClock (s : State) (slot : Nat) : FMap (BitVec 32) := (s.clocksAt (slotDie slot)).h

/-- Every core with engine commands looks at them again. -/
def State.lookAllEngines (s : State) : State :=
  s.each (s.cores.filter fun p => !p.2.e.cpq.isEmpty || !p.2.e.drq.isEmpty
    || (s.clusterAt (slotCluster p.1)).layq.any fun l => l.slot = p.1) fun s p => s.lookEngines p.1

/-! ### Pieces (R149, R269) -/

/-- n bytes from an address cut at multiples of b: offset and length of each part. -/
def cutAt (b : Nat) (a : Word) (n : Nat) : List (Nat × Nat) :=
  let m := min n (b - a.toNat % b)
  if n = 0 then [] else (0, m) :: (List.range ((n - m + b - 1) / b)).map fun i => (m + b * i, min b (n - m - b * i))

/-- The aligned 16-byte pieces of n bytes from an address. -/
def piecesOf (a : Word) (n : Nat) : List (Nat × Nat) := cutAt 16 a n

/-- Whether the running task's first access is still to come and acts as acquire-class (R388). -/
def Core.firstAcquire (c : Core) : Bool :=
  match c.h.task with
  | some t => t.acq
  | none => false

end Sys2Proof.Machine
end

