-- ==== Sys2Proof/Machine/Copy.lean ====
section
/-! DEFINITION. The copy engine (R265 to R270). -/
namespace Sys2Proof.Machine

/-! ### Issue (R266, R267, R184) -/

/-- A 40-bit signed step. -/
def step40 (w : Word) : Word := (w.setWidth 40).signExtend 64

/-- Whether a command reads an index list. -/
def CpForm.indexed (f : CpForm) : Bool :=
  match f with
  | .gath | .scat => true
  | _ => false

/-- Whether rows of len bytes, n of them a signed step apart, lie in the issuing core's scratchpad. -/
def rowsInScratchpad (d : Word) (step : Word) (n len : Nat) : Bool :=
  decide (n = 0) || decide (len = 0)
    || (let last : Int := (d.toNat : Int) + ((n : Int) - 1) * step.toInt
        decide (d.toNat + len ≤ spSize) && decide (0 ≤ last) && decide (last + len ≤ spSize))

/-- Whether a command's destination stays within the core (R266). -/
def CpCmd.inCore (c : CpCmd) : Bool := c.form != .scat && rowsInScratchpad c.dst c.dpitch c.rows c.len

/-- A command enters the copy engine's queue. -/
def State.cpEnter (s : State) (slot : Nat) (c : CpCmd) : State :=
  (s.mapCoreAt slot fun k => { k with e.cpq := k.e.cpq ++ [c] }).dueAt .cpCommandRun slot

/-- The command that a copy form captures. -/
def Core.cpCapture (c : Core) (form : CpForm) (src dst : Word) (rd : XReg) (o : Ord) (seq : Nat) : CpCmd :=
  { form := form, src := src, dst := dst, len := (c.eng 0x20).toNat, rows := (c.eng 0x21).toNat,
    spitch := step40 (c.eng 0x22), dpitch := step40 (c.eng 0x23), ibase := c.eng 0x24, fe := (c.eng 0x25).getLsbD 0,
    fin := c.eng 0x26, mxop := c.eng 0x27, cap := c.capture, rd := rd, ord := o, serial := c.serialOf, job := c.jobOf,
    seq := seq, acq := c.firstAcquire }

/-- A copy form: held inside an entry where its destination leaves the core, always inside a transaction (R184, R266); it
stalls while the queue holds four commands (R267). -/
def cpIssue (i : Instr) (form : CpForm) (o : Ord) (rd rs1 rs2 : XReg) (s : State) : State :=
  s.guard i [rs1, rs2] [rd] fun s =>
    let n := s.nextSeq
    let c := s.core.cpCapture form (s.x rs1) (s.x rs2) rd o n.2
    if s.core.inTxn || (s.core.inEntry && !c.inCore) then
      s.hold (.cp c) rd fun s => (s.mapCore fun c => c.markHeld rd).retire
    else if 4 ≤ s.core.e.cpq.length then s
    else ((n.1.cpEnter s.cur c).mapCore fun c => c.markPending rd).retire

def execCpGo (o : Ord) (rd rs1 rs2 : XReg) (s : State) : Host.Outcome State Fault Refusal :=
  .next (cpIssue (.cpGo o rd rs1 rs2) .go o rd rs1 rs2 s)
def execCpGomx (o : Ord) (rd rs1 rs2 : XReg) (s : State) : Host.Outcome State Fault Refusal :=
  .next (cpIssue (.cpGomx o rd rs1 rs2) .gomx o rd rs1 rs2 s)
def execCpGath (o : Ord) (rd rs1 rs2 : XReg) (s : State) : Host.Outcome State Fault Refusal :=
  .next (cpIssue (.cpGath o rd rs1 rs2) .gath o rd rs1 rs2 s)
def execCpScat (o : Ord) (rd rs1 rs2 : XReg) (s : State) : Host.Outcome State Fault Refusal :=
  .next (cpIssue (.cpScat o rd rs1 rs2) .scat o rd rs1 rs2 s)

/-! ### Run (R267, R268) -/

/-- Replaces the command that runs. -/
def State.setCp (s : State) (slot : Nat) (c : CpCmd) : State :=
  s.mapCoreAt slot fun k => { k with e.cpq := c :: k.e.cpq.drop 1 }

/-- The command's token is known; its completion becomes due. -/
def State.cpFinish (s : State) (slot : Nat) (c : CpCmd) (v : Word) : State :=
  (s.setCp slot { c with phase := .finished v }).dueAt .cpComplete slot

/-- Whether a command's index list is 4-aligned and lies in one local window (R267). -/
def CpCmd.listOk (c : CpCmd) : Bool := decide (c.ibase.toNat % 4 = 0) && inWindow c.ibase (4 * c.rows)

/-- The next element's index: none where its word is bad (R267). -/
def State.cpIndex (s : State) (slot : Nat) (c : CpCmd) : State × Option Nat :=
  match c.idx with
  | some i => (s, some i)
  | none =>
    if !c.form.indexed then (s, some c.row)
    else
      let f := (localFlat slot (c.ibase + BitVec.ofNat 64 (4 * c.row))).getD 0
      let s1 := s.checkWord f
      if s1.mem.isBad f then (s1.mapMem fun m => m.setPoison f true, none)
      else (s1, some ((s1.mem.data f).toNat / 2 ^ (8 * (f % 8)) % 2 ^ 32))

/-- Source and destination of an element by the table Copy forms. -/
def CpCmd.addrs (c : CpCmd) (idx : Nat) : Word × Word :=
  let r := BitVec.ofNat 64 c.row
  let i := BitVec.ofNat 64 idx
  (c.src + (if c.form = .gath then i else r) * c.spitch, c.dst + (if c.form = .scat then i else r) * c.dpitch)

/-- Holds the command at a byte of its element (R268, R347). -/
def State.cpPause (s : State) (slot : Nat) (c : CpCmd) (va : Word) (reason : Nat) (a : Access) : State :=
  (s.setCp slot { c with phase := .paused }).holdFault (slotDie slot)
    { id := none, va := va, job := c.job, reason := reason, access := a.code, unit_ := 0, place := slot }

/-- What an address that is no storage comes to for the command. -/
def State.cpStop (s : State) (slot : Nat) (c : CpCmd) (va : Word) (a : Access) (x : Spot) : State :=
  match x with
  | .fault r => s.cpPause slot c va r a
  | .bad code => s.cpFinish slot c (errToken code)
  | _ => s

/-- Reads one open piece of an element, n bytes from offset o of its source a; l: the pieces still open after it. After the last one
the element is written (R267). -/
def State.cpRead (s : State) (slot : Nat) (c : CpCmd) (a b : Word) (o n : Nat) (l : List (Nat × Nat)) : State :=
  let va := a + BitVec.ofNat 64 o
  match s.spot slot c.job va .read with
  | (t, .at_ f) =>
    match t.uncovered slot (ordAcq c.ord || c.acq) [(f, n)] with
    | some d => (t.setCp slot { c with phase := .acquire }).waitAcquire d { clock := t.acquireClock slot, body := .cp slot }
    | none =>
      let rd := t.engineRead ((List.range n).map fun k => f + k)
      (rd.1.setCp slot { c with
        buf := rd.2.zipIdx.foldl (fun m p => FMap.place m (o + p.2) p.1) c.buf,
        err := if rd.2.any Prod.snd then some tokenBad else c.err,
        stage := some (if l.isEmpty then (true, piecesOf b c.len) else (false, l)) }).dueAt .cpCommandRun slot
  | (t, x) => t.cpStop slot c va .read x

/-- Writes one open piece of an element, n bytes at offset o of its destination b; after the last one the next element is due
(R267). -/
def State.cpWrite (s : State) (slot : Nat) (c : CpCmd) (b : Word) (o n : Nat) (l : List (Nat × Nat)) : State :=
  let va := b + BitVec.ofNat 64 o
  match s.spot slot c.job va .write with
  | (t, .at_ f) =>
    let bytes := (List.range n).map fun k => (f + k, (FMap.find c.buf (o + k)).getD (0, false))
    match t.commandWrite slot c.seq c.job c.ord bytes c.fe with
    | none => s
    | some u => (u.setCp slot (if l.isEmpty then { c with row := c.row + 1, idx := none, stage := none, buf := [] }
        else { c with stage := some (true, l) })).dueAt .cpCommandRun slot
  | (t, x) => t.cpStop slot c va .write x

/-- Moves one open piece of the present element, from a to b: the whole element is read before it is written (R267, R269). -/
def State.cpMove (s : State) (slot : Nat) (c : CpCmd) (a b : Word) (writing : Bool) (l : List (Nat × Nat)) : State :=
  let x := s.chosen l.length
  let p := l.getD x.2 (0, 0)
  if writing then x.1.cpWrite slot c b p.1 p.2 (l.erase p) else x.1.cpRead slot c a b p.1 p.2 (l.erase p)

/-- The next element: its index, its space, and then its pieces (R267). -/
def State.cpBegin (s : State) (slot : Nat) (c : CpCmd) : State :=
  match s.cpIndex slot c with
  | (t, none) => t.cpFinish slot c tokenBad
  | (t, some i) =>
    let p := c.addrs i
    match (t.spaceError slot c.job p.1 c.len (c.len + 1)).or (t.spaceError slot c.job p.2 c.len (c.len + 1)) with
    | some code => t.cpFinish slot c (errToken code)
    | none => (t.setCp slot { c with idx := some i, stage := some (false, piecesOf p.1 c.len) }).dueAt .cpCommandRun slot

/-- CP_COMMAND_RUN (R267): the head command checks its list, begins its next element once its writes so far have been applied, or
moves a piece of its present one. -/
def execCpCommandRun (s : State) : Host.Outcome State Fault Refusal :=
  atSlot s fun s =>
    let slot := s.arg.place
    match (s.coreAt slot).e.cpq with
    | [] => s
    | c :: _ =>
      if c.phase ≠ .ready then s
      else match c.stage with
        | some (w, l) =>
          let p := c.addrs (c.idx.getD 0)
          s.cpMove slot c p.1 p.2 w l
        | none =>
          if c.row = 0 ∧ s.mayStart slot c.seq c.ord = false then s
          else if c.len = 0 ∨ c.rows = 0 then s.cpFinish slot c 0
          else if c.form.indexed && !c.listOk then s.cpFinish slot c (errToken 0x14)
          else if c.rows ≤ c.row then s.cpFinish slot c (c.err.getD (BitVec.ofNat 64 (c.len * c.rows)))
          else if !s.landed slot c.seq then s
          else s.cpBegin slot c

/-! ### Completion (R269, R270) -/

/-- The follow-on operation of a cp.gomx, from cp.mxop; it takes its number as it enters the queue (R222, R270). -/
def CpCmd.followOn (c : CpCmd) : MxOp :=
  { form := if c.mxop.getLsbD 8 then .mmac else .mma, zc := c.mxop.extractLsb' 0 3, za := c.mxop.extractLsb' 3 3,
    rd := c.rd, ord := { aq := c.mxop.getLsbD 10, rl := c.mxop.getLsbD 9, scope := c.mxop.extractLsb' 11 2 },
    cap := c.cap, serial := c.serial, job := c.job, fin := c.fin, gone := c.gone }

/-- CP_COMPLETE (R269, R270): once its writes have landed and its release is met, the command writes its completion word
and token, or hands them to its follow-on. -/
def execCpComplete (s : State) : Host.Outcome State Fault Refusal :=
  atSlot s fun s =>
    let slot := s.arg.place
    match (s.coreAt slot).e.cpq with
    | [] => s
    | c :: rest =>
      match c.phase with
      | .finished v =>
        let pop (s : State) : State := s.mapCoreAt slot fun k => { k with e.cpq := rest }
        if !s.mayFinish slot c.seq c.ord || !s.landed slot c.seq then s
        else if c.form = .gomx ∧ v.getLsbD 63 = false then
          if 2 ≤ (s.coreAt slot).e.mxq.length then s
          else
            let n := (pop s).nextSeqAt slot
            (n.1.mxEnter slot { c.followOn with seq := n.2 }).lookEngines slot
        else ((pop s).completeEngine slot c.rd c.serial c.fin v).lookEngines slot
      | _ => s

end Sys2Proof.Machine
end

