-- ==== Sys2Proof/Machine/Layout.lean ====
section
/-! DEFINITION. The Bobbin layout engine (R291 to R303). -/
namespace Sys2Proof.Machine

/-! ### Tensor shape records and the mapping (R291 to R294) -/

/-- The 512 bits of a record as one number. -/
def wordsNat (l : List Word) : Nat :=
  match l with
  | [] => 0
  | w :: t => w.toNat + 2 ^ 64 * wordsNat t

/-- Two's complement value of the low n bits. -/
def signedOf (v n : Nat) : Int := (BitVec.ofNat n v).toInt

def tsrRank (v : Nat) : Nat := v / 2 ^ 72 % 8

/-- A record from its 64 bytes. -/
def Tsr.ofNat (v : Nat) : Tsr :=
  { base := BitVec.ofNat 64 v, fmt := BitVec.ofNat 4 (v / 2 ^ 64), ov := v.testBit 80,
    ext := (List.range (tsrRank v)).map fun d => v / 2 ^ (8 * (16 + 3 * d)) % 2 ^ 24,
    str := (List.range (tsrRank v)).map fun d => signedOf (v / 2 ^ (8 * (34 + 5 * d))) 40 }

/-- Check 1 of a record: no reserved bit set, a format of the table, rank 1 to 6. -/
def tsrOk (v : Nat) : Bool :=
  let w1 := v / 2 ^ 64 % 2 ^ 64
  let r := tsrRank v
  decide (w1 / 2 ^ 17 = 0) && decide (w1 / 2 ^ 11 % 32 = 0) && decide (w1 / 2 ^ 4 % 16 = 0) && decide (w1 % 16 < 7)
    && decide (1 ≤ r) && decide (r ≤ 6)
    && (List.range 6).all fun d => decide (d < r)
      || (decide (v / 2 ^ (8 * (16 + 3 * d)) % 2 ^ 24 = 0) && decide (v / 2 ^ (8 * (34 + 5 * d)) % 2 ^ 40 = 0))

/-- A virtual dimension: number, extent, stride (R294). -/
structure VDim where
  num : Nat
  ext : Nat
  str : Int
  deriving DecidableEq, Repr

/-- Fields of the mapping word (R293). -/
def dmwF (w : Word) (k : Nat) : Nat := if k = 0 then w.toNat / 2 ^ 27 % 16 else w.toNat / 2 ^ 34 % 16
def dmwD (w : Word) (k : Nat) : Nat := if k = 0 then w.toNat / 2 ^ 24 % 8 else w.toNat / 2 ^ 31 % 8
def dmwMap (w : Word) (p : Nat) : Nat := w.toNat / 2 ^ (3 * p) % 8
def dmwRev (w : Word) (p : Nat) : Bool := w.getLsbD (18 + p)
def dmwMerge (w : Word) (d : Nat) : Bool := w.getLsbD (38 + d)

/-- Splits one virtual dimension: its inner part takes a number of its own. -/
def splitDim (l : List VDim) (d f inner : Nat) : List VDim :=
  match l.find? fun v => v.num = d with
  | none => l
  | some v =>
    (l.map fun u => if u.num = d then { u with ext := v.ext / 2 ^ f, str := v.str * 2 ^ f } else u)
      ++ [{ num := inner, ext := 2 ^ f, str := v.str }]

/-- Virtual dimensions before and after the splits. -/
def Tsr.dims (t : Tsr) : List VDim :=
  ((List.range t.ext.length).zip (t.ext.zip t.str)).map fun p => { num := p.1, ext := p.2.1, str := p.2.2 }
def Tsr.split0 (t : Tsr) (w : Word) : List VDim :=
  if dmwF w 0 = 0 then t.dims else splitDim t.dims (dmwD w 0) (dmwF w 0) 6
def Tsr.vdims (t : Tsr) (w : Word) : List VDim :=
  if dmwF w 1 = 0 then t.split0 w else splitDim (t.split0 w) (dmwD w 1) (dmwF w 1) 7

/-- Whether a used split names a source dimension that it divides evenly (check 4). -/
def splitOk (l : List VDim) (rank : Nat) (w : Word) (k : Nat) : Bool :=
  decide (dmwF w k = 0) || (decide (dmwD w k < rank)
    && l.any fun v => v.num = dmwD w k && decide (v.ext % 2 ^ dmwF w k = 0))

/-- An output dimension (R294): extent, stride of its virtual dimension, whether it runs backwards. -/
structure ODim where
  ext : Nat
  str : Int
  rev : Bool
  deriving DecidableEq, Repr

/-- The output dimensions before the merges. -/
def Tsr.outputs (t : Tsr) (w : Word) : List ODim :=
  (List.range (t.vdims w).length).filterMap fun p =>
    ((t.vdims w).find? fun v => v.num = dmwMap w p).map fun v => { ext := v.ext, str := v.str, rev := dmwRev w p }

/-- Extents after the merges, from output dimension p on. -/
def mergedExts (w : Word) (l : List Nat) (p : Nat) : List Nat :=
  match l with
  | [] => []
  | e :: t =>
    match mergedExts w t (p + 1) with
    | m :: ms => if dmwMerge w p then (e * m) :: ms else e :: m :: ms
    | [] => [e]

/-! ### Checks at issue (R298, R299) -/

/-- Size of an element in bytes; 1 for the packed formats, whose bases are never misaligned. -/
def elemSize (f : BitVec 4) : Nat := if fmtBits f = 6 then 1 else fmtBits f / 8

/-- Dimensions by rising |stride|, ties by number. -/
def insertDim (x : Nat × Nat) (l : List (Nat × Nat)) : List (Nat × Nat) :=
  match l with
  | [] => [x]
  | y :: t => if x.1 < y.1 then x :: y :: t else y :: insertDim x t

/-- The spacing test (R299). -/
def Tsr.spaced (t : Tsr) : Bool :=
  let dims := (t.ext.zip t.str).filter fun p => decide (1 < p.1)
  let l := dims.foldl (fun acc p => insertDim (p.2.natAbs, p.1) acc) []
  match l with
  | [] => true
  | x :: _ => decide (1 ≤ x.1) && (l.zip (l.drop 1)).all fun p => decide (p.1.1 * p.1.2 ≤ p.2.1)

/-- Number of a record's elements. -/
def Tsr.count (t : Tsr) : Nat := t.ext.foldl (· * ·) 1

/-- What the issue checks find (R298): a failure's tval, or that the command may run; empty: check 7. -/
inductive LayCheck where
  | fail (tval : Word)
  | empty
  | ok
  deriving DecidableEq, Repr

def layCheck (sa da : Word) (sv dv : Nat) (w : Word) : LayCheck :=
  let s := Tsr.ofNat sv
  let d := Tsr.ofNat dv
  let rank := s.ext.length
  let v := (s.vdims w).length
  let nums := (s.vdims w).map VDim.num
  let maps := (List.range v).map (dmwMap w)
  if !tsrOk sv then .fail sa
  else if !tsrOk dv then .fail da
  else if w.toNat / 2 ^ 43 ≠ 0 ∨ (dmwF w 0 = 0 ∧ dmwD w 0 ≠ 0) ∨ (dmwF w 1 = 0 ∧ dmwD w 1 ≠ 0) then .fail 0
  else if !splitOk s.dims rank w 0 || !splitOk (s.split0 w) rank w 1 then .fail sa
  else if 6 < v then .fail sa
  else if (nums.any fun n => decide (maps.count n ≠ 1))
      || (List.range 6).any (fun p => decide (v ≤ p) && (decide (dmwMap w p ≠ 0) || dmwRev w p))
      || (List.range 5).any (fun e => decide (v ≤ e + 1) && dmwMerge w e) then .fail 0
  else if s.ext.contains 0 || d.ext.contains 0 then .empty
  else if d.fmt ≠ s.fmt then .fail da
  else if d.ext ≠ mergedExts w ((s.outputs w).map ODim.ext) 0 then .fail da
  else if s.base.toNat % elemSize s.fmt ≠ 0 then .fail sa
  else if d.base.toNat % elemSize d.fmt ≠ 0 then .fail da
  else if !d.spaced then .fail da
  else if !s.ov && !s.spaced then .fail sa
  else .ok

/-! ### Elements (R292, R295) -/

/-- Indices of the n-th element in row-major order of extents, last dimension fastest. -/
def indicesOf (l : List Nat) (n : Nat) : List Nat :=
  match l with
  | [] => []
  | _ :: t => let size := t.foldl (· * ·) 1
    (n / size) :: indicesOf t (n % size)

/-- Position of the n-th destination element in its record, and of the source element that it receives. -/
def LayCmd.dstPos (c : LayCmd) (n : Nat) : Int :=
  ((indicesOf c.dst.ext n).zip c.dst.str).foldl (fun acc p => acc + p.1 * p.2) 0
def LayCmd.srcPos (c : LayCmd) (n : Nat) : Int :=
  let o := c.src.outputs c.dmw
  ((indicesOf (o.map ODim.ext) n).zip o).foldl (fun acc p =>
    acc + (if p.2.rev then ((p.2.ext : Int) - 1 - p.1) else p.1) * p.2.str) 0

/-- Addresses of the bytes that hold the element at a position (R292). -/
def Tsr.bytesAt (t : Tsr) (p : Int) : List Word :=
  if fmtBits t.fmt = 6 then elemBytes t.fmt (t.base + BitVec.ofInt 64 (3 * (p / 4))) (p % 4).toNat
  else
    let e := elemSize t.fmt
    (List.range e).map fun k => t.base + BitVec.ofInt 64 (p * e) + BitVec.ofNat 64 k

/-- Addresses that an element's destination takes: whole groups for the packed formats (R45). -/
def Tsr.slotsAt (t : Tsr) (p : Int) : List Word :=
  if fmtBits t.fmt = 6 then (List.range 3).map fun k => t.base + BitVec.ofInt 64 (3 * (p / 4)) + BitVec.ofNat 64 k
  else t.bytesAt p

/-- The destination bytes of an element with the bits of each that it writes: offset in the slots, value, mask. -/
def Tsr.patch (t : Tsr) (p : Int) (code : Nat) : List (Nat × Nat) :=
  if fmtBits t.fmt = 6 then
    let sh := 6 * (p % 4).toNat
    (List.range 3).map fun k => (code * 2 ^ sh / 256 ^ k % 256, 63 * 2 ^ sh / 256 ^ k % 256)
  else (List.range (elemSize t.fmt)).map fun k => (code / 256 ^ k % 256, 255)

/-- Elements of the next pass (R301): 2,048 bytes at most, or elements that touch 682 groups at most. n bounds the walk. -/
def LayCmd.passLen (c : LayCmd) (groups : List Int) (pos n : Nat) : Nat :=
  match n with
  | 0 => 0
  | k + 1 =>
    let g := c.dstPos pos / 4
    let groups' := if groups.contains g then groups else g :: groups
    if 682 < groups'.length then 0 else 1 + c.passLen groups' (pos + 1) k

def LayCmd.pass (c : LayCmd) : Nat :=
  let rest := c.dst.count - c.pos
  if fmtBits c.dst.fmt = 6 then c.passLen [] c.pos (min rest 2728) else min rest (2048 / elemSize c.dst.fmt)

/-- Bytes that the elements occupy (R302). -/
def LayCmd.token (c : LayCmd) : Word :=
  let n := c.dst.count
  BitVec.ofNat 64 (if fmtBits c.dst.fmt = 6 then (3 * n + 3) / 4 else n * elemSize c.dst.fmt)

/-! ### Issue (R297, R298, R300) -/

def State.layqAt (s : State) (cl : Nat) : List LayCmd := (s.clusterAt cl).layq

/-- A command enters the Bobbin's queue, or, with nothing to move, completes at once (R298 check 7). -/
def State.layEnter (s : State) (c : LayCmd) : State :=
  if c.src.ext.contains 0 || c.dst.ext.contains 0 then
    if s.mayFinish c.slot c.seq c.ord && (!c.ord.rl || (s.coreAt c.slot).e.sb.isEmpty) then s.completeEngine c.slot c.rd c.serial c.fin 0
    else (s.mapClusterAt (slotCluster c.slot) fun k => { k with layq := k.layq ++ [c] }).dueAt .layPass (slotCluster c.slot)
  else (s.mapClusterAt (slotCluster c.slot) fun k => { k with layq := k.layq ++ [c] }).dueAt .layPass (slotCluster c.slot)

/-- Whether every destination element lies in the issuing core's scratchpad (R300). -/
def LayCmd.inCore (c : LayCmd) : Bool :=
  let ps := (c.dst.ext.zip c.dst.str).map fun p => ((p.1 : Int) - 1) * p.2
  let lo : Int := (ps.filter (· < 0)).foldl (· + ·) 0
  let hi : Int := (ps.filter (0 < ·)).foldl (· + ·) 0
  let packed := decide (fmtBits c.dst.fmt = 6)
  let a : Int := c.dst.base.toNat + (if packed then 3 * (lo / 4) else lo * elemSize c.dst.fmt)
  let b : Int := c.dst.base.toNat + (if packed then 3 * (hi / 4) + 3 else (hi + 1) * elemSize c.dst.fmt)
  c.dst.ext.contains 0 || (decide (0 ≤ a) && decide (b ≤ spSize))

def execLayGo (o : Ord) (rd rs1 rs2 : XReg) (s : State) : Host.Outcome State Fault Refusal :=
  .next (s.guard (.layGo o rd rs1 rs2) [rs1, rs2] [rd] fun s =>
    let sa := s.x rs1
    let da := s.x rs2
    if sa.toNat % 64 ≠ 0 then s.trap 4 sa
    else if da.toNat % 64 ≠ 0 then s.trap 4 da
    else if !inWindow sa 64 then s.trap 5 sa
    else if !inWindow da 64 then s.trap 5 da
    else
      let cells (a : Word) : List (Word × Nat) := (List.range 8).map fun i => (a + BitVec.ofNat 64 (8 * i), 8)
      (s.readChecked (cells sa ++ cells da)).andThen s fun t l =>
        let sv := wordsNat ((l.take 8).map (BitVec.ofNat 64))
        let dv := wordsNat ((l.drop 8).map (BitVec.ofNat 64))
        let w := t.core.eng 0x40
        match layCheck sa da sv dv w with
        | .fail v => s.trap 48 v
        | _ =>
          let n := t.nextSeq
          let c : LayCmd :=
            { src := Tsr.ofNat sv, dst := Tsr.ofNat dv, dmw := w, fin := t.core.eng 0x41, rd := rd, ord := o,
              serial := t.core.serialOf, job := t.core.jobOf, slot := t.cur, seq := n.2, acq := t.core.firstAcquire }
          if t.core.inTxn || (t.core.inEntry && !c.inCore) then
            if 64 ≤ s.core.r.hold.length then s.trap 27 1
            else t.hold (.lay c) rd fun s => (s.mapCore fun c => c.markHeld rd).retire
          else if 2 ≤ ((t.layqAt (slotCluster t.cur)).filter fun l => l.slot = t.cur).length then s
          else ((n.1.mapCore fun c => c.markPending rd).layEnter c).retire)

/-! ### Run (R301, R302) -/

def State.setLay (s : State) (cl : Nat) (c : LayCmd) : State :=
  s.mapClusterAt cl fun k => { k with layq := c :: k.layq.drop 1 }
def State.layFinish (s : State) (cl : Nat) (c : LayCmd) (v : Word) : State :=
  (s.setLay cl { c with phase := .finished v }).dueAt .layComplete cl

/-- Resolves addresses in order: their flat addresses, and the first that does not resolve. -/
def State.resolveAll (s : State) (slot : Nat) (job : BitVec 12) (acc : Access) (l : List Word) :
    State × List Nat × Option (Word × Spot) :=
  match l with
  | [] => (s, [], none)
  | a :: t =>
    match s.spot slot job a acc with
    | (s1, .at_ f) => let r := s1.resolveAll slot job acc t
      (r.1, f :: r.2.1, r.2.2)
    | (s1, x) => (s1, [], some (a, x))

/-- A destination byte of a pass: value, bits written, whether a bad word feeds it. -/
abbrev PassByte := Nat × Nat × Bool

/-- Adds the bits that an element writes to a byte. -/
def addPatch (m : List (Nat × PassByte)) (f v mask : Nat) (bad : Bool) : List (Nat × PassByte) :=
  let old := (FMap.find m f).getD (0, 0, false)
  FMap.place (FMap.drop m f) f (old.1 ||| v, old.2.1 ||| mask, old.2.2 || (bad && mask != 0))

/-- The bytes of a pass, in order of address: per element its source bytes, destination slots and patch. -/
def passBytes (l : List (List (Byte × Bool) × List Nat × (Nat → List (Nat × Nat)) × Nat)) : List (Nat × PassByte) :=
  l.foldl (fun m e =>
    let v := e.1.foldr (fun b acc => b.1.toNat + 256 * acc) 0
    let bad := e.1.any Prod.snd
    (e.2.1.zip (e.2.2.1 (v / 2 ^ e.2.2.2 % 2 ^ 64))).foldl (fun m p => addPatch m p.1 p.2.1 p.2.2 bad) m) []

/-- Cuts a list into runs of given lengths. -/
def cutBy {α : Type} (l : List α) (ns : List Nat) : List (List α) :=
  match ns with
  | [] => []
  | n :: t => l.take n :: cutBy (l.drop n) t

/-- The source bytes of a pass as they come out of the staging buffer, of which an upset strikes a word: it is corrected, or its
bytes are bad, as they are where the path fails its check (R303). The result says whether a word was corrected. -/
def staged (l : List (Byte × Bool)) (u : Upset) : List (Byte × Bool) × Bool :=
  let i := 8 * (u.word % max ((l.length + 7) / 8) 1)
  let w := (l.drop i).take 8
  let data : Word := BitVec.ofNat 64 (w.foldr (fun b acc => b.1.toNat + 256 * acc) 0)
  let e := eccCheck (data ^^^ u.flips.setWidth 64) u.flips
  (l.take i ++ (w.zip (bytesOf e.data.toNat 8)).map (fun p => (p.2, p.1.2 || e.bad || u.path)) ++ l.drop (i + 8), e.corrected)

/-- Reads the source bytes of a pass through the staging buffer (R301, R303, R354). -/
def State.layRead (s : State) (cl : Nat) (src : List Nat) : State × List (Byte × Bool) :=
  let rd := s.engineRead src
  match rd.1.nextUpset with
  | (t, none) => (t, rd.2)
  | (t, some u) =>
    let w := staged rd.2 u
    (if w.2 then t.mapClusterAt cl fun k => { k with corr := k.corr + 1 } else t, w.1)

/-- One pass over resolved addresses: it reads its source elements and then writes. none: its release-class writes cannot
leave yet. -/
def State.layMove (s : State) (c : LayCmd) (ps : List (Int × Int)) (src dst : List Nat) : Option (State × Bool) :=
  let rd := s.layRead (slotCluster c.slot) src
  let srcs := cutBy rd.2 (ps.map fun p => (c.src.bytesAt p.1).length)
  let dsts := cutBy dst (ps.map fun p => (c.dst.slotsAt p.2).length)
  let packed := decide (fmtBits c.src.fmt = 6)
  let els := (srcs.zip dsts).zip ps |>.map fun e =>
    (e.1.1, e.1.2, (fun v => c.dst.patch e.2.2 (if packed then v % 64 else v)),
      if packed then 6 * (e.2.1 % 4).toNat % 8 else 0)
  let out := (passBytes els).map fun p =>
    let keep := p.2.2.1 != 255
    let old := if keep then (rd.1.mem.readByte p.1).toNat else 0
    (p.1, BitVec.ofNat 8 ((old &&& (255 - p.2.2.1)) ||| p.2.1), p.2.2.2 || (keep && rd.1.mem.isBad p.1))
  (rd.1.commandWrite c.slot c.seq c.job c.ord out false).map fun t => (t, rd.2.any Prod.snd)

/-- LAY_PASS (R301): the head command's next pass, once the writes of its earlier passes have been applied; place: the cluster. -/
def execLayPass (s : State) : Host.Outcome State Fault Refusal :=
  atCluster s fun s =>
    let cl := s.arg.place
    match s.layqAt cl with
    | [] => s
    | c :: _ =>
      if c.phase ≠ .ready then s
      else if c.pos = 0 ∧ s.mayStart c.slot c.seq c.ord = false then s
      else if !s.landed c.slot c.seq then s
      else if c.dst.ext.contains 0 || c.src.ext.contains 0 then s.layFinish cl c 0
      else if c.dst.count ≤ c.pos then s.layFinish cl c (c.err.getD c.token)
      else
        let ps := (List.range c.pass).map fun k => (c.srcPos (c.pos + k), c.dstPos (c.pos + k))
        let rs := s.resolveAll c.slot c.job .read (ps.flatMap fun p => c.src.bytesAt p.1)
        let ws := rs.1.resolveAll c.slot c.job .write (ps.flatMap fun p => c.dst.slotsAt p.2)
        let stop := match rs.2.2, ws.2.2 with
          | some (a, x), _ => some (a, x, Access.read)
          | none, some (a, x) => some (a, x, Access.write)
          | none, none => none
        match stop with
        | some (_, .bad code, _) => ws.1.layFinish cl c (errToken code)
        | some (a, .fault r, acc) =>
          (ws.1.setLay cl { c with phase := .paused }).holdFault (slotDie c.slot)
            { id := none, va := a, job := c.job, reason := r, access := acc.code, unit_ := 1, place := c.slot }
        | some _ => ws.1
        | none =>
          match s.uncovered c.slot (ordAcq c.ord || c.acq) (rs.2.1.map fun f => (f, 1)) with
          | some d => (s.setLay cl { c with phase := .acquire }).waitAcquire d
              { clock := s.acquireClock c.slot, body := .lay cl }
          | none =>
            match ws.1.layMove c ps rs.2.1 ws.2.1 with
            | none => s
            | some (t, bad) =>
              (t.setLay cl { c with pos := c.pos + ps.length, err := if bad then some tokenBad else c.err }).dueAt .layPass cl

/-- LAY_COMPLETE (R302): the completion word and the token; place: the cluster. -/
def execLayComplete (s : State) : Host.Outcome State Fault Refusal :=
  atCluster s fun s =>
    let cl := s.arg.place
    match s.layqAt cl with
    | [] => s
    | c :: rest =>
      match c.phase with
      | .finished v =>
        if !s.mayFinish c.slot c.seq c.ord || !s.landed c.slot c.seq then s
        else
          let s1 := ((s.mapClusterAt cl fun k => { k with layq := rest }).completeEngine c.slot c.rd c.serial c.fin
            v).lookEngines c.slot
          if rest.isEmpty then s1 else s1.dueAt .layPass cl
      | _ => s

end Sys2Proof.Machine
end

