-- ==== Sys2Proof/Machine/Msg.lean ====
section
/-! DEFINITION. Message forms, injection into the networks and acceptance at the destination core (R107 to R114, R119, R213,
R385). -/
namespace Sys2Proof.Machine

/-! ### Sending (R107 to R114) -/

/-- Rights that a message needs (R119). -/
def msgRights (prio : BitVec 2) : BitVec 4 := if prio = 0 then rightSend ||| rightWake else rightSend

/-- cause 24: no reply credit (R108, R109). -/
def tvalCredit : Word := 0x100

/-- A message accepted by its send queue carries the core's present reading of the top codes; a request's own route holds
the same bit (R26, R52, R114, R119). -/
def Msg.injected (m : Msg) (top claimed : Bool) : Msg :=
  { m with top := top, route := if claimed then m.route else m.route.map fun r => { r with top := top } }

/-- A message enters its send queue (R108, R323). -/
def State.sendMsg (s : State) (vn : BitVec 2) (dst : Nat) (rl : Option (BitVec 2)) (m : Msg) (claimed : Bool) : State :=
  let g := m.injected s.core.g.top claimed
  (s.balance s.cur g.job 1).queueSend s.cur vn { dst := dst, job := g.job, rl := rl, body := .msg g }

/-- Spends the running task's route (R114). -/
def State.spendRoute (s : State) (i : Nat) : State :=
  s.mapCore fun c => { c with m.routes := FMap.put none c.m.routes i none }

/-- Whether a request takes a reply credit of the core (R109). -/
def Msg.takesCredit (m : Msg) (claim : Option (Nat × Route)) : Bool := !m.reply && claim.isNone && m.route.isSome

/-- Effects of a message form whose checks have passed: the route that it claims counts as spent, the credit is taken, and it is
held, or enters its send queue (R98, R108, R109, R114). -/
def State.issueMsg (s : State) (vn : BitVec 2) (dst : Nat) (rl : Option (BitVec 2)) (m : Msg) (cap : CapUse)
    (claim : Option (Nat × Route)) : State :=
  let s1 := match claim with
    | some (i, _) => s.spendRoute i
    | none => s
  let s2 := if m.takesCredit claim then s1.mapCore fun c => { c with m.credits := c.m.credits + 1 } else s1
  if s.core.inEntry then
    s2.hold (.send vn { dst := dst, job := m.job, rl := rl, body := .msg m } cap claim) 0 State.retire
  else (s2.sendMsg vn dst rl m claim.isSome).retire

/-- The release scope that a form carries. -/
def scopeOf (rl : Bool) (scope : BitVec 2) : Option (BitVec 2) := if rl then some scope else none

/-- Fields of a header (R107). -/
def hdrPlen (w2 : Word) : Nat := w2.toNat / 2 ^ 52 % 2 ^ 11
def codeField (w : Word) : BitVec 48 := w.setWidth 48 &&& 0xFFFFFFFFFFFC

/-- Bytes of a message's payload: one word for msg.send, else the header's plen (R107, R113). -/
def payloadBytes (long : Bool) (w2 : Word) : Nat := if long then hdrPlen w2 else 8

/-- The conditions under which a form whose operands are aligned and whose header lies in a window traps, in the order of R161.
A header word that cannot be read fails no check of its fields: the form then consumes it (R199). Of several wrong fields the
first in the header's order is named: word 2's reserved bits, word 3's, then plen, then the payload's window (DESIGN CHOICE,
entry 130: R107 gives them no order). -/
def State.sendFaults (s : State) (long fwd : Bool) (a b : Word) (h : List (Word × Bool)) (m : Msg) (claim : Option (Nat × Route)) :
    List (Bool × Nat × Word) :=
  let c := s.core
  let w2 := peekWord h 2
  let plen := payloadBytes long w2
  [(peekGood h 2 && decide (w2.toNat / 2 ^ 50 % 4 ≠ 0), 5, a + 16),
   (!fwd && peekGood h 3 && decide ((peekWord h 3).toNat / 2 ^ 50 ≠ 0), 5, a + 24),
   (long && peekGood h 2 && decide (plen < 8 ∨ 1024 < plen ∨ plen % 8 ≠ 0), 5, a + 16),
   (long && peekGood h 2 && !inWindow b plen, 5, b),
   (fwd && claim.isNone, 26, 0),
   (!c.inEntry && peekGood h 0 && peekGood h 1 && peekGood h 2
      && s.capFault c.jobOf (peekWord h 0) (peekWord h 1) (msgRights m.prio) != 0, 26, a),
   (peekGood h 3 && m.takesCredit claim && decide (frameReply c.g ≤ c.m.credits), 24, tvalCredit),
   (!c.inEntry && c.sendFull 0, 24, 0),
   (c.inEntry && decide (64 ≤ c.r.hold.length), 27, 1)]

/-- The request that a header asks for (R107, R113, R114). -/
def State.request (s : State) (fwd : Bool) (h : List (Word × Bool)) (claim : Option (Nat × Route)) : Msg :=
  let w0 := peekWord h 0
  let w2 := peekWord h 2
  let w3 := peekWord h 3
  let own : Route := { origin := s.cur, rcode := codeField w3, rprio := w3.extractLsb' 48 2, job := s.core.jobOf,
                       top := s.core.g.top }
  { reply := false, job := capJob w0, code := codeField w2, prio := w2.extractLsb' 48 2, wid := w2.getLsbD 63, payload := [],
    top := false,
    route := if fwd then claim.map Prod.snd else if w3.toNat % 2 ^ 48 = 0 then none else some own }

/-- msg.send (long false), msg.sendl and msg.fwd (R113, R114): every check comes before the header and the payload are read and
consumed (R161). -/
def sendForm (i : Instr) (long fwd : Bool) (rl : Bool) (scope : BitVec 2) (rs1 rs2 : XReg) (s : State) : State :=
  s.guard i [rs1, rs2] [] fun s =>
    let a := s.x rs1
    let b := s.x rs2
    if a.toNat % 32 ≠ 0 then s.trap 4 a
    else if long ∧ b.toNat % 8 ≠ 0 then s.trap 4 b
    else if !inWindow a 32 then s.trap 5 a
    else
      let h := s.peek a 4
      let claim := if fwd then s.core.routeOf else none
      let m := s.request fwd h claim
      let dst := slotOf (capX (peekWord h 0)) (capY (peekWord h 0))
      if s.objectWaits a 4 then s
      else match firstTrap (s.sendFaults long fwd a b h m claim) with
        | some (k, v) => s.trap k v
        | none =>
          if !s.core.inEntry && s.relWaits (scopeOf rl scope) dst then s
          else (s.loadWords a 4).andThen s fun t _ =>
            let go (t : State) (l : List Word) : State :=
              t.issueMsg 0 dst (scopeOf rl scope) { m with payload := l }
                { addr := a, w0 := peekWord h 0, w1 := peekWord h 1, needs := msgRights m.prio } claim
            if long then (t.loadWords b (hdrPlen (peekWord h 2) / 8)).andThen s go else go t [b]

def execMsgSend (rl : Bool) (scope : BitVec 2) (rs1 rs2 : XReg) (s : State) : Host.Outcome State Fault Refusal :=
  .next (sendForm (.msgSend rl scope rs1 rs2) false false rl scope rs1 rs2 s)
def execMsgSendl (rl : Bool) (scope : BitVec 2) (rs1 rs2 : XReg) (s : State) : Host.Outcome State Fault Refusal :=
  .next (sendForm (.msgSendl rl scope rs1 rs2) true false rl scope rs1 rs2 s)
def execMsgFwd (rl : Bool) (scope : BitVec 2) (rs1 rs2 : XReg) (s : State) : Host.Outcome State Fault Refusal :=
  .next (sendForm (.msgFwd rl scope rs1 rs2) true true rl scope rs1 rs2 s)

/-- The conditions under which msg.reply with n bytes at an aligned address traps, in the order of R161. An empty payload lies at
its address, which is in a local window as any operand's is (R99). -/
def State.replyFaults (s : State) (a v : Word) : List (Bool × Nat × Word) :=
  let c := s.core
  let n := v.toNat
  [(decide (1024 < n ∨ n % 8 ≠ 0), 5, v),
   (!inWindow a (max n 1), 5, a),
   (c.routeOf.isNone, 26, 0),
   (!c.inEntry && c.sendFull 1, 24, 1),
   (c.inEntry && decide (64 ≤ c.r.hold.length), 27, 1)]

/-- msg.reply (R114): rs2 bytes at rs1 to the route's origin. -/
def execMsgReply (rl : Bool) (scope : BitVec 2) (rs1 rs2 : XReg) (s : State) : Host.Outcome State Fault Refusal :=
  .next (s.guard (.msgReply rl scope rs1 rs2) [rs1, rs2] [] fun s =>
    let a := s.x rs1
    if a.toNat % 8 ≠ 0 then s.trap 4 a
    else match firstTrap (s.replyFaults a (s.x rs2)) with
      | some (k, v) => s.trap k v
      | none =>
        match s.core.routeOf with
        | none => s
        | some (i, r) =>
          if !s.core.inEntry && s.relWaits (scopeOf rl scope) r.origin then s
          else (s.loadWords a ((s.x rs2).toNat / 8)).andThen s fun t l =>
            t.issueMsg 1 r.origin (scopeOf rl scope)
              { reply := true, job := r.job, code := r.rcode, prio := r.rprio, wid := false, payload := l, top := false }
              { addr := 0, w0 := 0, w1 := 0, needs := 0, checked := false } (some (i, r)))

/-! ### Injection (R213, R379, R385) -/

/-- Route number and key of a packet (R379). -/
def routeNumber (dst : Nat) (k : Nat) : Nat := 16 * k + slotIdx dst
def packetKey (src : Nat) : Nat := slotY src % 16 * 16 + slotX src % 16

/-- The packet of a send-queue entry. -/
def Send.packet (m : Send) (slot : Nat) (vn : BitVec 2) : Packet :=
  let k := match m.body with
    | .msg g => g.prio.toNat
    | _ => 0
  { src := slot, dst := m.dst, cls := vn, route := routeNumber m.dst k, key := packetKey slot, job := m.job,
    at_ := 0, inp := 4, rl := m.rl, body := m.body }

/-- A packet enters the network at its source's router. -/
def State.launchPacketAt (s : State) (p : Packet) : State :=
  let r := s.routerOf p.src
  (s.mapWafer fun w => { w with net := w.net ++ [{ p with at_ := r, num := w.sent }], sent := w.sent + 1 }).dueAt .routerLookup r

/-- Whether a packet is a write of its core's hart: a message, or a token of an actor there. -/
def State.hartPacket (s : State) (p : Packet) : Bool :=
  match p.body with
  | .msg _ => true
  | .token t => match s.edgeAt t.edge with
    | some e => match e.src with
      | .actor _ _ => true
      | _ => false
    | none => false
  | .sys _ => false

/-- Injects a packet: across dies a release-class one takes its number and trailer first, any other write of a hart counts
as not yet acknowledged (R385). none: it has to wait. -/
def State.injectPacket (s : State) (slot : Nat) (p : Packet) : Option State :=
  if slotDie slot = slotDie p.dst then some (s.launchPacketAt p)
  else if p.rl = some 3 then
    match (if s.hartPacket p then s.takeRelease slot else s.takeReleaseDie (slotDie slot)) with
    | none => none
    | some (t, tr) => some (t.launchPacketAt { p with trailer := some tr })
  else if s.hartPacket p then some ((s.leaveDie slot).launchPacketAt { p with acks := [slot] })
  else some (s.launchPacketAt p)

/-- The networks in the order of injection (R213). -/
def Core.injectOrder (c : Core) : List (BitVec 2) := if c.m.alt then [3, 1, 2, 0] else [3, 1, 0, 2]

/-- Route number of a stream packet names its port (R379). -/
def State.portOf (s : State) (m : Send) : Nat :=
  match m.body with
  | .token t => match s.edgeAt t.edge with
    | some e => e.dq % 4
    | none => 0
  | _ => 0

/-- Whether a slot's input of a network holds four messages (R213). -/
def Core.noInput (c : Core) (vn : BitVec 2) : Bool := vn != 2 && decide (4 ≤ (FMap.get [] c.m.inq vn.toNat).length)

/-- Tries the networks in turn and injects one head, past a network whose head is for a core with a full input: back-pressure
(R108, R123, R213; DESIGN CHOICE, entry 133: the spec gives the routers no capacity). -/
def State.injectFrom (s : State) (slot : Nat) (l : List (BitVec 2)) : State :=
  match l with
  | [] => s
  | vn :: rest =>
    match (s.coreAt slot).sendq vn with
    | [] => s.injectFrom slot rest
    | m :: t =>
      if (s.coreAt m.dst).noInput vn then s.injectFrom slot rest
      else
      let p := m.packet slot vn
      let p1 := if vn = 2 then { p with route := routeNumber m.dst (s.portOf m) } else p
      match s.injectPacket slot p1 with
      | none => s.injectFrom slot rest
      | some s1 =>
        let s2 := s1.mapCoreAt slot fun c =>
          { c with m.sendq := FMap.put [] c.m.sendq vn.toNat t,
                   m.alt := if vn = 0 then true else if vn = 2 then false else c.m.alt }
        if (s2.coreAt slot).m.sendq.isEmpty then s2 else s2.dueAt .messageInject slot

/-- MESSAGE_INJECT (R213): a send queue's head enters its network. -/
def execMessageInject (s : State) : Host.Outcome State Fault Refusal :=
  atSlot s fun s => s.injectFrom s.arg.place (s.coreAt s.arg.place).injectOrder

/-! ### Acceptance (R110, R212, R213) -/

/-- Whether a core can take messages and tokens of a job: not while the job's context is being saved or restored, or is
saved, nor while the slot is held or its core has failed (R217, R371). -/
def State.takesJob (s : State) (slot : Nat) (job : BitVec 12) : Bool :=
  !(s.coreAt slot).u.whold && !(s.coreAt slot).u.failed && !s.jobAway slot job

/-- Frame header word (R40). -/
def frameHeader (plen ports kind size : Nat) : Word :=
  BitVec.ofNat 64 (plen * 2 ^ 40 + ports * 2 ^ 32 + kind * 2 ^ 24 + size % 2 ^ 24)

/-- Makes the record of an accepted message in a frame (R110). -/
def State.acceptInto (s : State) (slot i : Nat) (p : Packet) (m : Msg) : State :=
  let c := s.coreAt slot
  let size := frameSize c.g
  let base := frameBase c.g i
  let words := m.payload.take ((size - 8) / 8)
  let f := spFlat slot base
  let r : Rec :=
    { job := m.job, prio := m.prio, code := m.code, frame := BitVec.ofNat 48 base, top := m.top, etag := m.etag, msg := true,
      widp := if m.wid then BitVec.ofNat 48 (base + 8) else 0, rel := p.trailer.isSome, chk := true }
  let s1 := s.mapMem fun mm => mm.writeWords f (frameHeader (8 * words.length) 0 (if m.reply then 3 else 2) size :: words)
  let s2 := s1.touchAll none ((List.range (words.length + 1)).map fun j => f + 8 * j)
  let s3 := s2.mapCoreAt slot fun c =>
    { c with m.frames := c.m.frames ++ [i], m.routes := FMap.put none c.m.routes i m.route,
             m.credits := if m.reply then c.m.credits - 1 else c.m.credits }
  s3.enqueueAt slot r

/-- Accepts the head of an input buffer, if it can be accepted. A reply whose frame an earlier reply's task still holds waits: its
credit came back when that reply landed (DESIGN CHOICE, entry 131: R109 says that a reply always finds a frame). -/
def State.acceptFrom (s : State) (slot : Nat) (vn : Nat) : Option State :=
  let c := s.coreAt slot
  match FMap.get [] c.m.inq vn with
  | [] => none
  | p :: rest =>
    match p.body with
    | .msg m =>
      if !s.takesJob slot m.job || !c.hasRoom m.prio.toNat then none
      else match c.freeFrame m.reply with
        | none => none
        | some i =>
          let s1 := s.mapCoreAt slot fun c => { c with m.inq := FMap.put [] c.m.inq vn rest }
          some ((s1.acceptInto slot i p m).lookRouter slot)
    | _ => none

/-- MESSAGE_ACCEPT (R110): a waiting message becomes a record; replies stand before requests (R208). -/
def execMessageAccept (s : State) : Host.Outcome State Fault Refusal :=
  atSlot s fun s =>
    let slot := s.arg.place
    let again (t : State) : State := if (t.coreAt slot).m.inq.isEmpty then t else t.dueAt .messageAccept slot
    match s.acceptFrom slot 1 with
    | some t => again t
    | none => match s.acceptFrom slot 0 with
      | some t => again t
      | none => s

end Sys2Proof.Machine
end

