-- ==== Sys2Proof/Machine/Edge.lean ====
section
/-! DEFINITION. Edges: the put forms (R258, R259), tokens that land (R255, R260), credits (R257), and re-injection (R261,
R262). -/
namespace Sys2Proof.Machine

/-! ### Sending a token (R259 to R261, R323, R329) -/

/-- The slot whose router a node's tokens reach: an actor's core, the primary Planak port's die, a DRAM actor's die. -/
def State.nodeSlot (s : State) (n : Node) : Nat :=
  match n with
  | .actor slot _ => slot
  | .host => if s.wafer.planak.primary = 0 then 0 else dieSlot 71 0 0
  | .dram k => dieSlot (actorDie k) 0 0

/-- Whether the tokens of an edge are held for a migration of its consumer (R329). -/
def State.holdsTokens (s : State) (e : Edge) : Bool :=
  match e.dst with
  | .actor slot n => match (s.dieAt (slotDie slot)).drift.mig with
    | some m => m.slot == slot && m.num == n && m.state != .stopping
    | none => false
  | _ => false

/-- Whether a core's stream queue has no room for one more token: it holds those too that wait for a migration (R108, R329). -/
def State.streamFull (s : State) (slot : Nat) : Bool :=
  decide (16 ≤ ((s.coreAt slot).sendq 2).length + (s.wafer.edges.map fun p => match p.2.src with
    | .actor t _ => if t = slot then p.2.heldBack.length else 0
    | _ => 0).sum)

/-- The last n of a list. -/
def lastOf {α : Type} (l : List α) (n : Nat) : List α := l.drop (l.length - n)

/-- A token takes the edge's next number and a credit, and its copy enters the replay window; answers the token. -/
def Edge.send (e : Edge) (t : Token) : Edge × Token :=
  let g : Token := { t with seq := e.seq }
  ({ e with seq := e.seq + 1, credits := e.credits - 1, window := lastOf (e.window ++ [g]) e.replay }, g)

/-- A token leaves its producer's node: an actor's by its core's stream queue, another node's by its die's router. none: a
release-class one has to wait. -/
def State.emitToken (s : State) (e : Edge) (m : Send) : Option State :=
  match e.src with
  | .actor slot _ => some (s.queueSend slot 2 m)
  | n =>
    let slot := s.nodeSlot n
    s.injectPacket slot { m.packet slot 2 with route := routeNumber m.dst (e.dq % 4) }

/-- A token that has left its window goes out again, or goes on after a migration. -/
def State.emitOrQueue (s : State) (e : Edge) (m : Send) : State :=
  match s.emitToken e m with
  | some t => t
  | none => s.queueSend (s.nodeSlot e.src) 2 m

/-- A token is put on its edge: it takes its number and a credit, counts in the balance, and leaves, or is held for a
migration (R259, R323, R329). -/
def State.putToken (s : State) (t : Token) (rl : Option (BitVec 2)) : Option State :=
  match s.edgeAt t.edge with
  | none => none
  | some e =>
    let r := e.send { t with rl := rl }
    let m : Send := { dst := s.nodeSlot e.dst, job := e.job, rl := rl, body := .token r.2 }
    let s1 := (s.mapEdge t.edge fun _ => r.1).balance (nodePlace e.src) e.job 1
    if s.holdsTokens e then some (s1.mapEdge t.edge fun e => { e with heldBack := e.heldBack ++ [m] })
    else s1.emitToken e m

/-- A put of the acting hart: the token takes the core's reading of the top codes (R52, R259). -/
def State.hartPut (s : State) (t : Token) (rl : Option (BitVec 2)) : State :=
  (s.putToken { t with top := s.core.g.top } rl).getD s

/-! ### edge.put, edge.putv, edge.done (R259) -/

/-- The output edge that a put names, if it is valid: the actor's number, the edge number, the edge. -/
def State.putTarget (s : State) (v : Word) : Option (Nat × Nat × Edge) :=
  let c := s.core
  match c.h.task with
  | none => none
  | some t =>
    let e := v.toNat % 8
    if v.toNat / 8 ≠ 0 ∨ t.item.act = false then none
    else match c.actorOf t.item with
      | none => none
      | some n =>
        let a := c.actor n
        if a.outmask.getLsbD e && a.resv.getLsbD e then
          match boundEdge a.outq e with
          | none => none
          | some k => (s.edgeAt k).map fun x => (n, k, x)
        else none

/-- Address that cause 7 of a put names: state + 8e. -/
def State.putTval (s : State) (v : Word) : Word :=
  (match s.core.h.task with
    | some t => t.item.frame.setWidth 64
    | none => 0) + 8 * (v &&& 7)

/-- Words of a token's payload from a list, cut or filled with zeros to the edge's size. -/
def fitPayload (e : Edge) (l : List Word) : List Word :=
  (List.range (e.bytes / 8)).map fun i => l.getD i 0

/-- A put form: valid or cause 7; held inside an open entry; else it waits for room in the stream queue and for its
release. -/
def putForm (i : Instr) (rl : Bool) (scope : BitVec 2) (rs1 : XReg) (srcs : List XReg) (done : Bool)
    (payload : State → List Word) (s : State) : State :=
  s.guard i srcs [] fun s =>
    let v := s.x rs1
    match s.putTarget v with
    | none => s.trap 7 (s.putTval v)
    | some (n, k, e) =>
      let t : Token := { edge := k, seq := 0, payload := fitPayload e (payload s), top := false, done := done }
      let r := if e.rel then some 3 else scopeOf rl scope
      let take (s : State) : State :=
        s.mapActor s.cur n fun a => { a with resv := a.resv &&& ~~~(1#8 <<< e.se) }
      if s.core.inEntry then s.hold (.put t r) 0 fun s => (take s).retire
      else if s.streamFull s.cur then s
      else if s.relWaits r (s.nodeSlot e.dst) then s
      else ((take s).hartPut t r).retire

/-- The eight words of a v register. -/
def vWords (v : VWord) : List Word := (List.range 8).map fun j => v.extractLsb' (64 * j) 64

def execEdgePut (rl : Bool) (scope : BitVec 2) (rs1 rs2 : XReg) (s : State) : Host.Outcome State Fault Refusal :=
  .next (putForm (.edgePut rl scope rs1 rs2) rl scope rs1 [rs1, rs2] false (fun s => [s.x rs2]) s)
def execEdgePutv (rl : Bool) (scope : BitVec 2) (rs1 : XReg) (vs2 : VReg) (s : State) : Host.Outcome State Fault Refusal :=
  .next (putForm (.edgePutv rl scope rs1 vs2) rl scope rs1 [rs1] false
    (fun s => (List.range 4).flatMap fun j => vWords (s.v (vs2 + BitVec.ofNat 5 j))) s)
def execEdgeDone (rl : Bool) (scope : BitVec 2) (rs1 : XReg) (s : State) : Host.Outcome State Fault Refusal :=
  .next (putForm (.edgeDone rl scope rs1) rl scope rs1 [rs1] true (fun _ => []) s)

/-! ### Landing (R255, R260, R262) -/

/-- Slot of a token in its ring, by its number relative to the head (R255). -/
def Edge.slotOfSeq (e : Edge) (seq : BitVec 32) : Nat := (e.headSlot + (seq - e.headSeq).toNat) % max e.slots 1

/-- A token lands in its slot of an actor's ring in one act (R260); etag: as R262 gives a tagged one. rel: it came
release-class. -/
def State.landSlot (s : State) (k : Nat) (e : Edge) (slot : Nat) (t : Token) (rel etag : Bool) : State :=
  let i := e.slotOfSeq t.seq
  let f := spFlat slot (e.header i)
  let hdr := if etag then s.taggedHeader slot e t.seq else slotHeader t.seq e.rel t.top false t.done
  let s1 := s.mapMem fun m => (m.writeWords (f + 8) t.payload).writeWord f hdr
  let s2 := s1.mapEdge k fun e =>
    { e with landed := if e.landed.contains i then e.landed else e.landed ++ [i],
             relSlots := if rel then e.relSlots ++ [i] else e.relSlots,
             tries := FMap.put 0 e.tries t.seq.toNat 0 }
  let s3 := (s2.mapCoreAt slot fun c => { c with u.prog := c.u.prog + 1 }).putFulls none
    (f :: (List.range t.payload.length).map fun j => f + 8 + 8 * j) [(f, true)]
  if s3.holdsTokens e then s3.dueAt .driftCopy (slotDie slot) else s3

/-- The consumer of an edge without a ring has taken its next token. -/
def Edge.taken (e : Edge) : Edge := { e with headSeq := e.headSeq + 1 }

/-- A token reaches a DRAM actor's port (R331). -/
def State.landPort (s : State) (k : Nat) (e : Edge) (n : Nat) (t : Token) (etag : Bool) : State :=
  let q : DReq := { edge := k, seq := t.seq, job := e.job, words := t.payload, etag := etag, top := t.top }
  ((s.mapEdge k Edge.taken).mapWafer fun w =>
    let a := FMap.get {} w.actors n
    { w with actors := FMap.put {} w.actors n { a with ports := FMap.put [] a.ports e.dq (FMap.get [] a.ports e.dq ++ [q]) } }).dueAt
    .dramRequestTaken n

/-- The 16-byte header of a frame: type, payload length in bytes, sequence number (R414). -/
def Frame.header (f : Frame) : List Word :=
  [BitVec.ofNat 64 (f.ty % 2 ^ 8 + (8 * f.words.length + f.bytes.length) % 2 ^ 24 * 2 ^ 8 + f.seq % 2 ^ 32 * 2 ^ 32), 0]

/-- The bytes of a frame on the fibre: header, payload and CRC-32 trailer (R414). -/
def Frame.wire (f : Frame) : List Byte :=
  let b := ((f.header ++ f.words).flatMap fun w => bytesOf w.toNat 8) ++ f.bytes
  b ++ bytesOf (Config.crc32 b).toNat 4

/-- A frame goes to the control node under the next number of its direction (R414). -/
def State.sendFrame (s : State) (f : Frame) : State :=
  s.mapWafer fun w =>
    { w with planak.toNode := w.planak.toNode ++ [{ f with seq := w.planak.frames }], planak.frames := w.planak.frames + 1 }

/-- Word 0 of a frame of type 5 or 6 (R414). -/
def hostWord (job : BitVec 12) (port : Nat) (top : Bool) (seq : BitVec 32) : Word :=
  BitVec.ofNat 64 (job.toNat + port % 8 * 2 ^ 16 + (if top then 2 ^ 20 else 0) + seq.toNat * 2 ^ 32)

/-- The type-5 frame of a token put to host (R414). -/
def hostFrame (e : Edge) (t : Token) : Frame := { ty := 5, words := hostWord e.job e.dq t.top t.seq :: t.payload }

/-- A host-queue token leaves as a frame of type 5 and waits for its acknowledgement; it is taken, in the balance (R323,
R415). -/
def State.landHost (s : State) (k : Nat) (e : Edge) (t : Token) (etag : Bool) : State :=
  let u : Token := { t with etag := etag }
  (((s.mapEdge k Edge.taken).sendFrame (hostFrame e u)).mapWafer fun w =>
    { w with planak.unacked := w.planak.unacked ++ [{ edge := k, job := e.job, port := e.dq, token := u }] }).balance
    hostPlace e.job (-1)

/-- Whether a token that the edge has sent precedes the head, or lies in its ring (R402). -/
def Edge.hasLanded (e : Edge) (seq : BitVec 32) : Bool :=
  precedes seq e.headSeq || (match e.dst with
    | .actor _ _ => e.landed.contains (e.slotOfSeq seq)
    | _ => false)

/-- Landed tokens that the control node put are acknowledged to it, in seq order (R415); n bounds them. -/
def State.ackHost (s : State) (k n : Nat) : State :=
  match n with
  | 0 => s
  | m + 1 => match s.edgeAt k with
    | none => s
    | some e =>
      if e.src == .host && e.ackSeq != e.seq && e.hasLanded e.ackSeq then
        ((s.mapEdge k fun e => { e with ackSeq := e.ackSeq + 1 }).sendFrame
          { ty := 6, words := [hostWord e.job e.se false e.ackSeq] }).ackHost k m
      else s

/-- A token lands at its consumer. -/
def State.landToken (s : State) (k : Nat) (e : Edge) (t : Token) (rel etag : Bool) : State :=
  (match e.dst with
  | .actor slot _ => s.landSlot k e slot t rel etag
  | .dram n => s.landPort k e n t etag
  | .host => s.landHost k e t etag).ackHost k (e.slots + 1)

/-- A tagged token at its ring: asked for again, at most twice, while its copy stays in the window; else it lands with its
error tag (R262). -/
def State.taggedArrival (s : State) (k : Nat) (e : Edge) (t : Token) (rel : Bool) : State :=
  let n := FMap.get 0 e.tries t.seq.toNat
  if n < 2 ∧ (e.window.any fun w => w.seq = t.seq) = true then
    (s.mapEdge k fun e => { e with tries := FMap.put 0 e.tries t.seq.toNat (n + 1) }).askReinject k t.seq t.payload t.top
  else s.landToken k e t rel true

/-- Whether a consumer takes a token now: a core only of the job whose context it holds (R217, R317, R371). -/
def State.takesToken (s : State) (e : Edge) : Bool :=
  match e.dst with
  | .actor slot _ => s.takesJob slot e.job && (s.coreAt slot).u.job == some e.job
  | _ => true

/-- The arrived token that its consumer looks at: the first, and at a port or the host queue the one whose seq is due, or that it has
already (R402, R415). -/
def Edge.nextArrived (e : Edge) : Option (Token × Bool) :=
  match e.dst with
  | .actor _ _ => e.arrived.head?
  | _ => e.arrived.find? fun p => p.1.seq == e.headSeq || e.hasLanded p.1.seq

/-- Takes an arrived token of an edge to its consumer. -/
def State.landNext (s : State) (k : Nat) (tagged : Bool) : State :=
  match s.edgeAt k with
  | none => s
  | some e =>
    match e.nextArrived with
    | none => s
    | some (t, rel) =>
      let rest := e.arrived.erase (t, rel)
      if e.hasLanded t.seq then (s.mapEdge k fun e => { e with arrived := rest }).dueAt .tokenLanding k
      else if !s.takesToken e then s
      else
        let e1 : Edge := { e with arrived := rest }
        let s1 := s.mapEdge k fun _ => e1
        let s2 := if tagged || t.etag then s1.taggedArrival k e1 t rel else s1.landToken k e1 t rel false
        if rest.isEmpty then s2 else s2.dueAt .tokenLanding k

/-- TOKEN_LANDING; place: the edge. -/
def execTokenLanding (s : State) : Host.Outcome State Fault Refusal := .next (s.landNext s.arg.place false)

/-- TAGGED_TOKEN_ARRIVAL: a hop's CRC check failed on the arrived token of the edge that its consumer looks at (R261); place: the
edge. -/
def execTaggedTokenArrival (s : State) : Host.Outcome State Fault Refusal := .next (s.landNext s.arg.place true)

/-- TOKEN_REINJECT: the producer sends its copy from the window, with the release of its put (R260, R262); without one the token
lands with its error tag. place: the edge; a: the seq; words and flag: the payload and the top bit as they last arrived. -/
def execTokenReinject (s : State) : Host.Outcome State Fault Refusal :=
  let k := s.arg.place
  .next (match s.edgeAt k with
    | none => s
    | some e =>
      match e.window.find? fun w => w.seq.toNat = s.arg.a with
      | some t =>
        s.emitOrQueue e { dst := s.nodeSlot e.dst, job := e.job, rl := t.rl, body := .token { t with again := true } }
      | none =>
        s.landToken k e { edge := k, seq := BitVec.ofNat 32 s.arg.a, payload := s.arg.words, top := s.arg.flag, done := false }
          false true)

/-! ### Credits (R257) -/

/-- CREDIT_RETURN: an emptied slot returns to the producer; place: the edge; a: the seq of the token that lay in it. -/
def execCreditReturn (s : State) : Host.Outcome State Fault Refusal :=
  let k := s.arg.place
  .next (match s.edgeAt k with
    | none => s
    | some e =>
      let s1 := s.mapEdge k fun e =>
        { e with credits := min (e.credits + 1) e.slots, window := e.window.filter fun w => w.seq.toNat ≠ s.arg.a }
      match e.src with
      | .actor slot n => s1.evalActor slot n
      | .dram n => s1.dueAt .dramReply n
      | .host => s1.due .hostTokenIn { place := 1 })

end Sys2Proof.Machine
end

