-- ==== Sys2Proof/Machine/Dram.lean ====
section
/-! DEFINITION. DRAM request forms (R337 to R341, R427) and DRAM actors (R331 to R336). -/
namespace Sys2Proof.Machine

/-! ### Operations (R337, R340) -/

/-- The near-bank operation of an atomic op (R340). -/
def dramForm (op : Nat) : NbForm :=
  if op = 2 then .add
  else if op = 3 then .fadd
  else if op ≤ 9 then .minmax (op - 4)
  else if op ≤ 12 then .logic (op - 10)
  else if op = 13 then .swap
  else .cas

/-- op with 15 acting as 0. -/
def dramOp (ctl : Word) : Nat := if ctl.toNat % 16 = 15 then 0 else ctl.toNat % 16
/-- Bytes of an atomic. -/
def dramWidth (ctl : Word) : Nat := if ctl.getLsbD 4 then 4 else 8

/-- How an operation uses its DRAM-side page. -/
def dramAccess (op : Nat) : Access := if op = 0 then .read else if op = 1 then .write else .atomic

/-- An atomic at a flat address: the state, the old value, whether the target was bad (then it is not applied) (R340,
R341). opBad: its operand came from a bad word, so what it writes is marked. -/
def State.atomicAt (s : State) (job : BitVec 12) (owner : Option (Nat × Nat)) (op f n : Nat) (b cmp : Nat) (opBad : Bool) : State × Nat × Bool :=
  let s1 := s.checkWord f
  let old := (s1.mem.data f).toNat / 2 ^ (8 * (f % 8)) % 2 ^ (8 * n)
  if s1.mem.isBad f then (s1.mapMem fun m => m.setPoison f true, old, true)
  else
    match nbNew (dramForm op) (8 * n) old b cmp with
    | none => (s1, old, false)
    | some v =>
      let bytes := (bytesOf v n).zipIdx.map fun p => (f + p.2, p.1, opBad)
      (s1.engineWrite job owner bytes false, old, false)

/-! ### Issue (R338, R339) -/

/-- Rows of a command: DRAM-side address and local address of each. -/
def DramCmd.rows (c : DramCmd) : List (Word × Word) :=
  if c.vec then (List.range (c.ctl.toNat / 2 ^ 8 % 8 + 1)).map fun i =>
    (c.addr + c.offs.extractLsb' (64 * i) 64, c.lbase + BitVec.ofNat 64 i * c.lpitch)
  else [(c.addr, c.loc)]

/-- The operation: dram.reqv takes bit 0 alone (R340). -/
def DramCmd.op (c : DramCmd) : Nat := if c.vec then c.ctl.toNat % 2 else dramOp c.ctl
def DramCmd.atomic (c : DramCmd) : Bool := decide (2 ≤ c.op)
/-- Bytes at a row's local address. -/
def DramCmd.localBytes (c : DramCmd) : Nat :=
  if c.op = 14 then 2 * dramWidth c.ctl else if c.atomic then dramWidth c.ctl else c.len

/-- The first check of R339 that fails: cause and tval. -/
def DramCmd.fault (c : DramCmd) : Option (Nat × Word) :=
  let align := if c.atomic then dramWidth c.ctl else 8
  let store := c.op != 1
  let locs := c.rows.map Prod.snd
  let rems := c.rows.map Prod.fst
  match locs.find? fun l => l.toNat % align ≠ 0 with
  | some l => some (if store then 6 else 4, l)
  | none => match rems.find? fun a => a.toNat % align ≠ 0 with
    | some a => some (if c.op = 0 then 4 else 6, a)
    | none => match locs.find? fun l => !inWindow l (max 1 c.localBytes) with
      | some l => some (if store then 7 else 5, l)
      | none => none

/-- Whether a command is a read whose local destination lies in the scratchpad (R338). -/
def DramCmd.inCore (c : DramCmd) : Bool :=
  decide (c.op = 0) && c.rows.all fun p => decide (p.2.toNat + c.len ≤ spSize)

/-- The command that a DRAM form captures. -/
def Core.dramCapture (c : Core) (vec : Bool) (addr loc : Word) (offs : VWord) (rd : XReg) (o : Ord) (seq : Nat) : DramCmd :=
  { vec := vec, addr := addr, loc := loc, offs := offs, len := (c.eng 0x50).toNat, ctl := c.eng 0x51,
    lbase := c.eng 0x52, lpitch := step40 (c.eng 0x53), fin := c.eng 0x54, rd := rd, ord := o, serial := c.serialOf,
    job := c.jobOf, seq := seq, acq := c.firstAcquire }

/-- A command enters the core's DRAM requests. -/
def State.dramEnter (s : State) (slot : Nat) (c : DramCmd) : State :=
  (s.mapCoreAt slot fun k => { k with e.drq := k.e.drq ++ [c] }).due .dramReqRun { place := slot, a := c.seq }

/-- A DRAM form (R338, R339, R427). -/
def dramIssue (i : Instr) (srcs : List XReg) (rd : XReg) (mk : State → Nat → DramCmd) (s : State) : State :=
  s.guard i srcs [rd] fun s =>
    let n := s.nextSeq
    let c := mk s n.2
    match c.fault with
    | some (code, tval) => s.trap code tval
    | none =>
      if s.core.inTxn || (s.core.inEntry && !c.inCore) then
        s.hold (.dram c) rd fun s => (s.mapCore fun c => c.markHeld rd).retire
      else if 8 ≤ s.core.e.drq.length then s
      else ((n.1.dramEnter s.cur c).mapCore fun c => c.markPending rd).retire

def execDramReq (o : Ord) (rd rs1 rs2 : XReg) (s : State) : Host.Outcome State Fault Refusal :=
  .next (dramIssue (.dramReq o rd rs1 rs2) [rs1, rs2] rd
    (fun s n => s.core.dramCapture false (s.x rs1) (s.x rs2) 0 rd o n) s)
def execDramReqv (o : Ord) (rd rs1 : XReg) (vs2 : VReg) (s : State) : Host.Outcome State Fault Refusal :=
  .next (dramIssue (.dramReqv o rd rs1 vs2) [rs1] rd
    (fun s n => s.core.dramCapture true (s.x rs1) 0 (s.v vs2) rd o n) s)

/-! ### Run (R340, R341, R427) -/

def Core.dramCmd (c : Core) (seq : Nat) : Option DramCmd := c.e.drq.find? fun k => k.seq = seq
def State.setDram (s : State) (slot : Nat) (c : DramCmd) : State :=
  s.mapCoreAt slot fun k => { k with e.drq := k.e.drq.map fun d => if d.seq = c.seq then c else d }
def State.dramFinish (s : State) (slot : Nat) (c : DramCmd) (v : Word) : State :=
  (s.setDram slot { c with phase := .finished v }).due .dramReqComplete { place := slot, a := c.seq }

/-- A piece of a command: row, offset in the row, length. -/
abbrev DramPiece := Nat × Nat × Nat

/-- The pieces of a command (R340): its rows cut at 4 KiB, and where a row's two sides stand alike in their 16-byte blocks, at
those, each of which is written and read at once (R269, R341). An atomic is one. -/
def DramCmd.pieces (c : DramCmd) : List DramPiece :=
  if c.atomic then [(0, 0, dramWidth c.ctl)]
  else c.rows.zipIdx.flatMap fun r =>
    (cutAt (if r.1.1.toNat % 16 = r.1.2.toNat % 16 then 16 else 4096) r.1.1 c.len).map fun p => (r.2, p)

/-- DRAM-side address and local address of a piece. -/
def DramCmd.sides (c : DramCmd) (p : DramPiece) : Word × Word :=
  let r := c.rows.getD p.1 (0, 0)
  (r.1 + BitVec.ofNat 64 p.2.1, r.2 + BitVec.ofNat 64 p.2.1)

/-- The home actor of a piece (R333): none where it has none; actorCount where that is not known yet, since its address does not
resolve (R347). -/
def State.pieceHome (s : State) (slot : Nat) (c : DramCmd) (p : DramPiece) : Option Nat :=
  match (s.spot slot c.job (c.sides p).1 (dramAccess c.op)).2 with
  | .at_ f => match homeOf f with
    | .dram k _ => some k
    | _ => none
  | .bad _ => none
  | _ => some actorCount

/-- Home actors that the commands of a slot issued before number seq have still to reach (R427). -/
def State.homesOwed (s : State) (slot seq : Nat) : List Nat :=
  ((s.coreAt slot).e.drq.filter fun k => decide (k.seq < seq)).flatMap fun k =>
    ((k.left.getD []).filterMap fun p => s.pieceHome slot k p).eraseDups
      ++ s.dies.flatMap fun d => d.2.clk.relq.flatMap fun w => match w.body with
        | .engine t n _ bytes _ => if t = slot ∧ n = k.seq then bytes.filterMap fun b => match homeOf b.1 with
            | .dram h _ => some h
            | _ => none
          else []
        | _ => []

/-- Whether a piece may go to its home: no earlier command of the core has still to reach it (R427; DEDUCED, entry 42: an earlier piece
whose home is not known may be for any). -/
def State.pieceOpen (s : State) (slot : Nat) (c : DramCmd) (owed : List Nat) (p : DramPiece) : Bool :=
  owed.isEmpty || (match s.pieceHome slot c p with
    | some k => !owed.contains actorCount && !owed.contains k
    | none => true)

def State.dramPause (s : State) (slot : Nat) (c : DramCmd) (va : Word) (reason : Nat) : State :=
  (s.setDram slot { c with phase := .paused }).holdFault (slotDie slot)
    { id := none, va := va, job := c.job, reason := reason, access := (dramAccess c.op).code, unit_ := 2, place := slot,
      req := some c.seq }

/-- The error of the lowest row, and in it of the lowest offset (R340). -/
def lowerError (old : Option (Nat × Nat × Word)) (p : DramPiece) (v : Word) : Option (Nat × Nat × Word) :=
  match old with
  | some (r, o, w) => if r < p.1 ∨ r = p.1 ∧ o < p.2.1 then some (r, o, w) else some (p.1, p.2.1, v)
  | none => some (p.1, p.2.1, v)

/-- A piece is done; the command, and those after it that may have waited for its home, go on. -/
def State.dramNext (s : State) (slot : Nat) (c : DramCmd) (p : DramPiece) (err : Option Word) : State :=
  let c1 : DramCmd := { c with
    left := c.left.map fun l => l.erase p, err := match err with
      | some v => lowerError c.err p v
      | none => c.err }
  (s.setDram slot c1).each ((s.coreAt slot).e.drq.filter fun d => decide (c.seq ≤ d.seq)) fun s d =>
    s.due .dramReqRun { place := slot, a := d.seq }

/-- Moves one piece of a read or a write whose DRAM side stands at f. -/
def State.dramMove (s : State) (slot : Nat) (c : DramCmd) (p : DramPiece) (f : Nat) : Option State :=
  let here := (List.range p.2.2).map fun k => (localFlat slot ((c.sides p).2 + BitVec.ofNat 64 k)).getD 0
  let there := (List.range p.2.2).map fun k => f + k
  let rd := s.engineRead (if c.op = 0 then there else here)
  let bytes := (if c.op = 0 then here else there).zip rd.2
  let err := if rd.2.any Prod.snd then some tokenBad else none
  if c.op = 0 then some ((rd.1.engineWrite c.job none bytes (c.ctl.getLsbD 5)).dramNext slot c p err)
  else (rd.1.commandWrite slot c.seq c.job c.ord bytes false).map fun t => t.dramNext slot c p err

/-- Performs an atomic whose target stands at f; its old value goes to the local address (R340, R341). -/
def State.dramAtomic (s : State) (slot : Nat) (c : DramCmd) (f : Nat) : State :=
  let n := dramWidth c.ctl
  let here (k : Nat) : Nat := (localFlat slot (c.loc + BitVec.ofNat 64 k)).getD 0
  let rd := s.engineRead ((List.range c.localBytes).map here)
  let num (l : List (Byte × Bool)) : Nat := l.foldr (fun b acc => b.1.toNat + 256 * acc) 0
  let b := num (rd.2.take n)
  let opBad := rd.2.any Prod.snd
  let o := some (slot, c.seq)
  let r := if c.op = 14 then rd.1.atomicAt c.job o c.op f n (num (rd.2.drop n)) b opBad
    else rd.1.atomicAt c.job o c.op f n b 0 opBad
  let bytes := (bytesOf r.2.1 n).zipIdx.map fun p => (here p.2, p.1, r.2.2)
  ((r.1.engineWrite c.job none bytes (c.ctl.getLsbD 5)).dramNext slot c (0, 0, n)
    (if r.2.2 || opBad then some tokenBad else none))

/-- A piece with its DRAM side at f: an acquire or a release-class atomic may have to wait at the home's die. -/
def State.dramAt (s : State) (slot : Nat) (c : DramCmd) (p : DramPiece) (f : Nat) : State :=
  match s.uncovered slot ((ordAcq c.ord || c.acq) && c.op != 1) [(f, p.2.2)] with
  | some d => (s.setDram slot { c with phase := .acquire }).waitAcquire d
      { clock := s.acquireClock slot, body := .dram slot c.seq }
  | none =>
    if !c.atomic then (s.dramMove slot c p f).getD s
    else
      let d := s.writeDie c.job f
      if ordRel c.ord && d != slotDie slot then
        match (if s.earlierLeft slot c.seq then s.takeRelease slot else none) with
        | none => s
        | some (t, tr) => (t.setDram slot { c with phase := .release }).waitRelease d { trailer := tr, body := .dram slot c.seq f }
      else s.dramAtomic slot c f

/-- Runs a piece of a command (R340, R347). -/
def State.dramRun (s : State) (slot : Nat) (c : DramCmd) (p : DramPiece) : State :=
  let a := (c.sides p).1
  match s.spot slot c.job a (dramAccess c.op) with
  | (t, .at_ f) => t.dramAt slot c p f
  | (t, .bad code) => t.dramNext slot c p (some (errToken code))
  | (t, .fault r) => t.dramPause slot c a r
  | (t, .wait) => t

/-- Whether every command of a core issued before number seq has started (R427). -/
def Core.dramTurn (c : Core) (seq : Nat) : Bool := c.e.drq.all fun k => decide (seq ≤ k.seq) || k.left.isSome

/-- Token of a command that has done every piece without error. -/
def DramCmd.total (c : DramCmd) : Word := BitVec.ofNat 64 (if c.atomic then dramWidth c.ctl else c.rows.length * c.len)

/-- DRAM_REQ_RUN (R340, R427): a command starts, in issue order, runs one of its open pieces, or has its token; place: the slot; a: the
command's number. -/
def execDramReqRun (s : State) : Host.Outcome State Fault Refusal :=
  atSlot s fun s =>
    let slot := s.arg.place
    match (s.coreAt slot).dramCmd s.arg.a with
    | none => s
    | some c =>
      if c.phase ≠ .ready then s
      else match c.left with
      | none =>
        if !(s.coreAt slot).dramTurn c.seq || !s.mayStart slot c.seq c.ord then s
        else (s.setDram slot { c with left := some c.pieces }).each ((s.coreAt slot).e.drq.filter fun d => decide (c.seq ≤ d.seq))
          fun s d => s.due .dramReqRun { place := slot, a := d.seq }
      | some [] => s.dramFinish slot c (match c.err with
        | some e => e.2.2
        | none => c.total)
      | some l =>
        match l.filter (s.pieceOpen slot c (s.homesOwed slot c.seq)) with
        | [] => s
        | p :: t =>
          let x := s.chosen (t.length + 1)
          x.1.dramRun slot c ((p :: t).getD x.2 p)

/-- DRAM_REQ_COMPLETE (R341): the completion word and the token; place: the slot; a: the command's number. -/
def execDramReqComplete (s : State) : Host.Outcome State Fault Refusal :=
  atSlot s fun s =>
    let slot := s.arg.place
    match (s.coreAt slot).dramCmd s.arg.a with
    | none => s
    | some c =>
      match c.phase with
      | .finished v =>
        if !s.mayFinish slot c.seq c.ord || !s.landed slot c.seq then s
        else ((s.mapCoreAt slot fun k => { k with e.drq := k.e.drq.filter fun d => d.seq ≠ c.seq }).completeEngine slot c.rd
          c.serial c.fin v).lookEngines slot
      | _ => s

/-! ### DRAM actors: requests (R334, R336) -/

def State.dramActor (s : State) (n : Nat) : DramActor := FMap.get {} s.wafer.actors n
def State.mapDram (s : State) (n : Nat) (f : DramActor → DramActor) : State :=
  s.mapWafer fun w => { w with actors := FMap.put {} w.actors n (f (FMap.get {} w.actors n)) }

/-- The edge bound to an output of a DRAM actor for a job. -/
def State.dramOut (s : State) (n e : Nat) (job : BitVec 12) : Option (Nat × Edge) :=
  s.wafer.edges.find? fun p => p.2.src == .dram n && p.2.se == e && p.2.job == job

/-- Fields of word 1 of a request (R334). -/
def dreqOp (w : Word) : Nat := if w.toNat % 16 = 15 then 0 else w.toNat % 16
def dreqWidth (w : Word) : Nat := if w.getLsbD 4 then 4 else 8
def dreqRep (w : Word) : Nat := w.toNat / 2 ^ 8 % 8
def dreqNorep (w : Word) : Bool := w.getLsbD 11
def dreqDone (w : Word) : List Nat := (List.range 8).filter fun e => w.getLsbD (16 + e)
def dreqLen (w : Word) : Nat := w.toNat / 2 ^ 32 % 2 ^ 16
/-- Bytes that a request acts on. -/
def dreqBytes (w : Word) : Nat := if 2 ≤ dreqOp w then dreqWidth w else dreqLen w

/-- The slot whose windows a request's local addresses name: its producer's core. -/
def State.requester (s : State) (e : Nat) : Option Nat :=
  match s.edgeAt e with
  | some x => match x.src with
    | .actor slot _ => some slot
    | _ => none
  | none => none

/-- Whether a request breaks R334, or crosses a 4 KiB boundary (R336). -/
def State.dreqMalformed (s : State) (n : Nat) (q : DReq) : Bool :=
  let a := q.words.getD 0 0
  let w := q.words.getD 1 0
  let op := dreqOp w
  let len := dreqLen w
  let rep := s.dramOut n (dreqRep w) q.job
  w &&& 0xFFFF0000FF00F0E0 != 0 || q.words.getD 2 0 != 0
    || (decide (op < 2) && (decide (len < 8) || decide (256 < len) || decide (len % 8 ≠ 0)
      || (!dreqNorep w && (match rep with
        | some (_, e) => decide (e.bytes < len)
        | none => false))))
    || (decide (op = 1) && decide (40 < len))
    || (!dreqNorep w && rep.isNone)
    || (dreqDone w).any (fun e => (s.dramOut n e q.job).isNone)
    || (decide (2 ≤ op) && decide (a.toNat % dreqWidth w ≠ 0))
    || (decide (a.toNat / 2 ^ 56 = 2) && decide (4096 < a.toNat % 4096 + dreqBytes w))

/-- Where a request's n bytes stand, as its front finds them. -/
def State.dreqSpot (s : State) (k : Nat) (edge : Nat) (job : BitVec 12) (a : Word) (n : Nat) (acc : Access) : State × Spot :=
  let slot := s.requester edge
  if slot.isNone ∧ a.toNat < 2 ^ 56 then (s, .bad 0x11)
  else
    match s.resolve (slot.getD 0) job a, s.resolve (slot.getD 0) job (a + BitVec.ofNat 64 (n - 1)) with
    | .bad c, _ => (s, .bad c)
    | .at_ _, .bad c => (s, .bad c)
    | .at_ f, _ => (s, .at_ f)
    | .dram va, _ => s.dramSpot (actorDie k) job va acc

/-- Takes the head of a port: its credit returns, it leaves the balance, and its job follows in the front's order. -/
def State.dreqTake (s : State) (n port : Nat) (q : DReq) (reply : Option (List Word × Bool)) (rep : Option Nat)
    (done : List Nat) : State :=
  let id := (s.dramActor n).nextId
  let j : DJob := { job := q.job, port := port, top := q.top, id := id, slot := q.edge, words := q.words, rep := rep,
                    done := done, reply := reply }
  ((s.mapDram n fun a =>
    { a with ports := FMap.put [] a.ports port ((FMap.get [] a.ports port).drop 1), jobs := a.jobs ++ [j], nextId := id + 1,
             nextPort := (port + 1) % 8 }).balance (dramPlace n) q.job (-1)).due .creditReturn { place := q.edge, a := q.seq.toNat }

/-- A request that is not performed (R336): its error reply where the reply edge is bound, and a kind-10 notice. Of a request that
landed tagged no part is used, so that no reply edge is known (DEDUCED, entry 51). -/
def State.dreqRefuse (s : State) (n port : Nat) (q : DReq) (code : Nat) : State :=
  let e := dreqRep (q.words.getD 1 0)
  let rep := if q.etag then none else (s.dramOut n e q.job).map fun _ => e
  ((s.dreqTake n port q (some ([errToken code], true)) rep []).notice (actorDie n)
    { kind := 10, w1 := q.job.setWidth 64, w2 := errToken code }).dueAt .dramReply n

/-- Sends a taken request to the home actor of its bytes. -/
def State.sendPiece (s : State) (n id : Nat) (job : BitVec 12) (words : List Word) (f : Nat) : State :=
  let h := match homeOf f with
    | .dram k _ => k
    | _ => n
  (s.mapDram h fun a =>
    { a with pieces := a.pieces ++ [{ front := n, id := id, job := job, words := words, pa := 0, place := some f }] }).dueAt
    .dramHomePiece h

/-- A request whose page is being moved waits at the old home (R394). -/
def State.sendWaiting (s : State) (n id : Nat) (job : BitVec 12) (words : List Word) (pa : Nat) : State :=
  match physFlat pa with
  | none => s
  | some f => match homeOf f with
    | .dram h _ => (s.mapDram h fun a =>
        { a with pieces := a.pieces ++ [{ front := n, id := id, job := job, words := words, pa := pa, place := none }] }).dueAt
        .dramHomePiece h
    | _ => s

/-- Checks the head request of a port and takes it, or holds it on a translation fault (R336, R347). -/
def State.dreqHead (s : State) (n port : Nat) (q : DReq) : State :=
  let a := q.words.getD 0 0
  let w := q.words.getD 1 0
  let op := dreqOp w
  if q.etag then s.dreqRefuse n port q 0x10
  else if s.dreqMalformed n q then s.dreqRefuse n port q 0x16
  else
    let take (t : State) : State := t.dreqTake n port q none (if dreqNorep w then none else some (dreqRep w)) (dreqDone w)
    match s.dreqSpot n q.edge q.job a (dreqBytes w) (dramAccess op) with
    | (t, .bad code) => t.dreqRefuse n port q code
    | (t, .at_ f) => (take t).sendPiece n (s.dramActor n).nextId q.job q.words f
    | (t, .wait) =>
      match t.translate (actorDie n) q.job a (dramAccess op) with
      | (u, .inl pa) => (take u).sendWaiting n (s.dramActor n).nextId q.job q.words pa
      | (u, .inr _) => u
    | (t, .fault r) =>
      (t.mapDram n fun x =>
        { x with ports := FMap.put [] x.ports port ({ q with held := true } :: (FMap.get [] x.ports port).drop 1) }).holdFault
        (actorDie n)
        { id := none, va := a, job := q.job, reason := r, access := (dramAccess op).code, unit_ := 5, place := n, port := port }

/-- The port whose head the actor takes next, round-robin, past held heads. -/
def DramActor.turn (a : DramActor) : Option (Nat × DReq) :=
  (List.range 8).findSome? fun k =>
    let p := (a.nextPort + k) % 8
    match FMap.get [] a.ports p with
    | q :: _ => if q.held then none else some (p, q)
    | [] => none

/-- DRAM_REQUEST_TAKEN (R331, R336); place: the actor. -/
def execDramRequestTaken (s : State) : Host.Outcome State Fault Refusal :=
  atActor s fun s =>
    let n := s.arg.place
    match (s.dramActor n).turn with
    | none => s
    | some (p, q) =>
      let t := s.dreqHead n p q
      if (t.dramActor n).turn.isSome then t.dueAt .dramRequestTaken n else t

/-! ### Home pieces and replies (R333, R335) -/

/-- The front learns a request's outcome. -/
def State.dreqAnswer (s : State) (n id : Nat) (l : List Word) (bad : Bool) : State :=
  (s.mapDram n fun a => { a with jobs := a.jobs.map fun j => if j.id = id then { j with reply := some (l, bad) } else j }).dueAt
    .dramReply n

/-- A request taken before is not performed after all: the error reply of R336, on its reply edge where that is bound, and a kind-10
notice. -/
def State.refusePiece (s : State) (n id code : Nat) : State :=
  match (s.dramActor n).jobs.find? fun j => j.id = id with
  | none => s
  | some j =>
    let e := dreqRep (j.words.getD 1 0)
    let r : DJob := { j with reply := some ([errToken code], true), rep := (s.dramOut n e j.job).map fun _ => e, done := [] }
    ((s.mapDram n fun a => { a with jobs := a.jobs.map fun k => if k.id = id then r else k }).notice (actorDie n)
      { kind := 10, w1 := j.job.setWidth 64, w2 := errToken code }).dueAt .dramReply n

/-- Words of bytes. -/
def wordsOf (l : List Byte) (n : Nat) : List Word :=
  match n with
  | 0 => []
  | k + 1 => BitVec.ofNat 64 ((l.take 8).foldr (fun b acc => b.toNat + 256 * acc) 0) :: wordsOf (l.drop 8) k

/-- Performs a request at its home (R333, R335, R341). -/
def State.homePerform (s : State) (p : DPiece) (f : Nat) : State :=
  let w := p.words.getD 1 0
  let op := dreqOp w
  let n := dreqBytes w
  if op = 0 then
    let rd := s.engineRead ((List.range n).map fun k => f + k)
    rd.1.dreqAnswer p.front p.id (wordsOf (rd.2.map Prod.fst) (n / 8)) (rd.2.any Prod.snd)
  else if op = 1 then
    let bytes := (List.range n).map fun k =>
      (f + k, ((p.words.getD (3 + k / 8) 0).extractLsb' (8 * (k % 8)) 8 : Byte), false)
    (s.engineWrite p.job none bytes false).dreqAnswer p.front p.id [] false
  else
    let b := (p.words.getD 3 0).toNat % 2 ^ (8 * n)
    let c := (p.words.getD 4 0).toNat % 2 ^ (8 * n)
    let r := if op = 14 then s.atomicAt p.job none op f n c b false else s.atomicAt p.job none op f n b 0 false
    r.1.dreqAnswer p.front p.id [BitVec.ofNat 64 r.2.1] r.2.2

/-- A waiting request of a removed page is returned to its front as a held fault (R394). -/
def State.returnPiece (s : State) (p : DPiece) : State :=
  let port := ((s.dramActor p.front).jobs.find? fun j => j.id = p.id).map DJob.port
  s.holdFault (actorDie p.front)
    { id := none, va := p.words.getD 0 0, job := p.job, reason := 1, access := (dramAccess (dreqOp (p.words.getD 1 0))).code,
      unit_ := 5, place := p.front, port := port.getD 0, req := some p.id }

/-- What waits for requests to be performed looks again: the page moves (R394). -/
def State.lookMoves (s : State) : State :=
  s.each (s.dies.filter fun p => !p.2.pages.moves.isEmpty) fun s p => (s.dueAt .pageMoveCopy p.1).dueAt .pageMoveDone p.1

/-- A request that waited at actor h goes on: it is performed where it stands, forwarded to the new home, or returned (R394, R395). -/
def State.releasePiece (s : State) (h : Nat) (p : DPiece) : State :=
  match s.heldSpot p.pa with
  | .at_ f => match homeOf f with
    | .dram k _ => if k = h then s.homePerform p f else s.sendPiece p.front p.id p.job p.words f
    | _ => s
  | .fault _ => s.returnPiece p
  | _ => s.refusePiece p.front p.id 0x11

/-- DRAM_HOME_PIECE (R333): a home actor performs the first request that has reached it and is not held by a page move;
place: the actor. -/
def execDramHomePiece (s : State) : Host.Outcome State Fault Refusal :=
  atActor s fun s =>
    let h := s.arg.place
    let ready (p : DPiece) : Bool := match p.place with
      | some _ => true
      | none => s.heldSpot p.pa != .wait
    match (s.dramActor h).pieces.find? ready with
    | none => s
    | some p =>
      let s1 := s.mapDram h fun a => { a with pieces := a.pieces.erase p }
      let s2 := match p.place with
        | some f => s1.homePerform p f
        | none => s1.releasePiece h p
      let s3 := s2.lookMoves
      if (s3.dramActor h).pieces.isEmpty then s3 else s3.dueAt .dramHomePiece h

/-- Puts a token on an output edge of a DRAM actor, if a credit is free (R331, R335). -/
def State.dramPut (s : State) (n e : Nat) (j : DJob) (l : List Word) (done etag : Bool) : Option State :=
  match s.dramOut n e j.job with
  | none => some s
  | some (k, x) =>
    if x.credits = 0 then none
    else s.putToken { edge := k, seq := 0, payload := fitPayload x l, top := j.top, done := done, etag := etag }
      (if x.rel then some 3 else none)

/-- Puts what the jobs owe, in the order the front took them: on each edge no later job's token passes an earlier one's
(R335). A done token waits until every replica holds the job's writes (R392). shut: edges on which an earlier job still
waits. -/
def State.dramPuts (s : State) (n : Nat) (jobs : List DJob) (shut : List Nat) : State × List DJob :=
  match jobs with
  | [] => (s, [])
  | j :: rest =>
    let r := match j.reply, j.rep with
      | some (l, bad), some e =>
        if shut.contains e then (s, j)
        else match s.dramPut n e j l false bad with
          | some t => (t, { j with rep := none })
          | none => (s, j)
      | _, _ => (s, j)
    let shut1 := match r.2.rep with
      | some e => e :: shut
      | none => shut
    let d := if r.2.reply.isNone || s.wafer.replq.any (fun w => w.job == j.job) then r
      else j.done.foldl (fun (acc : State × DJob) e =>
        if shut1.contains e then acc
        else match acc.1.dramPut n e j [] true false with
          | some t => (t, { acc.2 with done := acc.2.done.filter (· ≠ e) })
          | none => acc) r
    let t := d.1.dramPuts n rest (shut1 ++ d.2.done)
    if d.2.reply.isSome && d.2.rep.isNone && d.2.done.isEmpty then t else (t.1, d.2 :: t.2)

/-- DRAM_REPLY (R335); place: the actor. -/
def execDramReply (s : State) : Host.Outcome State Fault Refusal :=
  atActor s fun s =>
    let n := s.arg.place
    let r := s.dramPuts n (s.dramActor n).jobs []
    r.1.mapDram n fun a => { a with jobs := r.2 }

end Sys2Proof.Machine
end

