-- ==== Sys2Proof/Machine/Image.lean ====
section
/-! DEFINITION. Launch images (R310 to R312, R377, R378): reading their fields, the checks of staging (R313), and the layout of
a core's configuration area. An image is the list of its 64-bit words. -/
namespace Sys2Proof.Machine

/-! ### Fields of the header (R310) -/

/-- The 8 bytes from an offset of an image; bytes past its end read as 0. -/
def imgWord (m : List Word) (off : Nat) : Word :=
  let sh := 8 * (off % 8)
  if sh = 0 then m.getD (off / 8) 0
  else (m.getD (off / 8) 0 >>> sh) ||| (m.getD (off / 8 + 1) 0 <<< (64 - sh))

/-- Words from an offset. -/
def imgWords (m : List Word) (off n : Nat) : List Word := (List.range n).map fun i => imgWord m (off + 8 * i)

def imgLen (m : List Word) : Nat := (m.getD 0 0).toNat / 2 ^ 32
def imgGen (m : List Word) : BitVec 16 := (m.getD 0 0).extractLsb' 16 16
def imgSlot (m : List Word) : Nat := (m.getD 0 0).toNat % 8
def imgX0 (m : List Word) : Nat := (m.getD 1 0).toNat % 256
def imgY0 (m : List Word) : Nat := (m.getD 1 0).toNat / 2 ^ 8 % 256
def imgW (m : List Word) : Nat := (m.getD 1 0).toNat / 2 ^ 16 % 256
def imgH (m : List Word) : Nat := (m.getD 1 0).toNat / 2 ^ 24 % 256
/-- Work-identifier field width i (R42). -/
def imgWidth (m : List Word) (i : Nat) : Nat := (m.getD 2 0).toNat / 2 ^ (7 * i) % 128
def imgCodeAt (m : List Word) : Nat := (m.getD 3 0).toNat % 2 ^ 20
def imgDataAt (m : List Word) : Nat := (m.getD 3 0).toNat / 2 ^ 32 % 2 ^ 20

/-- Offset and length of section i: 0 code, 1 data, 2 actors, 3 edges, 4 routes, 5 records, 6 CSR block. -/
def imgSec (m : List Word) (i : Nat) : Nat × Nat :=
  let w := (m.getD (4 + i) 0).toNat
  (w % 2 ^ 32, w / 2 ^ 32)

/-- Whether L(x, y) lies in the image's grid, and on the wafer. -/
def imgInGrid (m : List Word) (x y : Nat) : Bool :=
  decide (imgX0 m ≤ x) && decide (x < imgX0 m + imgW m) && decide (imgY0 m ≤ y) && decide (y < imgY0 m + imgH m)
    && decide (x < 192) && decide (y < 216)

/-- The slots of the grid. -/
def imgGrid (m : List Word) : List Nat :=
  rectSlots (imgX0 m) (imgY0 m) (min (imgW m) (192 - imgX0 m)) (min (imgH m) (216 - imgY0 m))

/-! ### Entries (R311, R378) -/

/-- The 8 words or fewer of each entry of a section. -/
def imgEntries (m : List Word) (i size : Nat) : List (List Word) :=
  let p := imgSec m i
  (List.range (p.2 / size)).map fun k => imgWords m (p.1 + size * k) (size / 8)

/-- An actor of the image. odd: a reserved bit is set. -/
structure ImgActor where
  x : Nat
  y : Nat
  prio : BitVec 2
  size : Nat
  w0 : Word
  widp : Word
  odd : Bool
  deriving DecidableEq, Repr

def imgActors (m : List Word) : List ImgActor :=
  (imgEntries m 2 32).map fun l =>
    let w0 : Word := l.getD 0 0
    let w1 : Word := l.getD 1 0
    let w2 : Word := l.getD 2 0
    let w3 : Word := l.getD 3 0
    let n := w1.toNat
    { x := n % 256, y := n / 2 ^ 8 % 256, prio := w1.extractLsb' 16 2, size := n / 2 ^ 24 % 2 ^ 24, w0 := w0, widp := w2,
      odd := w0 &&& 3 != 0 || w1 &&& 0xFFFF000000FC0000 != 0 || w2 &&& 0xFFFF000000000000 != 0 || w3 != 0 }

/-- A node number: an actor of the image, the host queue, a DRAM actor; none where it names no node. -/
inductive ImgNode where
  | actor (i : Nat)
  | host
  | dram (n : Nat)
  | unknown
  deriving DecidableEq, Repr

def imgNode (actors n : Nat) : ImgNode :=
  if n = 0xFFFFEF then .host
  else if 0xFFFFF0 ≤ n then .dram (n - 0xFFFFF0)
  else if n < actors then .actor n
  else .unknown

/-- An edge of the image. -/
structure ImgEdge where
  src : ImgNode
  se : Nat
  dst : ImgNode
  dq : Nat
  slots : Nat
  bcode : Nat
  rel : Bool
  replay : Nat
  pair : Bool
  odd : Bool
  deriving DecidableEq, Repr

/-- Token size of a byte code. -/
def ImgEdge.bytes (e : ImgEdge) : Nat := if e.bcode = 0 then 8 else if e.bcode = 1 then 64 else 256

def imgEdges (m : List Word) : List ImgEdge :=
  let k := (imgSec m 2).2 / 32
  (imgEntries m 3 16).map fun l =>
    let w0 : Word := l.getD 0 0
    let w1 : Word := l.getD 1 0
    let n := w0.toNat
    { src := imgNode k (n % 2 ^ 24), se := n / 2 ^ 24 % 8, dst := imgNode k (w1.toNat % 2 ^ 24), dq := n / 2 ^ 27 % 8,
      slots := n / 2 ^ 32 % 128, bcode := n / 2 ^ 40 % 4, rel := w0.getLsbD 42, replay := n / 2 ^ 48 % 128,
      pair := w0.getLsbD 55,
      odd := w0 &&& 0xFF00F880C0000000 != 0 || w1 &&& 0xFFFFFFFFFF000000 != 0 }

/-- A route of the image: its rectangle, class, number and entry word. -/
structure ImgRoute where
  x0 : Nat
  y0 : Nat
  x1 : Nat
  y1 : Nat
  cls : Nat
  n : Nat
  word : Word
  odd : Bool
  deriving DecidableEq, Repr

def imgRoutes (m : List Word) : List ImgRoute :=
  (imgEntries m 4 16).map fun l =>
    let w0 : Word := l.getD 0 0
    let w1 : Word := l.getD 1 0
    let n := w0.toNat
    { x0 := n % 256, y0 := n / 2 ^ 8 % 256, x1 := n / 2 ^ 16 % 256, y1 := n / 2 ^ 24 % 256, cls := n / 2 ^ 32 % 4,
      n := n / 2 ^ 40 % 64, word := w1,
      odd := w0 &&& 0xFFFFC0FC00000000 != 0 || w1 &&& 0x00000FE0E000FFFF != 0 }

/-- Records in the 40-byte form: the record and the slot it is placed on; none where the position is off the wafer. -/
def recsOf (l : List (List Word)) : List (Rec × Option Nat × Bool) :=
  l.map fun ws =>
    let p := (ws.getD 4 0).toNat
    (Rec.ofWords (ws.getD 0 0) (ws.getD 1 0) (ws.getD 2 0),
      if p % 256 < 192 ∧ p / 256 % 256 < 216 then some (slotOf (p % 256) (p / 256 % 256)) else none,
      p / 65536 ≠ 0)

def imgRecs (m : List Word) : List (Rec × Option Nat × Bool) := recsOf (imgEntries m 5 40)

/-- Word i + 1 of the CSR block where its presence bit is set, in the order gvtop, gvfpool, gvspill, gvundo, gvundol, gvbud. -/
def imgCsr (m : List Word) (i : Nat) : Option Word :=
  let p := imgSec m 6
  if p.2 < 64 then none
  else if (imgWord m p.1).getLsbD i then some (imgWord m (p.1 + 8 * (i + 1))) else none

/-- Addresses of the CSRs of the block. -/
def csrBlock : List Nat := [0x805, 0x5C2, 0x5C1, 0x809, 0x80A, 0x5C0]

/-- Reserved bits of the CSRs of the block in their own layouts (R26, R29, R33). -/
def csrBlockReserved : List Word :=
  [0xFFFFFFFFFFFFFFFE, 0xFF000000FFF00000, 0xFFF00000FFF00000, 0xFFFFFFFFFFF00000, 0xFFFFFFFFFFF00000, 0xFFFFFFFF00000000]

/-! ### The configuration area (R312) -/

/-- What a block of an area is for: the state block of actor i, or the ring of edge i. -/
inductive Block where
  | state (i : Nat)
  | ring (i : Nat)
  deriving DecidableEq, Repr

/-- Blocks of a core's area with their sizes: state blocks in actor-section order, then rings in edge-section order. -/
def areaBlocks (actors : List ImgActor) (edges : List ImgEdge) (slot : Nat) : List (Block × Nat) :=
  let here (i : Nat) : Bool := match actors[i]? with
    | some a => decide (a.x < 192) && slotOf a.x a.y == slot
    | none => false
  (actors.zipIdx.filterMap fun p => if here p.2 then some (.state p.2, p.1.size) else none)
    ++ edges.zipIdx.filterMap fun p => match p.1.dst with
      | .actor i => if here i then some (.ring p.2, p.1.slots * (8 + p.1.bytes)) else none
      | _ => none

/-- Bases of the blocks, allocated downward from a top, each 64-byte aligned; below 0 where they do not fit. -/
def placeBlocks (l : List (Block × Nat)) (top : Int) : List (Block × Int) :=
  match l with
  | [] => []
  | (b, n) :: t =>
    let base := (top - n) / 64 * 64
    (b, base) :: placeBlocks t base

/-- The area of a core: its blocks and their bases. -/
def imgArea (actors : List ImgActor) (edges : List ImgEdge) (slot : Nat) : List (Block × Int) :=
  placeBlocks (areaBlocks actors edges slot) spSize

/-- Lowest address of an area. -/
def areaLow (l : List (Block × Int)) : Int := (l.getLast?.map Prod.snd).getD spSize

/-- Base of a block in an area. -/
def areaBase (l : List (Block × Int)) (b : Block) : Option Nat := (l.find? fun p => p.1 = b).map fun p => p.2.toNat

/-- Whether n bytes from b overlap an area. -/
def overlapsArea (low : Int) (b n : Nat) : Bool := decide (0 < n) && decide (b < spSize) && decide (low < (b + n : Nat))

/-! ### A die's part, and the checks of staging (R313) -/

/-- Whether L(x, y) lies on a die; a position off the wafer counts for every die. -/
def onDie (d x y : Nat) : Bool := if x < 192 ∧ y < 216 then slotDie (slotOf x y) == d else true

/-- Whether an edge touches a die. primary: the die of the host queue. -/
def nodeOnDie (actors : List ImgActor) (d primary : Nat) (n : ImgNode) : Bool :=
  match n with
  | .actor i => match actors[i]? with
    | some a => onDie d a.x a.y
    | none => true
  | .host => d == primary
  | .dram k => actorDie k == d
  | .unknown => true

/-- Whether a route's rectangle leaves the grid or is empty. -/
def ImgRoute.badRect (r : ImgRoute) (m : List Word) : Bool :=
  decide (r.x1 < r.x0) || decide (r.y1 < r.y0) || !imgInGrid m r.x0 r.y0 || !imgInGrid m r.x1 r.y1

/-- Whether a route touches a die. -/
def ImgRoute.onDie (r : ImgRoute) (m : List Word) (d : Nat) : Bool :=
  r.badRect m || (decide (r.x0 / 24 ≤ d % 8) && decide (d % 8 ≤ r.x1 / 24) && decide (r.y0 / 24 ≤ d / 8) && decide (d / 8 ≤ r.y1 / 24))

/-- Number of ports in a port list. -/
def portCount (p : Nat) : Nat := popCount p 5

/-- Fields of a route entry word (R377). -/
def rtAct (w : Word) : Nat := w.toNat / 2 ^ 60 % 8
def rtOp (w : Word) : Nat := w.toNat / 2 ^ 56 % 16
def rtJob (w : Word) : BitVec 12 := w.extractLsb' 44 12
def rtIn (w : Word) : Nat := w.toNat / 2 ^ 32 % 32
def rtOut (w : Word) : Nat := w.toNat / 2 ^ 24 % 32
def rtKey (w : Word) : Nat := w.toNat / 2 ^ 16 % 256

/-- What staging refuses a route for (R378), but for two entries that meet. -/
def ImgRoute.rejected (r : ImgRoute) (m : List Word) : Bool :=
  let w := r.word
  let out := rtOut w
  r.badRect m || r.odd || !w.getLsbD 63 || rtJob w != 0 || decide (4 ≤ rtAct w) || decide (10 ≤ rtOp w) || decide (r.cls = 3)
    || ((rtAct w == 1 || rtAct w == 2) && r.cls != 0)
    || (rtAct w != 2 && portCount out != 1) || (rtAct w == 2 && out == 0)
    || (rtAct w == 1 && (decide (portCount (rtIn w) < 2) || decide (rtIn w &&& out ≠ 0)))
    || (r.y0 == 0 && out.testBit 0) || (r.x1 == 191 && out.testBit 1) || (r.y1 == 215 && out.testBit 2)
    || (r.x0 == 0 && out.testBit 3)

/-- Whether two routes give one router the same class and number. -/
def ImgRoute.meets (r t : ImgRoute) : Bool :=
  r.cls == t.cls && r.n == t.n && decide (r.x0 ≤ t.x1) && decide (t.x0 ≤ r.x1) && decide (r.y0 ≤ t.y1) && decide (t.y0 ≤ r.y1)

/-- Whether some pair of a list, in order, is related. -/
def anyPair {α : Type} (f : α → α → Bool) (l : List α) : Bool :=
  match l with
  | [] => false
  | a :: t => t.any (f a) || anyPair f t

/-- Reason 6 of a single edge. -/
def ImgEdge.rejected (e : ImgEdge) : Bool :=
  e.slots == 0 || decide (64 < e.slots) || e.bcode == 3 || e.replay == 0 || decide (64 < e.replay) || e.src == .unknown
    || e.dst == .unknown || (e.pair && decide (1 < e.dq))
    || (match e.dst with
      | .dram _ => e.bytes != 64
      | _ => false)

/-- Reason 6 of two edges: one port, or one output; a comparator's two edges that differ (R404). -/
def ImgEdge.clash (e f : ImgEdge) : Bool :=
  (e.dst == f.dst && e.dq == f.dq) || (e.src == f.src && e.se == f.se)
    || (e.dst == f.dst && decide (e.dq < 2) && decide (f.dq < 2)
      && (e.pair != f.pair || (e.pair && (e.bcode != f.bcode || e.slots != f.slots))))

/-- Whether a pair edge stands alone at its comparator. -/
def ImgEdge.unpaired (e : ImgEdge) (l : List ImgEdge) : Bool :=
  e.pair && !l.any fun f => f.dst == e.dst && f.dq == 1 - e.dq && f.pair

/-- Bytes of a die's part (R309). -/
def imgPartSize (m : List Word) (d primary : Nat) : Nat :=
  let actors := imgActors m
  128 + (imgSec m 0).2 + (imgSec m 1).2 + (imgSec m 6).2
    + 32 * (actors.filter fun a => onDie d a.x a.y).length
    + 16 * ((imgEdges m).filter fun e => nodeOnDie actors d primary e.src || nodeOnDie actors d primary e.dst).length
    + 16 * ((imgRoutes m).filter fun r => r.onDie m d).length
    + 40 * ((imgRecs m).filter fun r => match r.2.1 with
        | some t => slotDie t == d
        | none => true).length

/-- Reason 3: sections, size, reserved bits, generation 0. -/
def imgMalformed (m : List Word) (d primary : Nat) : Bool :=
  let actors := imgActors m
  (List.range 7).any (fun i => decide (min (imgLen m) (8 * m.length) < (imgSec m i).1 + (imgSec m i).2))
    || decide (2 ^ 21 < imgPartSize m d primary)
    || (m.getD 0 0) &&& 0xFFF8 != 0 || (m.getD 1 0) &&& 0xFFFFFFFF00000000 != 0 || (m.getD 2 0) &&& 0xFFFFFC0000000000 != 0
    || (m.getD 3 0) &&& 0xFFF00000FFF00000 != 0 || m.getD 11 0 != 0 || (List.range 4).any (fun i => m.getD (12 + i) 0 != 0)
    || actors.any (fun a => onDie d a.x a.y && a.odd)
    || (imgEdges m).any (fun e => (nodeOnDie actors d primary e.src || nodeOnDie actors d primary e.dst) && e.odd)
    || (imgRecs m).any (fun r => r.2.2 && (match r.2.1 with
        | some t => slotDie t == d
        | none => true))
    || (decide (64 ≤ (imgSec m 6).2) && ((imgWord m (imgSec m 6).1) &&& 0xFFFFFFFFFFFFFFC0 != 0
        || imgWord m ((imgSec m 6).1 + 56) != 0))
    || (csrBlockReserved.zipIdx.any fun p => match imgCsr m p.2 with
        | some v => v &&& p.1 != 0
        | none => false)
    || imgGen m == 0

/-- Ranges that a core's area must not overlap: code, data, frame pool, spill area, undo log (reason 7). -/
def imgRanges (m : List Word) : List (Nat × Nat) :=
  let pool := ((imgCsr m 1).getD 0).toNat
  let spill := ((imgCsr m 2).getD 0).toNat
  let undo := ((imgCsr m 3).getD 0).toNat % 2 ^ 20 / 64 * 64
  let undol := ((imgCsr m 4).getD 0).toNat % 2 ^ 20 / 64 * 64
  let fsize := if pool / 2 ^ 32 % 256 = 0 then 16384 else pool / 2 ^ 32 % 256 * 64
  [(imgCodeAt m, (imgSec m 0).2), (imgDataAt m, (imgSec m 1).2), (pool % 2 ^ 20 / 64 * 64, pool / 2 ^ 40 % 256 * fsize),
    (spill % 2 ^ 20 / 32 * 32, spill / 2 ^ 32 % 2 ^ 20 / 32 * 32), (undo, undol - undo)]

/-- The first reason for which a die refuses its part, 0 for none (R313). bad: the read back met an uncorrectable error; busy:
the slot's active configuration has a live job. -/
def imgRefusal (m : List Word) (d primary : Nat) (bad busy : Bool) : Nat :=
  let actors := imgActors m
  let mine := actors.filter fun a => onDie d a.x a.y
  let edges := (imgEdges m).filter fun e => nodeOnDie actors d primary e.src || nodeOnDie actors d primary e.dst
  let routes := (imgRoutes m).filter fun r => r.onDie m d
  let slots := (mine.map fun a => slotOf a.x a.y).eraseDups
  if bad then 1
  else if busy then 2
  else if imgMalformed m d primary then 3
  else if 64 < ((List.range 6).map (imgWidth m)).sum then 4
  else if mine.any (fun a => !imgInGrid m a.x a.y || decide (a.size < 128))
      || (imgRecs m).any (fun r => match r.2.1 with
        | some t => slotDie t == d && !imgInGrid m (slotX t) (slotY t)
        | none => true)
      || slots.any (fun t => decide (64 < (mine.filter fun a => slotOf a.x a.y = t).length)) then 5
  else if edges.any ImgEdge.rejected || anyPair ImgEdge.clash edges || edges.any (fun e => e.unpaired (imgEdges m)) then 6
  else if slots.any (fun t =>
      let low := areaLow (imgArea actors (imgEdges m) t)
      decide (low < 0) || (imgRanges m).any fun p => overlapsArea low p.1 p.2) then 7
  else if routes.any (fun r => r.rejected m) || anyPair ImgRoute.meets routes then 8
  else 0

end Sys2Proof.Machine
end

