-- ==== Sys2Proof/Machine/Stall.lean ====
section
/-! DEFINITION. Stall causes and stall classes (R204, R350, R351): which cores hold others up. Both are told at the moment at which
they are read. -/
namespace Sys2Proof.Machine

/-- Records queued at a level, spilled ones included. -/
def levelCount (q : Sched) (l : Nat) : Nat := (levelQ q l).length + (levelRing q l).seqs.length

/-- Whether a slot takes part in a Drift migration (R329). -/
def State.migrating (s : State) (slot : Nat) : Bool :=
  match (s.dieAt (slotDie slot)).drift.mig with
  | some m => m.slot == slot || m.dst == slot
  | none => false

/-- Whether a core is held itself: halted, also while its last task runs, held by a wave, scanning, swapping, migrating, frozen (R350,
R351). A regulator's change takes no time in the model (entry 18). -/
def State.heldDown (s : State) (slot : Nat) : Bool :=
  let u := (s.coreAt slot).u
  u.halted || u.haltPend || u.whold || u.scan.isSome || u.swap.isSome || s.migrating slot || s.wafer.freeze != .running

/-- Full edges that an idle actor whose inputs are there waits on. -/
def State.fullEdges (s : State) (a : ActorEntry) : List Nat :=
  if a.en && !a.busy && a.stallCause == 2 then
    (List.range 8).filterMap fun e => if a.outmask.getLsbD e && !s.hasCredit a e then boundEdge a.outq e else none
  else []

/-- The core that consumes an edge. -/
def State.consumer (s : State) (e : Nat) : Option Nat :=
  (s.edgeAt e).bind fun x => match x.dst with
    | .actor slot _ => some slot
    | _ => none

/-- For each blocked output of a core, the core it waits on, where it waits on one: full edges, tokens kept back for a migration, and
send queues whose head finds a full input (R350, R351). -/
def State.blockedOn (s : State) (slot : Nat) : List (Option Nat) :=
  let c := s.coreAt slot
  ((c.q.actors.flatMap fun p => s.fullEdges p.2).map s.consumer)
    ++ (s.wafer.edges.filterMap fun p => if s.nodeSlot p.2.src = slot ∧ p.2.heldBack ≠ [] then some (s.consumer p.1) else none)
    ++ c.m.sendq.filterMap fun p => match p.2 with
      | [] => none
      | m :: _ => if (s.coreAt m.dst).noInput (BitVec.ofNat 2 p.1) then some (some m.dst) else none

/-- Whether the running task of a core stands in a trap handler (R172). -/
def Core.trapped (c : Core) : Bool := c.h.task.isSome && !c.h.traps.isEmpty

/-- Whether a core is of class 3: held itself, or by all its blocked outputs, each of which leads to such a core; n bounds the way
(R351). A core in a trap handler is not (R352). -/
def State.holds (s : State) (slot n : Nat) : Bool :=
  s.heldDown slot || match n with
    | 0 => false
    | k + 1 =>
      let outs := s.blockedOn slot
      !(s.coreAt slot).trapped && !outs.isEmpty && outs.all fun t => match t with
        | some t => s.holds t k
        | none => false

/-- Whether a core holds others up. No way without a repetition is longer than the cores that State lists. -/
def State.held (s : State) (slot : Nat) : Bool := s.holds slot s.cores.length

/-- Stall cause of an actor as it is read: a full edge whose consumer is held reports 3 (R204). -/
def State.stallCauseOf (s : State) (a : ActorEntry) : BitVec 2 :=
  if a.stallCause = 2 then
    match (boundEdge a.outq a.stallIndex.toNat).bind s.consumer with
    | some t => if s.held t then 3 else 2
    | none => 2
  else a.stallCause

/-- A stall counter as it is read (R204). -/
def State.stallWordOf (s : State) (a : ActorEntry) : Word := s.stallCauseOf a ++ a.stallIndex ++ 0#27 ++ a.stallCount

/-- Whether a core has a record Ready, Spilled or Running, or an input that waits. -/
def Core.hasWork (c : Core) : Bool :=
  c.h.task.isSome || (List.range 4).any (fun l => decide (0 < levelCount c.q l)) || !c.q.waitq.isEmpty || !c.m.inq.isEmpty

/-- The stall class of a core (R350 to R352). Where some blocked outputs wait on held consumers and some do not, it is 2 (entry 18). -/
def State.stallClass (s : State) (slot : Nat) : Nat :=
  let c := s.coreAt slot
  let outs := s.blockedOn slot
  if s.heldDown slot then 3
  else if c.trapped then 1
  else if !c.hasWork && outs.isEmpty then 0
  else if outs.isEmpty then 1
  else if s.held slot then 3
  else 2

end Sys2Proof.Machine
end

