-- ==== Sys2Proof/Machine/Upkeep.lean ====
section
/-! DEFINITION. What runs at a core by itself: scrubbers (R200, R273), samples (R263), clock changes (R214); and the
system forms at their target with their results (R122 to R125). -/
namespace Sys2Proof.Machine

/-! ### Scrubbers -/

/-- A scrubber visits a word: checked, corrected and counted, and an uncorrectable one is poisoned and reported (R200). -/
def State.scrubWord (s : State) (d f : Nat) : State :=
  let t := s.checkWord f
  if (s.mem.ecc f).bad then t.notice d { kind := 4, w1 := globalOf f } else t

/-- SCRUB_TICK: the next scratchpad word of a core; place: the slot; a: the visits that are owed (R200). -/
def execScrubTick (s : State) : Host.Outcome State Fault Refusal :=
  atSlot s fun s =>
    let slot := s.arg.place
    let i := (s.coreAt slot).u.scrub
    let t := (s.scrubWord (slotDie slot) (spFlat slot (8 * i))).mapCoreAt slot fun c => { c with u.scrub := (i + 1) % (spSize / 8) }
    if s.arg.a ≤ 1 then t else t.due .scrubTick { place := slot, a := s.arg.a - 1 }

/-- Offset of word i of a sub-bank of cluster memory (R272). -/
def subBankWord (bank i : Nat) : Nat := i / 8 * 2 ^ 14 + bank * 2 ^ 6 + i % 8 * 8

/-- CLUSTER_SCRUB_TICK: the next word of a sub-bank; place: the cluster; a: the sub-bank; b: the rounds over all 256 that are owed.
It visits the sub-banks one after another (R273). -/
def execClusterScrubTick (s : State) : Host.Outcome State Fault Refusal :=
  atCluster s fun s =>
    let cl := s.arg.place
    let bank := s.arg.a % 256
    let i := FMap.get 0 (s.clusterAt cl).scrubs bank
    if (s.clusterAt cl).dark then s
    else
      let t := (s.scrubWord (clusterDie cl) (cmFlat cl (subBankWord bank i))).mapClusterAt cl fun c =>
        { c with scrubs := FMap.put 0 c.scrubs bank ((i + 1) % 8192) }
      if bank < 255 then t.due .clusterScrubTick { place := cl, a := bank + 1, b := s.arg.b }
      else if s.arg.b ≤ 1 then t
      else t.due .clusterScrubTick { place := cl, a := 0, b := s.arg.b - 1 }

/-! ### Samples (R263) -/

/-- Percentage of a ring's slots whose header is full. -/
def State.occupancy (s : State) (slot e : Nat) : Option Nat :=
  (s.edgeAt e).map fun x =>
    ((List.range x.slots).filter fun i => (s.mem.tag (spFlat slot (x.header i))).full).length * 100 / max x.slots 1

/-- The highest occupancy over the bound inputs of the enabled actors, with the lowest such actor. -/
def State.busiest (s : State) (slot : Nat) : Nat × Nat :=
  let l := ((s.coreAt slot).q.actors.filter fun p => p.2.en).flatMap fun p =>
    (List.range 8).filterMap fun q => (boundEdge p.2.inq q).bind fun e => (s.occupancy slot e).map fun o => (o, p.1)
  l.foldl (fun (best : Nat × Nat) p => if best.1 < p.1 then p else best) (match l with
    | [] => (0, 0)
    | p :: _ => p)

/-! ### Clocks (R214, R354) -/

/-- Sets a core's clock code, never above its class, and sample slot 1. reason: 1 power, 2 temperature. -/
def State.setClock (s : State) (slot code reason : Nat) : State :=
  let t := s.mapCoreAt slot fun c => { c with g.clk := BitVec.ofNat 6 (min code c.g.cls.toNat) }
  t.putSample slot 1 ((t.coreAt slot).g.clk.toNat + 2 ^ 8 * (Config.thermalCeiling slot).toNat + 2 ^ 14 * (reason % 4))

/-- CLOCK_CHANGE; place: the slot; a: the code; b: the reason. -/
def execClockChange (s : State) : Host.Outcome State Fault Refusal :=
  atSlot s fun s => s.setClock s.arg.place s.arg.a s.arg.b

/-! ### System forms at their target (R122 to R125) -/

/-- sys.halt at the core: no new firing, and no dispatch once the running task has ended (R123, R205). -/
def Core.halt (c : Core) : Core :=
  let d : Core := { c with q.actors := c.q.actors.map fun p => (p.1, { p.2 with held := true }) }
  if c.h.task.isNone then { d with u.halted := true, u.haltPend := false } else { d with u.haltPend := !c.u.halted }

/-- sys.resume: dispatch and firing go on. A core whose last task still runs is not halted yet, and the resume has no effect on it
(R123; DEDUCED, entry 65). -/
def State.resumeCore (s : State) (slot : Nat) : State :=
  if !(s.coreAt slot).u.halted then s
  else ((s.mapCoreAt slot fun c =>
    { c with u.halted := false, u.haltPend := false,
             q.actors := c.q.actors.map fun p => (p.1, { p.2 with held := false }) }).evalCore slot).dueAt .taskDispatch slot

/-- Selector 0 (R124). -/
def Core.stateWord (c : Core) : Nat :=
  (if c.u.scan.isSome then 3 else if c.u.halted then 2 else if c.h.task.isSome then 1 else 0)
    + (if c.u.haltPend then 4 else 0) + (if c.u.job.isSome then 8 else 0) + 2 ^ 16 * (c.u.job.getD 0).toNat

/-- Selector 2. -/
def Core.queuedWord (c : Core) : Word :=
  BitVec.ofNat 64 ((List.range 4).map fun l => min (levelCount c.q l) 0x7FFF * 2 ^ (16 * l)).sum

/-- sys.inspect of a target (R124). -/
def State.inspect (s : State) (slot : Nat) (v : Word) : State × Word :=
  let c := s.coreAt slot
  let sel := v.toNat % 2 ^ 20
  let h := v.toNat / 2 ^ 20 % 2
  let half (w : Word) : Word := BitVec.ofNat 64 (w.toNat / 2 ^ (32 * h) % 2 ^ 32)
  if v.toNat / 2 ^ 21 ≠ 0 ∨ (sel ≤ 2 ∧ h = 1) then (s, errToken 1)
  else if sel = 0 then (s, BitVec.ofNat 64 c.stateWord)
  else if sel = 1 then (s, c.gvspeed)
  else if sel = 2 then (s, c.queuedWord)
  else if 0x40 ≤ sel ∧ sel ≤ 0x7F then (s, half (s.stallWordOf (c.actor (sel - 0x40))))
  else if 0x100 ≤ sel ∧ sel ≤ 0x11F then
    if !c.u.halted then (s, errToken 2)
    else (s, if c.h.task.isSome then half (c.h.getX (BitVec.ofNat 5 (sel - 0x100))) else 0)
  else if 0x10000 ≤ sel ∧ sel ≤ 0x2FFFF then
    if !c.u.halted then (s, errToken 2)
    else
      let f := spFlat slot (8 * (sel - 0x10000))
      let t := s.checkWord f
      (t, half (t.mem.data f) ||| (if t.mem.isBad f then 0x100000000 else 0))
  else (s, errToken 1)

/-- A result starts its way back to its issuer (R122). -/
def State.sendResult (s : State) (c : SysCmd) (v : Word) : State :=
  (s.mapCoreAt c.issuer fun k =>
    { k with m.results := k.m.results ++ [{ rd := c.rd, serial := c.serial, value := v }] }).dueAt .sysResultReturn c.issuer

/-- sys.scan at its target (R125). -/
def State.startScan (s : State) (slot : Nat) (c : SysCmd) : State :=
  let k := s.coreAt slot
  if !k.u.halted || k.u.scan.isSome then s.sendResult c (errToken 2)
  else if k.u.job.isSome then s.sendResult c (errToken 3)
  else (s.mapCoreAt slot fun k => { k with u.scan := some c }).dueAt .scanPatternDone slot

/-- Acts on a system form. -/
def State.actSys (s : State) (slot : Nat) (c : SysCmd) : State :=
  match c.op with
  | .halt => s.mapCoreAt slot Core.halt
  | .resume => s.resumeCore slot
  | .inspect => let r := s.inspect slot c.sel
    r.1.sendResult c r.2
  | .scan => s.startScan slot c
  | .sig => s.sendResult c ((s.coreAt slot).u.scanned.getD (errToken 5))
  | .remap => s.remapArrives c

/-- Whether a system form has to wait: a wave holds the slot (R371), or a halt meets a migration (R329). -/
def State.sysWaits (s : State) (slot : Nat) (b : Body) : Bool :=
  (s.coreAt slot).u.whold || (s.coreAt slot).u.failed || (s.migrating slot && (match b with
    | .sys c => c.op == .halt
    | _ => false))

/-- SYSTEM_FORM_AT_TARGET: the first form in the core's control input is acted on; place: the slot. -/
def execSystemFormAtTarget (s : State) : Host.Outcome State Fault Refusal :=
  atSlot s fun s =>
    let slot := s.arg.place
    match FMap.get [] (s.coreAt slot).m.inq 3 with
    | [] => s
    | p :: rest =>
      if s.sysWaits slot p.body then s
      else
        let t := (s.mapCoreAt slot fun c => { c with m.inq := FMap.put [] c.m.inq 3 rest }).lookRouter slot
        let u := match p.body with
          | .sys c => t.actSys slot c
          | _ => t
        if rest.isEmpty then u else u.dueAt .systemFormAtTarget slot

/-- SCAN_PATTERN_DONE: the pattern's signature is kept, and its form completes with 0 (R125); place: the slot. -/
def execScanPatternDone (s : State) : Host.Outcome State Fault Refusal :=
  atSlot s fun s =>
    let slot := s.arg.place
    match (s.coreAt slot).u.scan with
    | none => s
    | some c =>
      let sig := Config.scanSignature slot s.fresh
      let w : Word := sig.setWidth 64 ||| (if sig = Config.goldenSignature slot then 0 else 0x4000000000000000)
      let t := { s with fresh := s.fresh + 1 }.mapCoreAt slot fun k => { k with u.scan := none, u.scanned := some w }
      ((((t.sendResult c 0).lookRest slot).evalCore slot).dueAt .taskDispatch slot)

/-- SYS_RESULT_RETURN: the oldest result on its way writes its token register; place: the issuer's slot. -/
def execSysResultReturn (s : State) : Host.Outcome State Fault Refusal :=
  atSlot s fun s =>
    let slot := s.arg.place
    match (s.coreAt slot).m.results with
    | [] => s
    | r :: rest => (s.mapCoreAt slot fun c => { c with m.results := rest }).completeToken slot r.rd r.serial r.value

end Sys2Proof.Machine
end

