-- ==== Sys2Proof/Machine/Launch.lean ====
section
/-! DEFINITION. Loading configurations (R309, R314, R315), launching jobs (R316, R317, R320, R321), jobs that end (R322, R325),
and the residency report (R418). -/
namespace Sys2Proof.Machine

/-! ### Parts -/

def State.mapLoad (s : State) (f : Load → Load) : State := s.mapWafer fun w => { w with load := f w.load }
def State.conf (s : State) (d g : Nat) : ConfSlot := FMap.get {} (s.dieAt d).ds.slots g
def State.mapConf (s : State) (d g : Nat) (f : ConfSlot → ConfSlot) : State :=
  s.mapDieAt d fun x => { x with ds.slots := FMap.put {} x.ds.slots g (f (s.conf d g)) }
def State.mapDs (s : State) (d : Nat) (f : DieSched → DieSched) : State := s.mapDieAt d fun x => { x with ds := f x.ds }
def State.jobAt (s : State) (job : BitVec 12) : Option Job := FMap.get none s.wafer.jobs job.toNat
def State.putJob (s : State) (job : BitVec 12) (j : Option Job) : State :=
  s.mapWafer fun w => { w with jobs := FMap.put none w.jobs job.toNat j }

/-- Die of the primary Planak port (R414). -/
def State.planakDie (s : State) : Nat := if s.wafer.planak.primary = 0 then 0 else 71

/-- Whether a job's grid holds cores of a die. -/
def Job.onDie (j : Job) (d : Nat) : Bool :=
  decide (0 < j.w) && decide (0 < j.h) && decide (j.x0 / 24 ≤ d % 8) && decide (d % 8 ≤ (j.x0 + j.w - 1) / 24)
    && decide (j.y0 / 24 ≤ d / 8) && decide (d / 8 ≤ (j.y0 + j.h - 1) / 24)

/-- Extends a measurement register: M := SHA3-512(M ‖ h) (R423). -/
def State.extendMeas (s : State) (i : Nat) (h : BitVec 512) : State :=
  let v := Config.sha3 (bytesOf (FMap.get 0 s.module_.meas i).toNat 64 ++ bytesOf h.toNat 64)
  { s with module_.meas := FMap.put 0 s.module_.meas i v }

/-! ### Two-phase loads (R314) -/

/-- A load begins: every die is to stage its part. -/
def State.startLoad (s : State) (m : List Word) : State :=
  (s.mapLoad fun l =>
    { l with state := .staging, port := s.wafer.planak.primary, image := m, acks := [], answers := [] }).each
    (List.range dieCount) fun s d => s.dueAt .configStage d

/-- CONFIG_IMAGE: an image enters at the primary Planak port (words); while a load is under way it waits for the next. -/
def execConfigImage (s : State) : Host.Outcome State Fault Refusal :=
  .next (if s.wafer.load.state = .idle then s.startLoad s.arg.words
    else s.mapLoad fun l => { l with later := l.later ++ [s.arg.words] })

/-- Whether a die has answered in the present phase. -/
def Load.answered (l : Load) (d : Nat) : Bool := l.acks.contains d || l.answers.any fun p => p.1 == d

/-- A die answers the coordinator. -/
def State.answerLoad (s : State) (d r : Nat) : State :=
  (s.mapLoad fun l => { l with answers := l.answers ++ [(d, r)] }).dueAt .loadAcknowledgement s.planakDie

/-- CONFIG_STAGE: a die writes its part into the shadow and checks it; place: the die; flag: it meets an uncorrectable error
in the image. -/
def execConfigStage (s : State) : Host.Outcome State Fault Refusal :=
  atDie s fun s =>
    let d := s.arg.place
    let l := s.wafer.load
    if l.state ≠ .staging ∨ l.answered d = true then s
    else
      let g := imgSlot l.image
      let busy := (s.wafer.jobs.any fun p => match p.2 with
          | some j => j.live && j.graph == g && j.onDie d
          | none => false) || (s.dieAt d).ds.waiting.any fun p => !p.waiting && p.graph == g
      (s.mapConf d g fun c => { c with shadow := l.image }).answerLoad d (imgRefusal l.image d s.planakDie s.arg.flag busy)

/-- The outcome frame, type 2 (R414). status: 0 committed, 1 refused, 2 uncorrectable error. -/
def outcomeFrame (m : List Word) (status d reason : Nat) : Frame :=
  { ty := 2, words := [BitVec.ofNat 64 (imgSlot m + (imgGen m).toNat * 2 ^ 16 + status * 2 ^ 32 + d * 2 ^ 40 + reason * 2 ^ 48)] }

/-- The coordinator is idle again and takes the next image. -/
def State.endLoad (s : State) : State :=
  let t := s.mapLoad fun l => { l with state := .idle, image := [], acks := [], answers := [] }
  match t.wafer.load.later with
  | [] => t
  | m :: rest => (t.mapLoad fun l => { l with later := rest }).startLoad m

/-- A phase in which every die is to act. -/
def State.loadPhase (s : State) (p : LoadState) (ev : Instr) : State :=
  (s.mapLoad fun l => { l with state := p, acks := [], answers := [] }).each (List.range dieCount) fun s d => s.dueAt ev d

/-- LOAD_ACKNOWLEDGEMENT: the coordinator takes the oldest answer. -/
def execLoadAcknowledgement (s : State) : Host.Outcome State Fault Refusal :=
  let l := s.wafer.load
  .next (match l.answers with
    | [] => s
    | (d, r) :: rest =>
      let acks := l.acks ++ [d]
      let t := s.mapLoad fun l => { l with answers := rest, acks := acks }
      if l.state = .staging then
        if r ≠ 0 then (t.sendFrame (outcomeFrame l.image (if r = 1 then 2 else 1) d r)).loadPhase .aborting .loadAbort
        else if acks.length = dieCount then t.loadPhase .committing .configCommit
        else t
      else if l.state = .committing ∧ acks.length = dieCount then
        ((t.sendFrame (outcomeFrame l.image 0 0 0)).extendMeas 1 (Config.sha3 (l.image.flatMap fun w => bytesOf w.toNat 8))).endLoad
      else t)

/-- LOAD_ABORT: a die discards its shadow; once all have, the coordinator is idle; place: the die. -/
def execLoadAbort (s : State) : Host.Outcome State Fault Refusal :=
  atDie s fun s =>
    let d := s.arg.place
    let l := s.wafer.load
    if l.state ≠ .aborting ∨ l.acks.contains d = true then s
    else
      let t := (s.mapConf d (imgSlot l.image) fun c => { c with shadow := [] }).mapLoad fun l => { l with acks := l.acks ++ [d] }
      if l.acks.length + 1 = dieCount then t.endLoad else t

/-! ### Contexts of a job (R317, R320) -/

/-- Number of an image's actor on its core: its place among the actors of that core. -/
def actorNumber (actors : List ImgActor) (i : Nat) : Nat :=
  match actors[i]? with
  | some a => ((actors.take i).filter fun b => b.x == a.x && b.y == a.y).length
  | none => 0

/-- The node of the wafer that an image's node names. -/
def nodeOf (actors : List ImgActor) (n : ImgNode) : Node :=
  match n with
  | .actor i => match actors[i]? with
    | some a => .actor (slotOf a.x a.y) (actorNumber actors i)
    | none => .host
  | .dram k => .dram k
  | _ => .host

/-- Number of edge i of a job's graph (model). Its low 16 bits are the index that an image of R216 holds. -/
def edgeKey (job : BitVec 12) (i : Nat) : Nat := job.toNat * 2 ^ 20 + i

/-- The edge that an image's edge becomes at launch: all credits at the producer, an empty ring. -/
def launchEdge (actors : List ImgActor) (edges : List ImgEdge) (job : BitVec 12) (i : Nat) (e : ImgEdge) : Edge :=
  let dst := nodeOf actors e.dst
  { job := job, src := nodeOf actors e.src, se := e.se, dst := dst, dq := e.dq, slots := e.slots, bytes := e.bytes,
    rel := e.rel, replay := e.replay, pair := e.pair, credits := e.slots,
    ring := match dst with
      | .actor t _ => (areaBase (imgArea actors edges t) (.ring i)).getD 0
      | _ => 0 }

/-- A job goes live, with its edges (R320). -/
def State.openJob (s : State) (p : Launch) (m : List Word) : State :=
  match s.jobAt p.job with
  | some _ => s
  | none =>
    let actors := imgActors m
    let edges := imgEdges m
    let t := s.putJob p.job (some
      { prio := p.prio, graph := p.graph, x0 := imgX0 m, y0 := imgY0 m, w := imgW m, h := imgH m })
    t.mapWafer fun w => { w with edges := edges.zipIdx.foldl (fun l q =>
      FMap.put noEdge l (edgeKey p.job q.2) (launchEdge actors edges p.job q.2 q.1)) w.edges }

/-- Zeroes n bytes of words from a flat address, with full = 0 (R312). -/
def Mem.clearWords (m : Mem) (f n : Nat) : Mem :=
  (List.range (n / 8)).foldl (fun m i => (m.writeWord (f + 8 * i) 0).setFull (f + 8 * i) false) m

/-- An input or output port list of an actor: the numbers of its edges. -/
def portList (edges : List ImgEdge) (job : BitVec 12) (f : ImgEdge → Bool) (port : ImgEdge → Nat) : List Nat :=
  (List.range 8).map fun q =>
    match edges.zipIdx.find? fun p => f p.1 && port p.1 == q with
    | some p => edgeKey job p.2
    | none => 0xFFFF

/-- The actor table entry of actor i (R201, R317). -/
def launchActor (a : ImgActor) (edges : List ImgEdge) (job : BitVec 12) (i base : Nat) (held : Bool) : ActorEntry :=
  { inmask := a.w0.extractLsb' 56 8, outmask := a.w0.extractLsb' 48 8, code := a.w0.setWidth 48, en := true, held := held,
    prio := a.prio, state := BitVec.ofNat 48 base, widp := a.widp.setWidth 48, size := a.size,
    inq := portList edges job (fun e => e.dst == .actor i) ImgEdge.dq,
    outq := portList edges job (fun e => e.src == .actor i) ImgEdge.se }

/-- Writes an actor's state block: zeros, the frame header, the port descriptors (R256, R312). -/
def State.writeBlock (s : State) (slot base size : Nat) (a : ActorEntry) : State :=
  let f := spFlat slot base
  let desc := (List.range 8).map fun q => match boundEdge a.inq q with
    | some k => match s.edgeAt k with
      | some e => BitVec.ofNat 64 e.ring
      | none => 0
    | none => 0
  (s.mapMem fun m => (m.clearWords f size).writeWords f (frameHeader 64 0 1 size :: desc)).touchAll none
    ((List.range (size / 8)).map fun i => f + 8 * i)

/-- The routes of an image that stand at a slot's router, with the job written in (R376, R378). -/
def routesAt (m : List Word) (job : BitVec 12) (slot : Nat) : FMap Word :=
  ((imgRoutes m).filter fun r => decide (r.x0 ≤ slotX slot) && decide (slotX slot ≤ r.x1) && decide (r.y0 ≤ slotY slot)
      && decide (slotY slot ≤ r.y1)).foldl
    (fun t r => FMap.put 0 t (r.cls * 64 + r.n) (r.word ||| (job.setWidth 64 <<< 44))) []

/-- The CSRs of R21 at a launch: their reset values, then those that the CSR block names (R317). -/
def Core.launchCsrs (c : Core) (m : List Word) : Core :=
  let c1 : Core := { c with g := { cls := c.g.cls, clk := c.g.clk }, r.logTop := 0 }
  csrBlock.zipIdx.foldl (fun c p => match imgCsr m p.2 with
    | some v => c.csrPut p.1 v
    | none => c) c1

/-- Copies a section to its offset in a slot's scratchpad. -/
def State.copySection (s : State) (m : List Word) (i slot off : Nat) : State :=
  let p := imgSec m i
  let n := min p.2 (spSize - off)
  s.engineStore ((List.range n).map fun k =>
    (spFlat slot (off + k), ((imgWord m (p.1 + k)).setWidth 8 : Byte), false)) false

/-- Builds the actor table and the configuration area of a core (R312, R317). -/
def State.buildArea (s : State) (slot : Nat) (job : BitVec 12) (m : List Word) : State :=
  let actors := imgActors m
  let edges := imgEdges m
  let c := s.coreAt slot
  (imgArea actors edges slot).foldl (fun s p =>
    let base := p.2.toNat
    match p.1 with
    | .state i => match actors[i]? with
      | some a =>
        let e := launchActor a edges job i base (c.u.halted || c.u.haltPend)
        (s.writeBlock slot base a.size e).mapActor slot (actorNumber actors i) fun _ => e
      | none => s
    | .ring i => match edges[i]? with
      | some e =>
        let f := spFlat slot base
        let n := e.slots * (8 + e.bytes)
        (s.mapMem fun mm => mm.clearWords f n).touchAll none ((List.range (n / 8)).map fun k => f + 8 * k)
      | none => s) (s.mapCoreAt slot fun c => { c with q.actors := [] })

/-- A launch at priority 0 or 1 that places a record aborts a scan (R125). -/
def State.abortScan (s : State) (slot : Nat) : State :=
  match (s.coreAt slot).u.scan with
  | none => s
  | some c => (s.mapCoreAt slot fun k => { k with u.scan := none }).sendResult c (errToken 4)

/-- The records of a launch: its own, or those of the image's record section (R316). -/
def Launch.records (p : Launch) (m : List Word) : List (Rec × Nat) :=
  match p.recs with
  | [] => (imgRecs m).filterMap fun r => r.2.1.map fun t => (r.1, t)
  | l => l

/-- Places a record of a launch on its core. -/
def State.placeRec (s : State) (p : Launch) (slot : Nat) (r : Rec) : State :=
  let t := if p.prio.toNat ≤ 1 then s.abortScan slot else s
  (t.balance slot p.job 1).enqueueOrWait slot { r with job := p.job, rel := false, chk := false }

/-- What waited for a core to hold a job's context: records in its input, tokens at their edges, messages. -/
def State.lookInputs (st : State) (slot : Nat) : State :=
  let s := st.admitWaiting slot
  let t := s.each s.wafer.edges fun s p => match p.2.dst with
    | .actor k _ => if k = slot ∧ p.2.arrived ≠ [] then s.dueAt .tokenLanding p.1 else s
    | _ => s
  (if (t.coreAt slot).m.inq.isEmpty then t else t.dueAt .messageAccept slot).lookPort slot

/-- A launch takes a core (R317); its count of correctable errors starts anew, in sample slot 3 too (R354). -/
def State.claim (s : State) (slot : Nat) (p : Launch) : State :=
  let m := (s.conf (slotDie slot) p.graph).active
  let s1 := s.openJob p m
  let s2 := (s1.copySection m 0 slot (imgCodeAt m)).copySection m 1 slot (imgDataAt m)
  let s3 := s2.mapCoreAt slot fun c =>
    { c with u.job := some p.job, u.jobPrio := p.prio, u.corrLaunch := 0, u.preempt := false,
             routeTab := routesAt m p.job slot }.launchCsrs m
  let s4 := s3.buildArea slot p.job m
  let s5 := s4.each ((p.records m).filter fun r => r.2 = slot) fun s r => s.placeRec p slot r.1
  (s5.putSample slot 3 0).lookInputs slot

/-! ### Claims that wait (R321) -/

/-- The launch that a core is to serve next: of those waiting for it the first with the smallest prio. -/
def bestLaunch (l : List Launch) (slot : Nat) : Option Launch :=
  (l.filter fun p => !p.waiting && p.cores.contains slot).foldl (fun best p =>
    match best with
    | none => some p
    | some b => if p.prio.ult b.prio then some p else some b) none

/-- A launch needs a core no more; one that needs none is finished. -/
def DieSched.served (x : DieSched) (p : Launch) (slot : Nat) : DieSched :=
  let l := x.waiting.map fun q => if q = p then { q with cores := q.cores.filter (· ≠ slot) } else q
  { x with waiting := l.filter fun q => q.waiting || !q.cores.isEmpty }

/-- Serves the launches that wait for a core: it is claimed, or a pre-emption is asked for, or they wait on, as they do for a core that
has failed until its request is decided (R372). -/
def State.serveCore (s : State) (slot : Nat) : State :=
  let d := slotDie slot
  match bestLaunch (s.dieAt d).ds.waiting slot with
  | none => s
  | some p =>
    let u := (s.coreAt slot).u
    if s.isHole slot then s.mapDs d fun x => x.served p slot
    else if u.whold || u.swap.isSome || u.failed then s
    else match u.job with
      | none => (s.mapDs d fun x => x.served p slot).claim slot p
      | some _ =>
        if p.prio.ult u.jobPrio then
          let t := s.mapCoreAt slot fun c => { c with u.preempt := true }
          if (t.coreAt slot).h.task.isNone then t.dueAt .swapOut slot else t
        else s

/-- Serves every core of a die for which a launch waits. -/
def State.serveDie (s : State) (d : Nat) : State :=
  s.each (((s.dieAt d).ds.waiting.flatMap fun p => if p.waiting then [] else p.cores).eraseDups) State.serveCore

/-! ### Launch packets (R315, R316) -/

/-- The launch that a packet asks for; none where it is not one. -/
def launchOf (l : List Word) : Option Launch :=
  let w := l.getD 0 0
  let n := min (l.getD 1 0).toNat ((l.length - 8) / 5)
  let job : BitVec 12 := w.extractLsb' 36 12
  if job = 0 ∨ 4096 < (l.getD 1 0).toNat then none
  else
    let recs := recsOf ((List.range n).map fun k => (l.drop (8 + 5 * k)).take 5)
    some { graph := w.toNat % 8, gen := w.extractLsb' 16 16, prio := w.extractLsb' 32 2, job := job,
           recs := recs.map fun r => (r.1, r.2.1.getD slotCount) }

/-- Serial-number order of generations: a is older than b (R315). -/
def olderGen (a b : BitVec 16) : Bool := decide (1 ≤ (b - a).toNat) && decide ((b - a).toNat < 2 ^ 15)

/-- What became of a packet at a die. -/
inductive LaunchFate where
  | accepted
  | kept
  | stale
  | empty
  deriving DecidableEq, Repr

/-- The slots of a launch's grid on a die. -/
def gridOn (m : List Word) (d : Nat) : List Nat := (imgGrid m).filter fun t => slotDie t = d

/-- A die acts on a launch of its own generation: its cores of the grid are claimed, or waited for; its job
is live (R317, R320, R321). -/
def State.beginLaunch (s : State) (d : Nat) (p : Launch) : State :=
  let cores := (gridOn (s.conf d p.graph).active d).filter fun t => !s.isHole t
  if cores.isEmpty then s
  else
    let q : Launch := { p with waiting := false, cores := cores }
    ((s.openJob q (s.conf d p.graph).active).mapDs d fun x => { x with waiting := x.waiting ++ [q] }).each cores State.serveCore

/-- A launch packet reaches a die (R315). -/
def State.dieLaunch (s : State) (d : Nat) (p : Launch) : State × LaunchFate :=
  let g := (s.conf d p.graph).gen
  let keep (s : State) : State := s.mapDs d fun x => { x with waiting := x.waiting ++ [{ p with waiting := true, cores := [] }] }
  if g = 0 then (if olderGen g p.gen then keep s else s, .empty)
  else if g = p.gen then (s.beginLaunch d p, .accepted)
  else if olderGen g p.gen then (keep s, .kept)
  else (s, .stale)

/-- CONFIG_COMMIT: a die makes its shadow active and takes the generation; launches it kept for it begin, others of an older
one are stale; place: the die. -/
def execConfigCommit (s : State) : Host.Outcome State Fault Refusal :=
  atDie s fun s =>
    let d := s.arg.place
    let l := s.wafer.load
    if l.state ≠ .committing ∨ l.answered d = true then s
    else
      let g := imgSlot l.image
      let t := (s.mapConf d g fun c => { gen := imgGen l.image, active := c.shadow, shadow := [] }).answerLoad d 0
      let kept := (t.dieAt d).ds.waiting.filter fun p => p.waiting && p.graph == g
      let u := t.mapDs d fun x => { x with waiting := x.waiting.filter fun p => !(p.waiting && p.graph == g) }
      u.each kept fun s p => (s.dieLaunch d p).1

/-! ### The residency report (R418) -/

/-- Number of holes of a wafer. -/
def State.holeCount (s : State) : Nat :=
  (s.dies.map fun p => (p.2.rc.rows.map fun r => popCount (r.2.toNat / 2 ^ 34) 24).sum).sum

/-- Listed cores that are no holes and have a property. -/
def State.countCores (s : State) (f : Core → Bool) : Nat :=
  (s.cores.filter fun p => decide (p.1 < slotCount) && !s.isHole p.1 && f p.2).length

/-- Logical cores of a speed class. -/
def State.census (s : State) (c : Nat) : Nat :=
  s.countCores (fun k => k.g.cls.toNat == c)
    + (if c = 28 then slotCount - s.holeCount - s.countCores fun _ => true else 0)

/-- A residency report: the job answered and the status. -/
def State.residency (s : State) (job : BitVec 12) (status : Nat) : List Word :=
  let gens (k : Nat) : Nat := ((List.range 4).map fun g => (s.conf 0 (k + g)).gen.toNat * 2 ^ (16 * g)).sum
  let free := slotCount - s.holeCount - s.countCores fun k => k.u.job.isSome
  let live := (s.wafer.jobs.filter fun p => p.2.isSome).length
  [Config.serialNumber, BitVec.ofNat 64 (gens 0), BitVec.ofNat 64 (gens 4), BitVec.ofNat 64 (s.holeCount + free * 2 ^ 32)]
    ++ ((List.range 10).map fun i => BitVec.ofNat 64 ((List.range 4).map fun c =>
      (if 4 * i + c ≤ 36 then s.census (4 * i + c) else 0) % 2 ^ 16 * 2 ^ (16 * c)).sum)
    ++ [BitVec.ofNat 64 (live % 2 ^ 16 + job.toNat * 2 ^ 16 + status * 2 ^ 28), 0]

/-- The dies that hold cores of a launch's grid; all of them while none has the image of its generation, which names the grid
(R418). -/
def State.launchDies (s : State) (p : Launch) : List Nat :=
  match (List.range dieCount).find? fun d => (s.conf d p.graph).gen = p.gen ∧ p.gen ≠ 0 with
  | some d => (List.range dieCount).filter fun e => gridOn (s.conf d p.graph).active e ≠ []
  | none => List.range dieCount

/-- A launch packet reaches the die schedulers; answers the status of the residency report. -/
def State.launchAll (s : State) (p : Launch) : State × Nat :=
  let r := (s.launchDies p).foldl (fun (acc : State × List LaunchFate) d =>
    let t := acc.1.dieLaunch d p
    (t.1, t.2 :: acc.2)) (s, [])
  let waits := (List.range dieCount).any fun d => (r.1.dieAt d).ds.waiting.any fun q => q.job == p.job && q.graph == p.graph
  (r.1, if r.2.contains .stale then 1 else if r.2.contains .empty then 2 else if waits then 3 else 0)

/-- A packet with its report: a launch, or with record count and job 0 a request for a report. -/
def State.takePacket (s : State) (l : List Word) : State × Option (List Word) :=
  match launchOf l with
  | some p => let r := s.launchAll p
    (r.1, some (r.1.residency p.job r.2))
  | none =>
    if (l.getD 0 0).extractLsb' 36 12 = (0 : BitVec 12) ∧ l.getD 1 0 = 0 then (s, some (s.residency 0 0)) else (s, none)

/-- LAUNCH_PACKET: a packet over Planak (words); its report goes back as a frame of type 4. -/
def execLaunchPacket (s : State) : Host.Outcome State Fault Refusal :=
  let r := s.takePacket s.arg.words
  .next (match r.2 with
    | some l => r.1.sendFrame { ty := 4, words := l }
    | none => r.1)

/-- UE_LAUNCH_PACKET: a packet from the rack scheduler reaches a port engine (words), which answers with the report; place:
the die; nothing reaches a die without one. -/
def execUeLaunchPacket (s : State) : Host.Outcome State Fault Refusal :=
  atDie s fun s =>
    if !portDie s.arg.place then s
    else
      let r := s.takePacket s.arg.words
      match r.2 with
      | some l => r.1.mapWafer fun w => { w with rud := w.rud ++ [l] }
      | none => r.1

/-! ### Contexts that end (R322, R325) -/

/-- A core holds no job's context any more. Its actor table stays until the next context is built, and no entry of it fires (R325,
R364). -/
def Core.dropContext (c : Core) : Core := { c with u.job := none, u.preempt := false, routeTab := [] }

/-- The most recently saved context of a core (R322). -/
def DieSched.lastSaved (x : DieSched) (slot : Nat) : Option Saved := (x.saved.filter fun v => v.slot = slot).getLast?

/-- A core that has become free restores its most recently saved job, if any; else it serves the launches that wait. -/
def State.coreFreed (s : State) (slot : Nat) : State :=
  if (s.coreAt slot).u.whold then s
  else match (s.dieAt (slotDie slot)).ds.lastSaved slot with
  | some v => (s.mapCoreAt slot fun c =>
      { c with u.swap := some { save := false, job := v.job, addr := v.addr, len := v.len } }).dueAt .contextRestore slot
  | none => s.serveCore slot

/-- A done job's contexts are freed (R325). -/
def State.freeJob (s : State) (job : BitVec 12) : State :=
  let held := (s.cores.filter fun p => p.2.u.job = some job).map Prod.fst
  let s1 := s.each held fun s t => s.mapCoreAt t Core.dropContext
  let s2 := (s1.putJob job none).mapWafer fun w => { w with edges := w.edges.filter fun p => p.2.job ≠ job }
  let s3 := s2.each (List.range dieCount) fun s d =>
    if (s.dieAt d).ds.saved.any fun v => v.job = job then
      s.mapDs d fun x => { x with saved := x.saved.filter fun v => v.job ≠ job }
    else s
  s3.each held State.coreFreed

end Sys2Proof.Machine
end

