-- ==== Sys2Proof/Machine/Swap.lean ====
section
/-! DEFINITION. Swapping jobs: pre-emption (R321), the save image and the context-save engine (R215 to R221), restoring
(R221, R322). -/
namespace Sys2Proof.Machine

/-! ### The save image (R216) -/

/-- The 15 saved CSRs in address order, then a zero word. -/
def savedCsrs : List Nat :=
  [0x5C0, 0x5C1, 0x5C2, 0x800, 0x801, 0x802, 0x803, 0x804, 0x805, 0x806, 0x807, 0x808, 0x809, 0x80A, 0x80B]

def State.csrWords (s : State) (slot : Nat) : List Word := savedCsrs.map fun a => (s.csrValue slot a).getD 0

/-- Four 16-bit edge indices in a word. -/
def indexWord (l : List Nat) (i : Nat) : Word :=
  BitVec.ofNat 64 ((List.range 4).map fun k => l.getD (4 * i + k) 0xFFFF % 2 ^ 16 * 2 ^ (16 * k)).sum

/-- An actor table entry (R201). -/
def State.actorWords (s : State) (a : ActorEntry) : List Word :=
  [a.inmask ++ a.outmask ++ a.code,
    BitVec.ofBool a.en ++ BitVec.ofBool a.held ++ BitVec.ofBool a.mig ++ BitVec.ofBool a.busy ++ 0#10 ++ a.prio ++ a.state,
    0#16 ++ a.widp, s.stallWordOf a, indexWord a.inq 0, indexWord a.inq 1, indexWord a.outq 0, indexWord a.outq 1]

/-- Words of a level's 64 record slots: the records of a job; empty slots zero. -/
def levelWords (q : Sched) (job : BitVec 12) (l : Nat) : List Word :=
  let recs := ((levelQ q l).filter fun r => r.item.job = job).map QRec.item
  (List.range 64).flatMap fun i => match recs[i]? with
    | some r => r.toWords
    | none => [0, 0, 0, 0]

/-- A reply route in 16 bytes; the spec gives the packing no form (entry 15). -/
def routeWords (r : Option Route) : List Word :=
  match r with
  | none => [0, 0]
  | some r => [BitVec.ofBool true ++ BitVec.ofBool r.top ++ r.job ++ r.rprio ++ r.rcode, slotXY r.origin]

def routeOfWords (w0 w1 : Word) : Option Route :=
  if !w0.getLsbD 63 then none
  else some { origin := slotOf (w1.toNat % 256) (w1.toNat / 256 % 256), rcode := w0.setWidth 48, rprio := w0.extractLsb' 48 2,
              job := w0.extractLsb' 50 12, top := w0.getLsbD 62 }

/-- The accumulators as words: two FP32 values each. -/
def zWords (z : FMap (BitVec 32)) : List Word :=
  (List.range 4096).map fun i => FMap.get 0 z (2 * i + 1) ++ FMap.get 0 z (2 * i)

/-- The image from its offset 0x0100 to 0xC100 (R216, R399). -/
def State.imageCore (s : State) (slot : Nat) (job : BitVec 12) : List Word :=
  let c := s.coreAt slot
  ((List.range 64).flatMap fun n => s.actorWords (c.actor n)) ++ ((List.range 4).flatMap fun l => levelWords c.q job l)
    ++ ((List.range 256).flatMap fun i => routeWords (FMap.get none c.m.routes i)) ++ zWords c.e.z

/-- The sleeping records of a job on a core. -/
def State.sleepersOf (s : State) (slot : Nat) (job : BitVec 12) : List Sleeper :=
  (s.clusterAt (slotCluster slot)).wake.filter fun sl => sl.slot == slot && sl.item.job == job

def Sleeper.words (sl : Sleeper) : List Word :=
  sl.item.toWords ++ [BitVec.ofNat 64 (sl.locals.length % 128 + (if sl.woken then 2 ^ 63 else 0))] ++ sl.locals

/-- Zero words up to a multiple of 64 bytes. -/
def pad64 (l : List Word) : List Word := l ++ List.replicate ((8 - l.length % 8) % 8) 0

/-- The scratchpad ranges that a job owns on a core: the 4 KiB pages of its code and data sections, configuration area, frame
pool, spill area and undo log (entry 16), as base and length. -/
def State.jobPages (s : State) (slot : Nat) (job : BitVec 12) : List Nat :=
  let c := s.coreAt slot
  let m := match s.jobAt job with
    | some j => (s.conf (slotDie slot) j.graph).active
    | none => []
  let low := (areaLow (imgArea (imgActors m) (imgEdges m) slot)).toNat
  let l := [(imgCodeAt m, (imgSec m 0).2), (imgDataAt m, (imgSec m 1).2), (low, spSize - low),
    (frameBase c.g 0, frameCount c.g * frameSize c.g), (ringSlot c.g 0 0, 4 * 32 * ringCap c.g),
    (c.g.undo.toNat, c.g.undol.toNat - c.g.undo.toNat)]
  (List.range 256).filter fun p => l.any fun r => decide (r.1 < 4096 * (p + 1)) && decide (4096 * p < r.1 + r.2)

/-- Runs of consecutive pages, each at most 255 pages. -/
def pageRuns (l : List Nat) : List (Nat × Nat) :=
  match l with
  | [] => []
  | p :: t => match pageRuns t with
    | (b, n) :: r => if b = p + 1 ∧ n < 255 then (p, n + 1) :: r else (p, 1) :: (b, n) :: r
    | [] => [(p, 1)]

def State.jobRanges (s : State) (slot : Nat) (job : BitVec 12) : List (Nat × Nat) :=
  (pageRuns (s.jobPages slot job)).map fun r => (4096 * r.1, 4096 * r.2)

/-- Tags of 32 words: full in the even bits, poison in the odd, also of a word that fails its check. -/
def tagWord (m : Mem) (f : Nat) : Word :=
  BitVec.ofNat 64 ((List.range 32).map fun i =>
    let t := m.tag (f + 8 * i)
    ((if t.full then 1 else 0) + (if m.isBad (f + 8 * i) then 2 else 0)) * 4 ^ i).sum

/-- A scratchpad range's data, then its tags; data as read, no error consumed (R217). -/
def rangeWords (m : Mem) (slot : Nat) (r : Nat × Nat) : List Word :=
  let f := spFlat slot r.1
  m.readWords f (r.2 / 8) ++ (List.range (r.2 / 256)).map fun i => tagWord m (f + 256 * i)

/-- The save image of a job's context on a core (R216). -/
def State.saveImage (s : State) (slot : Nat) (job : BitVec 12) : List Word :=
  let sl := s.sleepersOf slot job
  let rs := s.jobRanges slot job
  let body := s.csrWords slot ++ [0] ++ s.imageCore slot job ++ pad64 (sl.flatMap Sleeper.words)
    ++ rs.flatMap (rangeWords s.mem slot)
  let head : List Word := [BitVec.ofNat 64 (8 * (16 + body.length)),
    BitVec.ofNat 64 (job.toNat + sl.length % 1024 * 2 ^ 16 + rs.length * 2 ^ 32), 0, 0, 0, 0, 0, 0]
  let ranges := (List.range 8).map fun i => match rs[i]? with
    | some r => BitVec.ofNat 64 (r.1 + r.2 * 2 ^ 32)
    | none => (0 : Word)
  head ++ ranges ++ body

/-! ### Swap-out (R215, R321) -/

/-- The notice of kind 2 (R220). state: 0 done, 1 paused, 2 aborted. -/
def State.swapNotice (s : State) (slot : Nat) (job : BitVec 12) (state reason cursor len : Nat) : State :=
  s.notice (slotDie slot)
    { kind := 2, w1 := BitVec.ofNat 64 (state * 2 ^ 62 + reason * 2 ^ 56 + cursor % 2 ^ 32), w2 := BitVec.ofNat 64 len,
      w3 := job.setWidth 64 }

/-- SWAP_OUT: a pre-emption request is acted on once no task runs, its hart is in no trap handler (R172), no command of the core is
open and no migration involves it; place: the slot. -/
def execSwapOut (s : State) : Host.Outcome State Fault Refusal :=
  atSlot s fun s =>
    let slot := s.arg.place
    let c := s.coreAt slot
    match c.u.job with
    | none => s
    | some job =>
      if !c.u.preempt || c.h.task.isSome || !c.h.traps.isEmpty || c.u.swap.isSome || c.u.whold then s
      else
        let a := FMap.get {} (s.dieAt (slotDie slot)).ds.areas job.toNat
        if a.len = 0 then
          ((s.mapCoreAt slot fun c => { c with u.preempt := false }).swapNotice slot job 2 4 0
            (8 * (s.saveImage slot job).length)).dueAt .taskDispatch slot
        else if !s.enginesDone slot || !c.e.sb.isEmpty || s.migrating slot then s
        else (s.mapCoreAt slot fun c =>
          { c with u.preempt := false, u.swap := some { save := true, job := job, addr := a.addr, len := a.len } }).dueAt
          .contextSave slot

/-! ### Saving (R217 to R220) -/

def State.setSwap (s : State) (slot : Nat) (w : Option Swap) : State := s.mapCoreAt slot fun c => { c with u.swap := w }

/-- A save that ends early: the job stays, and what was recorded against its entries meanwhile comes about (R217, R219). -/
def State.abortSave (s : State) (slot : Nat) (w : Swap) (reason len : Nat) : State :=
  let t := (s.setSwap slot none).swapNotice slot w.job 2 reason w.cursor len
  let cl := slotCluster slot
  let u := t.each ((t.sleepersOf slot w.job).filter Sleeper.woken) fun s sl => s.wakeOne cl sl
  (((u.evalCore slot).lookInputs slot).lookRest slot).dueAt .taskDispatch slot

/-- The words of slot i of a level's spill ring. -/
def ringWords (g : Gv) (slot l i : Nat) : List Nat :=
  (List.range 4).map fun k => spFlat slot (ringSlot g l (i % max (ringCap g) 1)) + 8 * k

/-- A spilled record that cannot be read back is dropped, and the supervisor learns its ring address (R211). -/
def State.dropSpilled (s : State) (slot l i : Nat) : State :=
  let g := (s.coreAt slot).g
  s.notice (slotDie slot) { kind := 8, w1 := BitVec.ofNat 64 (ringSlot g l (i % max (ringCap g) 1)) }

/-- The places of a level's ring, from its head, with whether the record there can be read. -/
def State.ringPlaces (s : State) (slot l : Nat) : List (Nat × RingRec × Bool) :=
  let c := s.coreAt slot
  (levelRing c.q l).seqs.zipIdx.map fun p => (p.2, p.1, !(ringWords c.g slot l ((levelRing c.q l).head + p.2)).any s.mem.isBad)

/-- What a saved context keeps beside its image. -/
def State.savedOf (s : State) (slot : Nat) (w : Swap) : Saved :=
  let c := s.coreAt slot
  { slot := slot, job := w.job, prio := c.u.jobPrio, addr := w.addr, len := w.len, actors := c.q.actors,
    flags := (List.range 4).flatMap fun l => ((levelQ c.q l).filter fun r => r.item.job = w.job).map fun r =>
      r.item.ringRec r.seq,
    rings := (List.range 4).map fun l => ((levelRing c.q l).head, (s.ringPlaces slot l).map fun p =>
      if p.2.2 && (s.ringRec slot l p.1).job == w.job then some p.2.1 else none),
    credits := c.m.credits, zbad := c.e.zbad }

/-- Records of other jobs that lie in a level's ring, in their order. -/
def State.ringOthers (s : State) (slot l : Nat) (job : BitVec 12) : List Rec :=
  (s.ringPlaces slot l).filterMap fun p =>
    let r := s.ringRec slot l p.1
    if p.2.2 = false ∨ r.job = job then none else some (p.2.1.on r)

/-- Every record of a core's spill rings is read, and those that cannot be are dropped with their notices (R199, R211). -/
def State.readRings (s : State) (slot : Nat) : State :=
  s.each (List.range 4) fun s l =>
    let c := s.coreAt slot
    let t := s.each ((levelRing c.q l).seqs.zipIdx.flatMap fun p => ringWords c.g slot l ((levelRing c.q l).head + p.2))
      State.checkWord
    t.each ((t.ringPlaces slot l).filter fun p => !p.2.2) fun s p => s.dropSpilled slot l ((levelRing c.q l).head + p.1)

/-- The context has left the core: its records, actors, routes and stall counters; records of job 0 stay. -/
def State.leaveContext (s : State) (slot : Nat) (job : BitVec 12) : State :=
  let c := s.coreAt slot
  let others := (List.range 4).flatMap fun l => s.ringOthers slot l job
  let fifo := (List.range 4).foldl (fun q l =>
    FMap.put [] q l ((levelQ c.q l).filter fun r => r.item.job ≠ job)) ([] : FMap (List QRec))
  let t := s.mapCoreAt slot fun c =>
    { c.dropContext with q.fifo := fifo, q.ring := [], m.routes := [], m.frames := [], m.credits := 0,
                         q.actors := [] }
  t.each others fun s r => s.enqueueOrWait slot r

/-- CONTEXT_SAVE: the engine writes its image up to the next page boundary, or ends; place: the slot. -/
def execContextSave (s : State) : Host.Outcome State Fault Refusal :=
  atSlot s fun s =>
    let slot := s.arg.place
    match (s.coreAt slot).u.swap with
    | none => s
    | some w =>
      if !w.save || w.paused then s
      else
        let l := (s.saveImage slot w.job).flatMap fun v => bytesOf v.toNat 8
        let n := l.length
        if n ≤ w.cursor then
          let r := s.readRings slot
          let v := r.savedOf slot w
          let t := ((r.leaveContext slot w.job).setSwap slot none).mapDs (slotDie slot) fun x => { x with saved := x.saved ++ [v] }
          (((t.swapNotice slot w.job 0 0 n n).serveCore slot).lookRest slot).dueAt .taskDispatch slot
        else if w.len ≤ w.cursor then s.abortSave slot w 2 n
        else
          let va := w.addr + BitVec.ofNat 64 w.cursor
          let k := min (min (n - w.cursor) (w.len - w.cursor)) (4096 - va.toNat % 4096)
          match s.dramSpot (slotDie slot) 0 va .write with
          | (t, .at_ f) =>
            let bytes := ((l.drop w.cursor).take k).zipIdx.map fun p => (f + p.2, p.1, false)
            ((t.engineWrite 0 none bytes false).setSwap slot (some { w with cursor := w.cursor + k })).dueAt .contextSave slot
          | (t, .fault r) =>
            ((t.setSwap slot (some { w with paused := true })).holdFault (slotDie slot)
              { id := none, va := va, job := 0, reason := r, access := 1, unit_ := 3, place := slot }).swapNotice slot w.job 1 1
              w.cursor n
          | (t, .bad _) => t.abortSave slot w 1 n
          | (t, .wait) => t

/-! ### Restoring (R221, R322) -/

/-- A restore that ends early: the core holds no context of the job. -/
def State.abortRestore (s : State) (slot : Nat) (w : Swap) (reason len : Nat) : State :=
  let d := slotDie slot
  let t := ((s.setSwap slot none).mapDs d fun x =>
    { x with saved := x.saved.filter fun v => !(v.slot == slot && v.job == w.job) }).mapClusterAt (slotCluster slot) fun c =>
    { c with wake := c.wake.filter fun sl => !(sl.slot == slot && sl.item.job == w.job) }
  (((t.swapNotice slot w.job 2 reason w.cursor len).coreFreed slot).lookRest slot).dueAt .taskDispatch slot

/-- An edge number from its 16 bits in the image and the number that the entry had as it was saved. -/
def edgeOfIndex (w : Word) (k old : Nat) : Nat :=
  let i := w.toNat / 2 ^ (16 * k) % 2 ^ 16
  if old % 2 ^ 16 = i then old else i
def edgesOfWords (w0 w1 : Word) (old : List Nat) : List Nat :=
  (List.range 8).map fun k => edgeOfIndex (if k < 4 then w0 else w1) (k % 4) (old.getD k 0xFFFF)

/-- An actor entry read back; what the image holds no room for comes from the entry as it was saved. -/
def actorOfWords (l : List Word) (a : ActorEntry) (held : Bool) : ActorEntry :=
  let w0 := l.getD 0 0
  let w1 := l.getD 1 0
  { a with inmask := w0.extractLsb' 56 8, outmask := w0.extractLsb' 48 8, code := w0.setWidth 48, en := w1.getLsbD 63,
           held := held, mig := false, busy := w1.getLsbD 60, prio := w1.extractLsb' 48 2, state := w1.setWidth 48,
           widp := (l.getD 2 0).setWidth 48, stallCause := 0, stallIndex := 0, stallCount := 0,
           inq := edgesOfWords (l.getD 4 0) (l.getD 5 0) a.inq, outq := edgesOfWords (l.getD 6 0) (l.getD 7 0) a.outq }

/-- Writes a range and its tags back. -/
def Mem.restoreRange (m : Mem) (slot : Nat) (r : Nat × Nat) (l : List Word) : Mem :=
  let n := r.2 / 8
  (l.take n).zipIdx.foldl (fun m p =>
    let f := spFlat slot (r.1 + 8 * p.2)
    let t := (l.getD (n + p.2 / 32) 0).toNat / 4 ^ (p.2 % 32) % 4
    ((m.writeWord f p.1).setFull f (t % 2 == 1)).setPoison f (decide (2 ≤ t))) m

def State.restoreRanges (s : State) (slot : Nat) (rs : List (Nat × Nat)) (l : List Word) : State :=
  match rs with
  | [] => s
  | r :: t =>
    let n := r.2 / 8 + r.2 / 256
    ((s.mapMem fun m => m.restoreRange slot r l).touchAll none ((List.range (r.2 / 64)).map fun i =>
      spFlat slot (r.1 + 64 * i))).restoreRanges slot t (l.drop n)

/-- The sleeping section: what is left of it after its records. sl: the entries of the wake table that it stands for. -/
def State.restoreSleepers (s : State) (slot : Nat) (sl : List Sleeper) (l : List Word) : State :=
  match sl with
  | [] => s
  | x :: t =>
    let r := Rec.ofWords (l.getD 0 0) (l.getD 1 0) (l.getD 2 0)
    let w := l.getD 4 0
    let n := w.toNat % 128
    let locals := (l.drop 5).take n
    let y : Sleeper := { x with
      item := { r with rel := x.item.rel, chk := x.item.chk, cont := x.item.cont }, locals := locals,
      lines := locals.map fun a => lineAt ((localFlat slot a).getD 0), woken := x.woken || w.getLsbD 63 }
    let cl := slotCluster slot
    let s1 := s.mapClusterAt cl fun c => { c with wake := c.wake.map fun z => if z = x then y else z }
    let s2 := if y.woken then s1.wakeOne cl y else s1
    s2.restoreSleepers slot t (l.drop (5 + n))

/-- The records of the image's queue section, level by level, each level followed by its ring. They stand before what waits in the
core's input: they are older than any record enqueued later (R221). -/
def State.restoreQueues (s : State) (slot : Nat) (v : Saved) (l : List Word) : State :=
  let recs := (List.range 256).filterMap fun i =>
    let ws := (l.drop (4 * i)).take 4
    if ws.all (· == 0) then none else some (i / 64, Rec.ofWords (ws.getD 0 0) (ws.getD 1 0) (ws.getD 2 0))
  let tagged := recs.zipIdx.map fun p =>
    (p.1.1, (v.flags.getD p.2 { seq := 0 }).on p.1.2)
  let q := (s.coreAt slot).q.waitq
  let read := (v.rings.zipIdx.flatMap fun p => (spilled s slot p.2 p.1).map fun r => (p.2, r))
  let s1 := (s.each read fun s p => match p.2.2 with
    | some _ => s
    | none => s.dropSpilled slot p.1 p.2.1).mapCoreAt slot fun c => { c with q.waitq := [] }
  let s2 := s1.each (List.range 4) fun s k =>
    s.each (((tagged.filter fun p => p.1 = k).map Prod.snd) ++ (read.filter fun p => p.1 = k).filterMap fun p => p.2.2) fun s r =>
      s.enqueueOrWait slot r
  s2.mapCoreAt slot fun c => { c with q.waitq := c.q.waitq ++ q }
where
  /-- The job's records in a ring, read before anything is enqueued over them: place, and the record unless it cannot be read. -/
  spilled (s : State) (slot l : Nat) (ring : Nat × List (Option RingRec)) : List (Nat × Option Rec) :=
    let g := (s.coreAt slot).g
    ring.2.zipIdx.filterMap fun p => p.1.map fun m =>
      let ws := ringWords g slot l (ring.1 + p.2)
      let w (k : Nat) : Word := s.mem.data (ws.getD k 0)
      (ring.1 + p.2, if ws.any s.mem.isBad then none else some (m.on (Rec.ofWords (w 0) (w 1) (w 2))))

/-- A context whose image has been read whole stands on its core again (R221, R376). -/
def State.applyImage (s : State) (slot : Nat) (v : Saved) (l : List Word) : State :=
  let csr := (l.drop 16).take 15
  let act := (l.drop 32).take 512
  let queue := (l.drop 544).take 1024
  let routes := (l.drop 1568).take 512
  let z := (l.drop 2080).take 4096
  let n := (l.getD 1 0).toNat / 2 ^ 16 % 1024
  let rs := ((List.range ((l.getD 1 0).toNat / 2 ^ 32 % 16)).map fun i => (l.getD (8 + i) 0).toNat).map fun w =>
    (w % 2 ^ 20, w / 2 ^ 32 % 2 ^ 20)
  let sleep := l.drop 6176
  let held := (s.coreAt slot).u.halted || (s.coreAt slot).u.haltPend
  let graph := match s.jobAt v.job with
    | some j => (s.conf (slotDie slot) j.graph).active
    | none => []
  let used := sleepWords sleep n
  let s1 := s.restoreRanges slot rs (sleep.drop ((used + 7) / 8 * 8))
  let s2 := s1.mapCoreAt slot fun c =>
    let c1 := (savedCsrs.zip csr).foldl (fun c p => c.csrPut p.1 p.2) c
    { c1 with
      u.job := some v.job, u.jobPrio := v.prio, u.swap := none, routeTab := routesAt graph v.job slot,
      q.actors := (List.range 64).foldl (fun t i =>
        FMap.put {} t i (actorOfWords ((act.drop (8 * i)).take 8) (FMap.get {} v.actors i)
          (held && (FMap.get {} v.actors i).en))) [],
      m.routes := (List.range 256).foldl (fun t i =>
        FMap.put none t i (routeOfWords (routes.getD (2 * i) 0) (routes.getD (2 * i + 1) 0))) [],
      m.credits := c.m.credits + v.credits,
      e.z := (List.range 8192).foldl (fun t i =>
        FMap.put 0 t i ((z.getD (i / 2) 0).extractLsb' (32 * (i % 2)) 32)) [], e.zbad := v.zbad }
  let s3 := s2.restoreQueues slot v queue
  let s4 := s3.mapCoreAt slot fun c =>
    let recs := ((List.range 4).flatMap fun k => (levelQ c.q k).map QRec.item) ++ c.q.waitq
      ++ (s3.sleepersOf slot v.job).map Sleeper.item
    { c with m.frames := (List.range (frameCount c.g)).filter fun i =>
        c.m.frames.contains i || recs.any fun r => r.msg && r.frame.toNat == frameBase c.g i }
  let s5 := s4.restoreSleepers slot ((s4.sleepersOf slot v.job).take n) sleep
  ((s5.evalCore slot).lookInputs slot).dueAt .taskDispatch slot
where
  /-- Words that n sleeping records take. -/
  sleepWords (l : List Word) (n : Nat) : Nat :=
    match n with
    | 0 => 0
    | k + 1 => let m := 5 + (l.getD 4 0).toNat % 128
      m + sleepWords (l.drop m) k

/-- CONTEXT_RESTORE: the engine reads its image up to the next page boundary, or ends; an image word that is bad fails the
check (entry 17); place: the slot. -/
def execContextRestore (s : State) : Host.Outcome State Fault Refusal :=
  atSlot s fun s =>
    let slot := s.arg.place
    let d := slotDie slot
    match (s.coreAt slot).u.swap with
    | none => s
    | some w =>
      if w.save || w.paused then s
      else
        let l := wordsOf w.image (w.image.length / 8)
        let n := (l.getD 0 0).toNat
        let known := decide (16 ≤ w.cursor)
        if known && ((l.getD 1 0).setWidth 12 != w.job || decide (w.len < n)) then s.abortRestore slot w 3 n
        else if known && decide (n ≤ w.cursor) then
          match (s.dieAt d).ds.saved.find? fun v => v.slot == slot && v.job == w.job with
          | none => s.setSwap slot none
          | some v =>
            let t := (s.mapDs d fun x => { x with saved := x.saved.filter fun u => u ≠ v }).applyImage slot v l
            ((t.swapNotice slot w.job 0 0 w.cursor n).serveCore slot).lookRest slot
        else if w.len ≤ w.cursor then s.abortRestore slot w 3 n
        else
          let va := w.addr + BitVec.ofNat 64 w.cursor
          let k := min (if known then n - w.cursor else w.len - w.cursor) (4096 - va.toNat % 4096)
          match s.dramSpot d 0 va .read with
          | (t, .at_ f) =>
            let rd := t.engineRead ((List.range k).map fun i => f + i)
            if rd.2.any Prod.snd then rd.1.abortRestore slot w 3 n
            else (rd.1.setSwap slot (some { w with cursor := w.cursor + k, image := w.image ++ rd.2.map Prod.fst })).dueAt
              .contextRestore slot
          | (t, .fault r) =>
            ((t.setSwap slot (some { w with paused := true })).holdFault d
              { id := none, va := va, job := 0, reason := r, access := 0, unit_ := 4, place := slot }).swapNotice slot w.job 1 1
              w.cursor n
          | (t, .bad _) => t.abortRestore slot w 1 n
          | (t, .wait) => t

end Sys2Proof.Machine
end

