-- ==== Sys2Proof/Machine/Drift.lean ====
section
/-! DEFINITION. Drift samples (R263) and the migrations that follow from them (R327 to R330). -/
namespace Sys2Proof.Machine

def State.mapDrift (s : State) (d : Nat) (f : DriftUnit → DriftUnit) : State :=
  s.mapDieAt d fun x => { x with drift := f x.drift }

/-! ### Candidates (R327) -/

/-- A sample's effect on a core's count: num the actor it names, occ its occupancy. -/
def DriftCount.sample (c : DriftCount) (num occ : Nat) (seq : BitVec 16) : DriftCount :=
  { num := num,
    run := if 75 < occ then (if c.num = num ∧ seq = c.seq + 1 then c.run + 1 else 1) else 0,
    seq := seq,
    waits := (c.waits.map fun p => (p.1, p.2 - 1)).filter fun p => p.2 ≠ 0 }

/-- Whether a count names a candidate. -/
def DriftCount.candidate (c : DriftCount) : Bool := decide (8 ≤ c.run) && !c.waits.any fun p => p.1 == c.num

/-- Whether the running task of a core is an actor's firing and stands in a trap handler (R172). -/
def Core.trappedActor (c : Core) (n : Nat) : Bool :=
  c.trapped && (match c.h.task with
    | some t => c.actorOf t.item == some n
    | none => false)

/-- Whether Drift may move an actor at all: not held, trapped, or on a core that is swapped or held (R328, R371). -/
def Core.movable (c : Core) (n : Nat) : Bool :=
  let a := c.actor n
  a.en && !a.held && !a.mig && !c.trappedActor n && c.u.swap.isNone && !c.u.preempt && !c.u.whold

/-! ### Destinations (R328) -/

/-- Scratchpad ranges of an actor: its state block, and the rings of its inputs. -/
def State.actorRanges (s : State) (slot n : Nat) : List (Nat × Nat) :=
  let a := (s.coreAt slot).actor n
  (a.state.toNat, a.size) :: s.wafer.edges.filterMap fun p =>
    if p.2.dst = .actor slot n then some (p.2.ring, p.2.slots * (8 + p.2.bytes)) else none

/-- Ranges in use at a core: those of its actors, and code, data, frame pool, spill area and undo log. -/
def State.usedRanges (s : State) (slot : Nat) (job : BitVec 12) : List (Nat × Nat) :=
  let c := s.coreAt slot
  let m := match s.jobAt job with
    | some j => (s.conf (slotDie slot) j.graph).active
    | none => []
  ((c.q.actors.filter fun p => p.2.en).flatMap fun p => s.actorRanges slot p.1)
    ++ [(imgCodeAt m, (imgSec m 0).2), (imgDataAt m, (imgSec m 1).2), (frameBase c.g 0, frameCount c.g * frameSize c.g),
      (ringSlot c.g 0 0, 4 * 32 * ringCap c.g), (c.g.undo.toNat, c.g.undol.toNat - c.g.undo.toNat)]

def meetRange (a b : Nat × Nat) : Bool :=
  decide (0 < a.2) && decide (0 < b.2) && decide (a.1 < b.1 + b.2) && decide (b.1 < a.1 + a.2)

/-- The lowest free entry of an actor table. -/
def Core.freeEntry (c : Core) : Option Nat := (List.range 64).find? fun n => !(c.actor n).en

/-- Whether a core may take an actor of another; not while its hart is in a trap handler (R172); own: the entry that is already reserved for it there. -/
def State.qualifies (s : State) (slot n dst : Nat) (own : Option Nat) : Bool :=
  let c := s.coreAt slot
  let t := s.coreAt dst
  dst != slot && slotCluster dst == slotCluster slot && t.u.job.isSome && t.u.job == c.u.job && c.g.cls.ult t.g.cls
    && (match own with
      | some m => !(t.actor m).en
      | none => t.freeEntry.isSome)
    && t.u.swap.isNone && !t.u.whold && (own.isSome || !s.rowHeld dst) && t.h.traps.isEmpty && !s.isHole dst
    && (s.actorRanges slot n).all fun a => (s.usedRanges dst (t.u.job.getD 0)).all fun b => !meetRange a b

/-- Whether a destination stands before another: the higher class, then fewer queued records, then the lower idx. -/
def State.better (s : State) (a b : Nat) : Bool :=
  let x := s.coreAt a
  let y := s.coreAt b
  let n (c : Core) : Nat := ((List.range 4).map (levelCount c.q)).sum
  y.g.cls.ult x.g.cls || (x.g.cls == y.g.cls && (decide (n x < n y) || (n x == n y && decide (slotIdx a < slotIdx b))))

/-- The core that an actor is to move to. -/
def State.destination (s : State) (slot n : Nat) : Option Nat :=
  (((List.range 16).map (clusterSlot (slotCluster slot))).filter fun t => s.qualifies slot n t none).foldl (fun best t =>
    match best with
    | none => some t
    | some b => if s.better t b then some t else some b) none

/-- A candidate of a core begins its migration: mig := 1 (R329, Stopping). -/
def State.startMigration (s : State) (slot n : Nat) : State :=
  let d := slotDie slot
  if (s.dieAt d).drift.mig.isSome || !(s.coreAt slot).movable n || s.rowHeld slot then s
  else match s.destination slot n with
    | none => s
    | some t =>
      ((s.mapActor slot n fun a => { a with mig := true }).mapDrift d fun x =>
        { x with mig := some { slot := slot, num := n, dst := t, dnum := ((s.coreAt t).freeEntry).getD 0,
                               job := (s.coreAt slot).u.job.getD 0 } }).dueAt .driftDrain d

/-- DRIFT_SAMPLE: the core publishes its Drift sample in slot 0, and the die's Drift reads it; place: the slot; a: the samples that are
owed (R263). -/
def execDriftSample (s : State) : Host.Outcome State Fault Refusal :=
  atSlot s fun s =>
    let slot := s.arg.place
    let d := slotDie slot
    let c := s.coreAt slot
    let b := s.busiest slot
    let n := ((List.range 4).map (levelCount c.q)).sum
    let t := s.putSample slot 0 (n % 2 ^ 16 + b.2 * 2 ^ 16 + b.1 * 2 ^ 24 + c.g.cls.toNat * 2 ^ 32)
    let seq : BitVec 16 := (FMap.get 0 (t.coreAt slot).u.samples 0).extractLsb' 48 16
    let k := (FMap.get {} (t.dieAt d).drift.counts slot).sample b.2 b.1 seq
    let u := t.mapDrift d fun x => { x with counts := FMap.put {} x.counts slot k }
    let w := if k.candidate then u.startMigration slot b.2 else u
    if s.arg.a ≤ 1 then w else w.due .driftSample { place := slot, a := s.arg.a - 1 }

/-! ### The migration (R329) -/

/-- Edges into an actor, and out of it. -/
def State.edgesInto (s : State) (slot n : Nat) : List (Nat × Edge) := s.wafer.edges.filter fun p => p.2.dst = .actor slot n
def State.edgesFrom (s : State) (slot n : Nat) : List (Nat × Edge) := s.wafer.edges.filter fun p => p.2.src = .actor slot n

/-- What waits for a migration to end looks again (R329, R371). -/
def State.afterMigration (s : State) (m : Migration) : State :=
  ((s.each [m.slot, m.dst] fun s t => (s.lookRest t).dueAt .systemFormAtTarget t).dueAt .barchanCopySlot (slotDie m.slot)).dueAt
    .removalRequest (slotDie m.slot)

/-- Producers let go of the tokens they hold for an actor, towards where it now stands. -/
def State.releaseHeld_ (s : State) (slot n : Nat) : State :=
  s.each (s.edgesInto slot n) fun s p =>
    (s.mapEdge p.1 fun e => { e with heldBack := [] }).each p.2.heldBack fun s m =>
      s.emitOrQueue p.2 { m with dst := s.nodeSlot p.2.dst }

/-- A migration is abandoned: the actor goes on where it stands. -/
def State.abandon (s : State) (d : Nat) (m : Migration) : State :=
  let t := s.mapDrift d fun x => { x with mig := none }
  if ((t.coreAt m.slot).actor m.num).mig then
    (((t.mapActor m.slot m.num fun a => { a with mig := false }).releaseHeld_ m.slot m.num).evalActor m.slot m.num).afterMigration m
  else t.afterMigration m

/-- DRIFT_ABANDON: a migration that has not begun to copy and whose destination no longer qualifies; place: the die. -/
def execDriftAbandon (s : State) : Host.Outcome State Fault Refusal :=
  atDie s fun s =>
    match (s.dieAt s.arg.place).drift.mig with
    | none => s
    | some m =>
      if (m.state = .stopping ∨ m.state = .draining) ∧ s.qualifies m.slot m.num m.dst (some m.dnum) = false then
        s.abandon s.arg.place m
      else s

/-- Whether a send-queue entry is a token of an edge that has not been injected before. -/
def freshToken (k : Nat) (m : Send) : Bool :=
  match m.body with
  | .token t => t.edge == k && !t.again
  | _ => false

/-- A producer keeps the tokens of an edge that its stream queue still holds. -/
def State.holdBack (s : State) (k : Nat) (e : Edge) : State :=
  let slot := s.nodeSlot e.src
  let q := (s.coreAt slot).sendq 2
  (s.mapCoreAt slot fun c =>
    { c with m.sendq := FMap.put [] c.m.sendq 2 (q.filter fun m => !freshToken k m) }).mapEdge k fun e =>
    { e with heldBack := q.filter (freshToken k) ++ e.heldBack }

/-- Whether a token of an edge is on its way: queued, in the network, at its ring, or asked for again. -/
def State.onTheWay (s : State) (k : Nat) (e : Edge) : Bool :=
  let has (b : Body) : Bool := match b with
    | .token t => t.edge == k
    | _ => false
  !e.arrived.isEmpty || ((s.coreAt (s.nodeSlot e.src)).sendq 2).any (fun m => has m.body) || s.wafer.net.any (fun p => has p.body)
    || (s.dies.any fun d => d.2.clk.relq.any fun w => match w.body with
      | .packet p => has p.body
      | _ => false)
    || s.agenda.any fun d => d.ev == .tokenReinject && d.arg.place == k

/-- DRIFT_DRAIN: once busy is clear, producers hold further tokens (Stopping to Draining); place: the die. -/
def execDriftDrain (s : State) : Host.Outcome State Fault Refusal :=
  atDie s fun s =>
    let d := s.arg.place
    match (s.dieAt d).drift.mig with
    | none => s
    | some m =>
      if m.state ≠ .stopping ∨ ((s.coreAt m.slot).actor m.num).busy = true then s
      else if !s.qualifies m.slot m.num m.dst (some m.dnum) then s.dueAt .driftAbandon d
      else ((s.each (s.edgesInto m.slot m.num) fun s p => s.holdBack p.1 p.2).mapDrift d fun x =>
        { x with mig := some { m with state := .draining } }).dueAt .driftCopy d

/-- Copies words with their tags from one scratchpad to another at the same offsets. -/
def Mem.copyWords (m : Mem) (src dst off n : Nat) : Mem :=
  (List.range (n / 8)).foldl (fun m i =>
    let f := spFlat src off + 8 * i
    let g := spFlat dst off + 8 * i
    (m.writeWord g (m.data f)).putTag g { full := (m.tag f).full, poison := m.isBad f }) m

/-- Copies a ring: its full slots; the others stand empty. -/
def Mem.copyRing (m : Mem) (src dst : Nat) (e : Edge) : Mem :=
  let n := 8 + e.bytes
  (List.range e.slots).foldl (fun m i =>
    if (m.tag (spFlat src (e.header i))).full then m.copyWords src dst (e.header i) n
    else m.clearWords (spFlat dst (e.header i)) n) m

/-- DRIFT_COPY: once every injected token has landed, state block, rings and entry are copied to the new core (Draining to
Copying and on); place: the die. -/
def execDriftCopy (s : State) : Host.Outcome State Fault Refusal :=
  atDie s fun s =>
    let d := s.arg.place
    match (s.dieAt d).drift.mig with
    | none => s
    | some m =>
      let into := s.edgesInto m.slot m.num
      if m.state ≠ .draining ∨ (into.any fun p => s.onTheWay p.1 p.2) = true then s
      else if !s.qualifies m.slot m.num m.dst (some m.dnum) then s.dueAt .driftAbandon d
      else
        let a := (s.coreAt m.slot).actor m.num
        let rs := s.actorRanges m.slot m.num
        let s1 := s.mapMem fun mm => (into.map Prod.snd).foldl (fun mm e => mm.copyRing m.slot m.dst e)
          (mm.copyWords m.slot m.dst a.state.toNat a.size)
        let s2 := s1.touchAll none (rs.flatMap fun r => (List.range (r.2 / 8)).map fun i => spFlat m.dst r.1 + 8 * i)
        let s3 := s2.mapActor m.dst m.dnum fun _ => { a with held := (s2.coreAt m.dst).u.halted }
        (s3.mapDrift d fun x => { x with mig := some { m with state := .copying } }).dueAt .driftResume d

/-- DRIFT_RESUME: edges point to the new core, the old entry is disabled, producers let go of their tokens, and the firing
rule is evaluated there (Rewiring, Resuming); place: the die. -/
def execDriftResume (s : State) : Host.Outcome State Fault Refusal :=
  atDie s fun s =>
    let d := s.arg.place
    match (s.dieAt d).drift.mig with
    | none => s
    | some m =>
      if m.state ≠ .copying then s
      else
        let s1 := s.each (s.edgesInto m.slot m.num) fun s p => s.mapEdge p.1 fun e => { e with dst := .actor m.dst m.dnum }
        let s2 := s1.each (s1.edgesFrom m.slot m.num) fun s p => s.mapEdge p.1 fun e => { e with src := .actor m.dst m.dnum }
        let s3 := (s2.mapActor m.slot m.num fun a => { a with en := false }).mapActor m.dst m.dnum fun a =>
          { a with mig := false }
        let s4 := s3.mapDrift d fun x =>
          let k := FMap.get {} x.counts m.dst
          { x with mig := none, counts := FMap.put {} x.counts m.dst { k with waits := k.waits ++ [(m.dnum, 16)] } }
        (((s4.releaseHeld_ m.dst m.dnum).evalActor m.dst m.dnum).afterMigration m)

end Sys2Proof.Machine
end

