-- ==== Sys2Proof/Machine/Settle.lean ====
section
/-! DEFINITION. Quiescence waves (R323 to R326, R389), and progress, stall classes and watchdogs (R350 to R353). -/
namespace Sys2Proof.Machine

/-! ### Activity of a job (R324) -/

/-- Records of a level's ring as its words give them. -/
def State.ringRecs (s : State) (slot l : Nat) : List Rec :=
  (List.range (levelRing (s.coreAt slot).q l).seqs.length).map (s.ringRec slot l)

/-- Whether a core has records, messages or engine commands of a job that are not at rest, or its hart is in a trap handler
(R172). -/
def State.coreActive (s : State) (slot : Nat) (job : BitVec 12) : Bool :=
  let c := s.coreAt slot
  (match c.h.task with
    | some t => t.item.job == job
    | none => false)
    || (c.q.fifo.any fun p => p.2.any fun r => r.item.job == job) || (c.q.waitq.any fun r => r.job == job)
    || ((List.range 4).any fun l => (s.ringRecs slot l).any fun r => r.job == job)
    || (c.m.sendq.any fun p => p.2.any fun m => m.job == job) || (c.m.inq.any fun p => p.2.any fun m => m.job == job)
    || (c.e.mxq.any fun o => o.job == job) || (c.e.cpq.any fun o => o.job == job) || (c.e.drq.any fun o => o.job == job)
    || (c.e.sb.any fun e => match e with
      | .nb op => op.job == job
      | _ => false)
    || (!c.h.traps.isEmpty && c.u.job == some job)

/-- Whether a die, a cluster, a DRAM actor or a network holds something of a job on its way. A packet that waits at a combine
point is not in flight (R381). -/
def State.waferActive (s : State) (job : BitVec 12) : Bool :=
  (s.wafer.net.any fun p => p.job == job && !p.held)
    || (s.wafer.edges.any fun p => p.2.job == job && (!p.2.arrived.isEmpty || !p.2.heldBack.isEmpty
      || s.agenda.any fun d => d.ev == .tokenReinject && d.arg.place == p.1))
    || (s.wafer.actors.any fun p => (p.2.ports.any fun q => q.2.any fun r => r.job == job)
      || (p.2.jobs.any fun j => j.job == job) || p.2.pieces.any fun r => r.job == job)
    || (s.clusters.any fun p => (p.2.layq.any fun c => c.job == job) || (p.2.nbq.any fun c => c.job == job)
      || p.2.fired.any fun r => r.2.2.job == job)
    || (s.wafer.replq.any fun r => r.job == job)
    || s.dies.any fun p => (p.2.ds.waiting.any fun l => l.job == job)
      || p.2.clk.relq.any fun w => match w.body with
        | .packet q => q.job == job
        | .engine _ _ j _ _ => j == job
        | .nb op => op.job == job
        | _ => false

def State.jobActive (s : State) (job : BitVec 12) : Bool :=
  s.waferActive job || s.cores.any fun p => s.coreActive p.1 job

/-! ### The stuck report (R326) -/

/-- Input ports of an actor whose rings hold a token. -/
def State.tokenPorts (s : State) (slot : Nat) (a : ActorEntry) : Nat :=
  ((List.range 8).map fun q => match (boundEdge a.inq q).bind s.edgeAt with
    | some e => if (List.range e.slots).any fun i => (s.mem.tag (spFlat slot (e.header i))).full then 2 ^ q else 0
    | none => 0).sum

/-- Actor entries of the report for a core. -/
def State.reportActors (s : State) (slot : Nat) : List Word :=
  (s.coreAt slot).q.actors.flatMap fun p =>
    let t := s.tokenPorts slot p.2
    if p.2.en ∧ (p.2.busy = true ∨ t ≠ 0) then
      [slotXY slot + BitVec.ofNat 64 (p.1 * 2 ^ 16 + (if p.2.busy then 2 ^ 24 else 0) + t * 2 ^ 32), s.stallWordOf p.2]
    else []

/-- A sleeping entry of the report. -/
def Sleeper.report (sl : Sleeper) : List Word :=
  sl.item.toWords ++ [slotXY sl.slot + BitVec.ofNat 64 (sl.locals.length % 128 * 2 ^ 16)] ++ sl.locals

/-- Writes bytes from an address of job 0's space as far as it translates; n bounds the pages. -/
def State.writeArea (s : State) (d : Nat) (va : Word) (l : List Byte) (n : Nat) : State :=
  match n with
  | 0 => s
  | k + 1 =>
    if l.isEmpty then s
    else
      let m := min l.length (4096 - va.toNat % 4096)
      let put (t : State) (f : Nat) : State :=
        t.engineWrite 0 none ((l.take m).zipIdx.map fun (p : Byte × Nat) => (f + p.2, p.1, false)) false
      let t : State := match s.dramSpot d 0 va .write with
        | (t, .at_ f) => put t f
        | (t, _) => t
      t.writeArea d (va + BitVec.ofNat 64 m) (l.drop m) k

/-- A die writes its stuck report, if it has a save area for the job; answers the report's address. -/
def State.stuckReport (s : State) (d : Nat) (job : BitVec 12) (b : Int) : State × Word :=
  let a := FMap.get {} (s.dieAt d).ds.areas job.toNat
  if a.len = 0 then (s, 0)
  else
    let slots := (s.cores.filter fun p => slotDie p.1 = d ∧ p.2.u.job = some job).map Prod.fst
    let acts := slots.flatMap s.reportActors
    let sleep := slots.flatMap fun t => s.sleepersOf t job
    let body := acts ++ sleep.flatMap Sleeper.report
    let total := 32 + 8 * body.length
    let w0 := BitVec.ofNat 64 (job.toNat + d * 2 ^ 16 + acts.length / 2 % 2 ^ 16 * 2 ^ 32 + (if a.len < total then 2 ^ 63 else 0))
    let l := ([w0, BitVec.ofNat 64 (sleep.length % 2 ^ 16), BitVec.ofInt 64 b, 0] ++ body).flatMap fun w => bytesOf w.toNat 8
    (s.writeArea d a.addr (l.take a.len) (l.length / 4096 + 2), a.addr)

/-! ### The wave (R324, R325) -/

/-- Tells the dies that hold cores of a job how it settled; a stuck one with its reports. -/
def State.tellSettled (s : State) (job : BitVec 12) (j : Job) (stuck : Bool) : State :=
  s.each ((List.range dieCount).filter j.onDie) fun s d =>
    let r := if stuck then s.stuckReport d job j.balance else (s, 0)
    r.1.notice d { kind := 7, w1 := job.setWidth 64, w2 := BitVec.ofInt 64 j.balance, w3 := r.2 }

/-- One job in a wave: idle in two waves with no event between them, it is settled; one that has lost a context is stuck
(R372). -/
def State.waveJob (s : State) (job : BitVec 12) (j : Job) : State :=
  if s.jobActive job then s.putJob job (some { j with idle := 0, events := 0, stuck := false })
  else if 1 ≤ j.idle ∧ j.events = 0 then
    if j.balance = 0 ∧ j.lost = false then (s.tellSettled job j false).freeJob job
    else if j.stuck then s
    else (s.tellSettled job j true).putJob job (some { j with idle := 2, stuck := true })
  else s.putJob job (some { j with idle := 1, events := 0, stuck := false })

/-- The lowest A that any die holds for a die (R389). -/
def State.lowestA (s : State) (d : Nat) : BitVec 32 :=
  (List.range dieCount).foldl (fun m e =>
    let a := FMap.get 0 (s.clocksAt e).a d
    if precedes a m then a else m) (FMap.get 0 (s.clocksAt 0).a d)

/-- What the wave's lows may let go on: injections, stores and commands of cores, and replies of DRAM actors. -/
def State.lookReleases (s : State) : State :=
  let t := s.each (s.cores.map Prod.fst) fun s c => s.lookAgain c
  t.each (t.wafer.actors.map Prod.fst) fun s n => s.dueAt .dramReply n

/-- QUIESCENCE_WAVE: every region controller reports for each live job, and the lowest A of each die is collected. -/
def execQuiescenceWave (s : State) : Host.Outcome State Fault Refusal :=
  let s1 := s.mapWafer fun w => { w with wave := w.wave + 1 }
  let s2 := s1.each s1.wafer.jobs fun s p => match p.2 with
    | some j => s.waveJob (BitVec.ofNat 12 p.1) j
    | none => s
  let s3 := s2.each (s2.dies.map Prod.fst) fun s d => s.mapClocks d fun k => { k with low := s.lowestA d }
  .next s3.lookReleases

/-! ### The watchdog (R352, R353) -/

/-- A core's watchdog interval in µs; slotCount stands for the die. -/
def RegionCtl.interval (x : RegionCtl) (slot : Nat) : Nat :=
  (FMap.find x.intervals slot).getD ((FMap.find x.intervals slotCount).getD 1000)

/-- Inserts an actor into a list by falling count. -/
def insertBusy (a : ActorEntry) (l : List ActorEntry) : List ActorEntry :=
  match l with
  | [] => [a]
  | b :: t => if b.stallCount.ult a.stallCount then a :: b :: t else b :: insertBusy a t

/-- The eight actors of a core with the highest stall counts. -/
def Core.busiestActors (c : Core) : List ActorEntry :=
  (((c.q.actors.filter fun p => p.2.en).map Prod.snd).foldl (fun l a => insertBusy a l) []).take 8

/-- Cause of the trap whose handler a hart is in, 0 elsewhere. -/
def Core.trapCause (c : Core) : Nat := (c.h.traps.headD 0).toNat

/-- Words of a scan block. -/
def State.scanBlock (s : State) (slot cls : Nat) : List Word :=
  let c := s.coreAt slot
  let counters := c.busiestActors.map s.stallWordOf
  let pc := c.h.pc
  let word := match localFlat slot pc with
    | some f => ((s.mem.data f).extractLsb' (8 * (f % 8)) 32).setWidth 64
    | none => 0
  [slotXY slot + BitVec.ofNat 64 (c.jobOf.toNat * 2 ^ 16 + cls * 2 ^ 28), pc, word,
    BitVec.ofNat 64 (c.mode.code.toNat + c.trapCause * 2 ^ 8), c.h.pend.setWidth 64, c.gvrgn, c.queuedWord, c.u.prog.setWidth 64]
    ++ (List.range 8).map fun i => counters.getD i 0

/-- Writes the scan block of a core, if one is free, and posts its notice; else the notice waits. -/
def State.scanOut (s : State) (slot cls : Nat) : State :=
  let d := slotDie slot
  match (s.dieAt d).rc.box with
  | none => s
  | some b =>
    match (List.range 8).find? fun i => !(s.mem.tag (scanBlockFlat b i)).full with
    | none => s.mapDieAt d fun x => { x with rc.scanWait := x.rc.scanWait ++ [slot] }
    | some i =>
      let f := scanBlockFlat b i
      let t := (s.mapMem fun m => m.writeWords f (s.scanBlock slot cls)).touchAll none ((List.range 16).map fun k => f + 8 * k)
      (t.putFull none f true).notice d { kind := 5, w1 := slotXY slot, w2 := BitVec.ofNat 64 i }

/-- WATCHDOG_FIRE: a core has stayed in class 1 for a µs with its progress counter at b; place: the slot. It is halted and
scanned out; a core whose notice waits for a block is scanned out once one is free. -/
def execWatchdogFire (s : State) : Host.Outcome State Fault Refusal :=
  atSlot s fun s =>
    let slot := s.arg.place
    let d := slotDie slot
    let x := (s.dieAt d).rc
    if x.scanWait.contains slot then
      (s.mapDieAt d fun y => { y with rc.scanWait := x.scanWait.filter (· ≠ slot) }).scanOut slot 1
    else if s.stallClass slot = 1 ∧ x.interval slot ≤ s.arg.a ∧ (s.coreAt slot).u.prog.toNat = s.arg.b then
      (s.mapCoreAt slot Core.halt).scanOut slot 1
    else s

end Sys2Proof.Machine
end

