-- ==== Sys2Proof/Machine/Pages.lean ====
section
/-! DEFINITION. Replicated DRAM pages (R391 to R393) and page moves (R394, R395). -/
namespace Sys2Proof.Machine

def State.mapPages (s : State) (d : Nat) (f : Pages → Pages) : State := s.mapDieAt d fun x => { x with pages := f x.pages }

/-- What waited for a page looks again: mailbox commands, engine commands, saves and restores, DRAM actors with pieces and requests. -/
def State.lookPages (s : State) : State :=
  let r := s.each (s.dies.map Prod.fst) State.dueCommand
  let t := r.lookAllEngines.each (r.cores.filter fun p => p.2.u.swap.isSome) fun s p => match p.2.u.swap with
    | some w => s.dueAt (if w.save then .contextSave else .contextRestore) p.1
    | none => s
  t.each (t.wafer.actors.map Prod.fst) fun s n => (s.dueAt .dramHomePiece n).dueAt .dramRequestTaken n

/-! ### Replicas -/

/-- Applies a write to every replica of its pages, as bytes arriving at cluster memory (R392). -/
def State.applyReplicas (s : State) (w : ReplWrite) : State :=
  s.each s.dies fun s p => s.each p.2.pages.repl fun s r =>
    if r.job ≠ w.job then s
    else
      let l := (w.bytes.filter fun b => decide (b.1 / 4096 * 4096 = r.home)).map fun b => (r.at_ + b.1 % 4096, b.2)
      if l.isEmpty then s else s.engineStore l false

/-- Applies the writes of a job, or of every job, that are on their way to replicas, in number order. -/
def State.flushReplicas (s : State) (job : Option (BitVec 12)) : State :=
  let mine (w : ReplWrite) : Bool := match job with
    | some j => w.job == j
    | none => true
  (s.each (s.wafer.replq.filter mine) State.applyReplicas).mapWafer fun w => { w with replq := w.replq.filter fun r => !mine r }

/-- What a replica's acknowledgement lets go on (R392). -/
def State.afterReplicas (s : State) : State :=
  s.lookAllEngines.each (s.wafer.actors.map Prod.fst) fun s n => s.dueAt .dramReply n

/-- REPLICA_WRITE: the oldest write on its way reaches the replicas. -/
def execReplicaWrite (s : State) : Host.Outcome State Fault Refusal :=
  .next (match s.wafer.replq with
    | [] => s
    | w :: rest =>
      let t := ((s.mapWafer fun x => { x with replq := rest }).applyReplicas w).afterReplicas
      if rest.isEmpty then t else t.dueAt .replicaWrite s.arg.place)

/-- Whether a job's page is being moved, so that a command for it waits. -/
def State.pageWaits (s : State) (d : Nat) (job : BitVec 12) (va : Word) : Bool :=
  match s.translate d job va .read with
  | (t, .inl pa) => t.physSpot pa == .wait
  | (_, .inr _) => false

/-- A page's home: its flat address, as the die's unit translates it for reading. -/
def State.homePage (s : State) (d : Nat) (job : BitVec 12) (va : Word) : State × Option Nat :=
  match s.translate d job va .read with
  | (t, .inl pa) => match t.physSpot pa with
    | .at_ f => (t, some (f / 4096 * 4096))
    | _ => (t, none)
  | (t, .inr _) => (t, none)

/-- Whether an address is one of space 0x02. -/
def isSpace2 (a : Word) : Bool := decide (a.toNat / 2 ^ 48 = 0x200)

/-- The flat address that a 4 KiB aligned space 0x01 address on a die names. -/
def replicaFlat (d : Nat) (a : Word) : Option Nat :=
  let n := a.toNat
  let cy := n / 2 ^ 32 % 256
  let cx := n / 2 ^ 24 % 256
  if n / 2 ^ 40 = 0x10000 ∧ cy < 54 ∧ cx < 48 ∧ n % 4096 = 0 ∧ clusterDie (cy * 48 + cx) = d then
    some (cmFlat (cy * 48 + cx) (n % 2 ^ 24))
  else none

/-- The job's sequencer die is fixed (R391). -/
def State.fixSequencer (s : State) (job : BitVec 12) (die : Nat) : State :=
  s.mapWafer fun w => { w with seqDies := FMap.put 0 w.seqDies job.toNat (die + 1) }

/-- Command 8 (R391): 0 done, 2 bad argument. The replica is filled from the page at one point of the sequencer's order. -/
def State.replicate_ (s : State) (d : Nat) (w1 w2 w3 : Word) : State × Nat :=
  let job : BitVec 12 := w1.setWidth 12
  let seqDie := w1.toNat / 2 ^ 16 % 128
  let known := FMap.get 0 s.wafer.seqDies job.toNat
  let without (x : Pages) : Pages :=
    { x with repl := x.repl.filter fun r => !(r.job == job && vaPage r.va 0 == vaPage w2 0) }
  if w1 &&& 0xFFFFFFFFFF80F000 ≠ 0 ∨ dieCount ≤ seqDie ∨ (known ≠ 0 ∧ known ≠ seqDie + 1) ∨ isSpace2 w2 = false
      ∨ w2.toNat % 4096 ≠ 0 then (s, 2)
  else if w3 = 0 then ((s.mapPages d without).fixSequencer job seqDie, 0)
  else match replicaFlat d w3 with
    | none => (s, 2)
    | some f =>
      if 256 ≤ (without (s.dieAt d).pages).repl.length then (s, 2)
      else match (s.mapPages d without).homePage d job w2 with
        | (_, none) => (s, 2)
        | (t, some home) =>
          let u := (t.flushReplicas (some job)).afterReplicas
          let rd := u.engineRead ((List.range 4096).map fun i => home + i)
          let v := rd.1.engineStore (rd.2.zipIdx.map fun p => (f + p.2, p.1.1, p.1.2)) false
          ((v.mapPages d fun x =>
            { x with repl := x.repl ++ [{ job := job, va := w2, seqDie := seqDie, at_ := f, home := home }] }).fixSequencer job seqDie,
            0)

/-! ### Moves -/

/-- The physical page of a job's page with its home on a die that translation units still hold. -/
def State.heldPage (s : State) (d : Nat) (job : BitVec 12) (va : Word) (new : Nat) : Option Nat :=
  s.dies.findSome? fun p => (p.2.x.tlb.find? fun e =>
    let pa := leafAddr e.pte e.level va / 4096 * 4096
    e.job == job && e.covers va && decide (pa ≠ new) && (match physFlat pa with
      | some f => flatDie f == d
      | none => false)).map fun e => leafAddr e.pte e.level va / 4096 * 4096

/-- The old page of a move: the command does not name it, and the page table already names the new one, so that it is the one
translation units still hold, or, where none holds one, a free-valued page of the die's DRAM actor (DESIGN CHOICE, entry 19). none:
the die has no DRAM actor. -/
def State.oldPage (s : State) (d : Nat) (job : BitVec 12) (va : Word) (new : Nat) : State × Option Nat :=
  match s.heldPage d job va new, (List.range actorCount).find? fun n => actorDie n = d with
  | some pa, _ => (s, some pa)
  | none, some n => ({ s with fresh := s.fresh + 1 },
      some (((Config.freeWord s.fresh).toNat % (dramSize / 4096) * 16 + n) * 4096))
  | none, none => (s, none)

/-- Command 9 begins a move (R394, Holding). none: a bad argument. -/
def State.beginMove (s : State) (d slot : Nat) (w1 w2 w3 : Word) : Option State :=
  let job : BitVec 12 := w1.setWidth 12
  if w1.toNat / 2 ^ 12 ≠ 0 ∨ isSpace2 w2 = false ∨ w2.toNat % 4096 ≠ 0 ∨ w3.toNat % 4096 ≠ 0
      ∨ (w3 ≠ 0 ∧ (2 ^ 46 ≤ w3.toNat ∨ physFlat w3.toNat = none)) then none
  else match s.oldPage d job w2 w3.toNat with
    | (_, none) => none
    | (t, some old) => some ((t.mapPages d fun x =>
        { x with moves := x.moves ++ [{ job := job, va := w2, oldPa := old, newPa := w3.toNat, removal := decide (w3 = 0),
                                        cmdSlot := slot }] }).dueAt .pageMoveCopy d)

/-- Whether a request stands at a DRAM actor that has begun on, or was sent on to, a physical page. -/
def State.piecesIn (s : State) (pa : Nat) : Bool :=
  match physFlat pa with
  | none => false
  | some f => s.wafer.actors.any fun p => p.2.pieces.any fun r => match r.place with
    | some g => decide (g / 4096 * 4096 = f)
    | none => false

/-- The first move of a die with or without its copy made. -/
def State.moveAt (s : State) (d : Nat) (copied : Bool) : Option Move :=
  (s.dieAt d).pages.moves.find? fun m => m.copied == copied

/-- PAGE_MOVE_COPY: once every request begun at the old home has completed, the page is written at its new home; place: the
die. -/
def execPageMoveCopy (s : State) : Host.Outcome State Fault Refusal :=
  atDie s fun s =>
    let d := s.arg.place
    match s.moveAt d false with
    | none => s
    | some m =>
      if s.piecesIn m.oldPa then s
      else
        let put (s : State) (f g : Nat) : State :=
          let rd := s.engineRead ((List.range 4096).map fun i => f + i)
          rd.1.engineStore (rd.2.zipIdx.map fun (p : (Byte × Bool) × Nat) => (g + p.2, p.1.1, p.1.2)) false
        let t : State := match physFlat m.oldPa, physFlat m.newPa with
          | some f, some g => if m.removal then s else put s f g
          | _, _ => s
        ((t.mapPages d fun x => { x with moves := x.moves.map fun n => if n = m then { n with copied := true } else n }).lookPages).dueAt
          .pageMoveDone d

end Sys2Proof.Machine
end

