-- ==== Sys2Proof/Machine/Command.lean ====
section
/-! DEFINITION. The commands of the supervisor's mailbox (R344, R348, R349, R391, R394, R419), and the end of a page move. -/
namespace Sys2Proof.Machine

/-! ### Taking a command (R344) -/

/-- The command that a die's controller takes next, if its op is one of a kind: its slot and words 1 to 3. -/
def State.command (s : State) (d : Nat) (kind : Nat → Bool) : Option (Nat × Word × Word × Word) :=
  match (s.dieAt d).rc.box with
  | none => none
  | some b =>
    let f := cmdSlotFlat b b.nextCmd
    if (s.mem.tag f).full && kind ((s.mem.data f).toNat % 256) then
      some (b.nextCmd, s.mem.data (f + 8), s.mem.data (f + 16), s.mem.data (f + 24))
    else none

/-- The command is over: its header is emptied as fe.ld empties it, a kind-11 notice tells its slot and status, and the next
slot is looked at. -/
def State.finishCommand (s : State) (d status : Nat) : State :=
  match (s.dieAt d).rc.box with
  | none => s
  | some b =>
    let f := cmdSlotFlat b b.nextCmd
    let t := s.putFull none f false
    let u := t.mapDieAt d fun x => { x with rc.box := x.rc.box.map fun b => { b with nextCmd := (b.nextCmd + 1) % 16 } }
    (u.notice d { kind := 11, w1 := BitVec.ofNat 64 b.nextCmd, w2 := BitVec.ofNat 64 status }).dueCommand d

/-- Runs the command of an op; act answers the state and the status. -/
def runCommand (op : Nat) (act : State → Nat → Word → Word → Word → State × Nat) (s : State) :
    Host.Outcome State Fault Refusal :=
  atDie s fun s =>
    let d := s.arg.place
    match s.command d fun n => n == op with
    | none => s
    | some (_, a, b, c) =>
      let r := act s d a b c
      r.1.finishCommand d r.2

/-- A job number in a word of its own. -/
def jobOfWord (w : Word) : Option (BitVec 12) := if w.toNat < 4096 then some (w.setWidth 12) else none

/-! ### Faults (R348) -/

/-- The open fault of an id. -/
def Xlate.faultOf (x : Xlate) (w : Word) : Option OpenFault := x.faults.find? fun f => f.id == some w.toNat

/-- The held head of a port of a DRAM actor may be taken again. -/
def State.freePort (s : State) (n port : Nat) : State :=
  (s.mapDram n fun a => { a with ports := FMap.put [] a.ports port (match FMap.get [] a.ports port with
    | q :: t => { q with held := false } :: t
    | [] => []) }).dueAt .dramRequestTaken n

/-- A taken request that a page removal returned is translated again (R394). -/
def State.resendPiece (s : State) (f : OpenFault) (j : DJob) : State :=
  let n := f.place
  let w := j.words.getD 1 0
  let acc := dramAccess (dreqOp w)
  match s.dreqSpot n j.slot j.job f.va (dreqBytes w) acc with
  | (t, .at_ g) => t.sendPiece n j.id j.job j.words g
  | (t, .fault r) => t.holdFault (actorDie n) { f with id := none, reason := r }
  | (t, .bad code) => t.refusePiece n j.id code
  | (t, .wait) => match t.translate (actorDie n) j.job f.va acc with
    | (u, .inl pa) => u.sendWaiting n j.id j.job j.words pa
    | (u, .inr _) => u

/-- A held access goes on. -/
def State.resumeAccess (s : State) (f : OpenFault) : State :=
  let slot := f.place
  let cl := slotCluster slot
  let swap (ev : Instr) : State := (s.mapCoreAt slot fun c =>
    { c with u.swap := c.u.swap.map fun w => { w with paused := false } }).dueAt ev slot
  match f.unit_ with
  | 0 => match (s.coreAt slot).e.cpq with
    | c :: _ => (s.setCp slot { c with phase := .ready }).dueAt .cpCommandRun slot
    | [] => s
  | 1 => match s.layqAt cl with
    | c :: _ => (s.setLay cl { c with phase := .ready }).dueAt .layPass cl
    | [] => s
  | 2 => match (s.coreAt slot).dramCmd (f.req.getD 0) with
    | some c => (s.setDram slot { c with phase := .ready }).due .dramReqRun { place := slot, a := c.seq }
    | none => s
  | 3 => swap .contextSave
  | 4 => swap .contextRestore
  | _ => match f.req with
    | none => s.freePort slot f.port
    | some id => match (s.dramActor slot).jobs.find? fun j => j.id = id with
      | some j => s.resendPiece f j
      | none => s

/-- The code of an access that End fault completes. -/
def tokenEnded : Word := errToken 0x15

/-- The piece of a DRAM request form that faulted at va is completed with the code of R348. -/
def State.dramEnd (s : State) (slot : Nat) (c : DramCmd) (va : Word) : State :=
  match (c.left.getD []).find? fun p => (c.sides p).1 == va with
  | some p => s.dramNext slot { c with phase := .ready } p (some tokenEnded)
  | none => s

/-- A held access is completed with the code of R348. -/
def State.endAccess (s : State) (f : OpenFault) : State :=
  let slot := f.place
  let cl := slotCluster slot
  match f.unit_ with
  | 0 => match (s.coreAt slot).e.cpq with
    | c :: _ => s.cpFinish slot c tokenEnded
    | [] => s
  | 1 => match s.layqAt cl with
    | c :: _ => s.layFinish cl c tokenEnded
    | [] => s
  | 2 => match (s.coreAt slot).dramCmd (f.req.getD 0) with
    | some c => s.dramEnd slot c f.va
    | none => s
  | 3 => match (s.coreAt slot).u.swap with
    | some w => s.abortSave slot w 1 (8 * (s.saveImage slot w.job).length)
    | none => s
  | 4 => match (s.coreAt slot).u.swap with
    | some w => s.abortRestore slot w 1 (if 8 ≤ w.image.length then ((wordsOf w.image 1).getD 0 0).toNat else 0)
    | none => s
  | _ => match f.req with
    | none => match FMap.get [] (s.dramActor slot).ports f.port with
      | q :: _ => (s.dreqRefuse slot f.port q 0x15).dueAt .dramRequestTaken slot
      | [] => s
    | some id => s.refusePiece slot id 0x15

/-- RESUME_FAULT: op 1; place: the die. -/
def execResumeFault (s : State) : Host.Outcome State Fault Refusal :=
  runCommand 1 (fun s d a _ _ => match (s.dieAt d).x.faultOf a with
    | none => (s, 2)
    | some f => (((s.invalidate d (some f.job) (some f.va)).freeFault d f).resumeAccess f, 0)) s

/-- END_FAULT: op 2; place: the die. -/
def execEndFault (s : State) : Host.Outcome State Fault Refusal :=
  runCommand 2 (fun s d a _ _ => match (s.dieAt d).x.faultOf a with
    | none => (s, 2)
    | some f => ((s.freeFault d f).endAccess f, 0)) s

/-! ### Translation (R344, R349) -/

/-- Whether a page number can be that of a root table: its page names storage. -/
def rootOk (n : Nat) : Bool := decide (n < 2 ^ 34) && (physFlat (n * 4096)).isSome && (physFlat (n * 4096 + 4088)).isSome

/-- SET_ROOT: op 3; place: the die. -/
def execSetRoot (s : State) : Host.Outcome State Fault Refusal :=
  runCommand 3 (fun s d a b _ => match jobOfWord a with
    | none => (s, 2)
    | some job =>
      if b ≠ 0 ∧ rootOk b.toNat = false then (s, 2)
      else
        let root := if b = 0 then none else some b.toNat
        ((s.mapDieAt d fun x => { x with x.roots := FMap.put none x.x.roots job.toNat root }).invalidate d (some job) none, 0)) s

/-- INVALIDATE: op 4; place: the die. -/
def execInvalidate (s : State) : Host.Outcome State Fault Refusal :=
  runCommand 4 (fun s d a b _ => match jobOfWord a with
    | none => (s, 2)
    | some job =>
      if b ≠ 0 ∧ isSpace2 b = false then (s, 2)
      else (s.invalidate d (if job = 0xFFF then none else some job) (if b = 0 then none else some b), 0)) s

/-! ### Save areas, watchdogs, thresholds (R215, R321, R352, R354) -/

/-- SAVE_AREA: op 5; a pre-emption that waits for the area may go on; place: the die. -/
def execSaveArea (s : State) : Host.Outcome State Fault Refusal :=
  runCommand 5 (fun s d a b c => match jobOfWord a with
    | none => (s, 2)
    | some job =>
      if isSpace2 b = false ∨ b.toNat % 64 ≠ 0 then (s, 2)
      else ((s.mapDs d fun x =>
        { x with areas := FMap.put {} x.areas job.toNat { addr := b, len := c.toNat } }).each ((dieSlots d).filter fun t =>
          (s.coreAt t).u.job == some job) State.serveCore, 0)) s

/-- WATCHDOG_INTERVAL: op 6; a new interval of the die holds for all its cores; place: the die. -/
def execWatchdogInterval (s : State) : Host.Outcome State Fault Refusal :=
  runCommand 6 (fun s d a b _ =>
    let n := a.toNat
    let slot := slotOf (n % 256) (n / 256)
    if b.toNat < 10 ∨ 2 ^ 20 < b.toNat then (s, 2)
    else if n = 0xFFFF then (s.mapDieAt d fun x => { x with rc.intervals := [(slotCount, b.toNat)] }, 0)
    else if 192 ≤ n % 256 ∨ 216 ≤ n / 256 ∨ slotDie slot ≠ d then (s, 2)
    else (s.mapDieAt d fun x => { x with rc.intervals := FMap.put 0 x.rc.intervals slot b.toNat }, 0)) s

/-- ERROR_THRESHOLD: op 7; place: the die. -/
def execErrorThreshold (s : State) : Host.Outcome State Fault Refusal :=
  runCommand 7 (fun s d a _ _ =>
    if a.toNat < 1 ∨ 2 ^ 16 < a.toNat then (s, 2)
    else (s.mapDieAt d fun x => { x with rc.threshold := a.toNat }, 0)) s

/-! ### Pages (R391, R394, R395) -/

/-- REPLICATE_PAGE: op 8; place: the die. -/
def execReplicatePage (s : State) : Host.Outcome State Fault Refusal :=
  atDie s fun s =>
    let d := s.arg.place
    match s.command d fun n => n == 8 with
    | none => s
    | some (_, a, b, c) =>
      if s.pageWaits d (a.setWidth 12) b then s
      else
        let r := s.replicate_ d a b c
        r.1.finishCommand d r.2

/-- MOVE_PAGE: op 9; the command's slot stays full until the move is done; place: the die. -/
def execMovePage (s : State) : Host.Outcome State Fault Refusal :=
  atDie s fun s =>
    let d := s.arg.place
    match s.command d fun n => n == 9 with
    | none => s
    | some (slot, a, b, c) =>
      if (s.dieAt d).pages.moves.any fun m => m.cmdSlot == slot then s
      else match s.beginMove d slot a b c with
        | some t => t
        | none => s.finishCommand d 2

/-- PAGE_MOVE_DONE: every request for the old page has been forwarded, or returned, and performed; all 72 units have dropped
the page, the new home takes what comes directly, and the command completes; place: the die. -/
def execPageMoveDone (s : State) : Host.Outcome State Fault Refusal :=
  atDie s fun s =>
    let d := s.arg.place
    match s.moveAt d true with
    | none => s
    | some m =>
      if s.piecesFor m.oldPa || (!m.removal && s.piecesIn m.newPa) then s
      else
        let t := s.each (s.dies.map Prod.fst) fun s e => s.invalidate e (some m.job) (some m.va)
        ((t.mapPages d fun x => { x with moves := x.moves.erase m }).lookPages).finishCommand d 0

/-! ### Port engines (R419) -/

/-- Whether a job's grid holds the eight gateway cores of a port. -/
def State.holdsGateways (s : State) (job : BitVec 12) (d k : Nat) : Bool :=
  match s.jobAt job with
  | none => false
  | some j => j.live && (List.range 8).all fun g =>
      let t := gatewaySlot d k g
      decide (j.x0 ≤ slotX t) && decide (slotX t < j.x0 + j.w) && decide (j.y0 ≤ slotY t) && decide (slotY t < j.y0 + j.h)

/-- BIND_PORT: op 10; what waits at the port may go on; place: the die. -/
def execBindPort (s : State) : Host.Outcome State Fault Refusal :=
  runCommand 10 (fun s d a b c =>
    let k := a.toNat % 2
    let job : BitVec 12 := a.extractLsb' 16 12
    if a &&& 0xFFFFFFFFF000FFFE ≠ 0 ∨ b.toNat / 2 ^ 50 ≠ 0 ∨ 2 ^ 24 ≤ c.toNat ∨ c.toNat % 2048 ≠ 0 ∨ portDie d = false
        ∨ s.holdsGateways job d k = false then (s, 2)
    else
      let t := s.mapDieAt d fun x =>
        let p := FMap.get {} x.ports k
        let q : PortEng := { p with bound := true, job := job, code := codeField b, prio := b.extractLsb' 48 2, ring := c.toNat }
        { x with ports := FMap.put {} x.ports k q }
      ((t.due .ueBlockReceive { place := d, a := k }).due .ueTransmit { place := d, a := k }, 0)) s

/-- UNKNOWN_COMMAND: any other op has no effect; place: the die. -/
def execUnknownCommand (s : State) : Host.Outcome State Fault Refusal :=
  atDie s fun s =>
    match s.command s.arg.place fun n => n == 0 || decide (10 < n) with
    | none => s
    | some _ => s.finishCommand s.arg.place 1

end Sys2Proof.Machine
end

