-- ==== Sys2Proof/Machine/Network.lean ====
section
/-! DEFINITION. Routers: lookup, default and darning routes (R367, R376 to R383), combining (R381), and delivery with the
clocks' release and acquire tests (R385 to R388). -/
namespace Sys2Proof.Machine

/-! ### Links and hops (R380, R383, R400): ports 0 n, 1 e, 2 s, 3 w -/

/-- The neighbour of a router at a port. -/
def nextRouter (r port : Nat) : Option Nat :=
  match port with
  | 0 => if r < 200 then none else some (r - 200)
  | 1 => if r % 200 = 199 then none else some (r + 1)
  | 2 => if routerCount ≤ r + 200 then none else some (r + 200)
  | _ => if r % 200 = 0 then none else some (r - 1)

def oppositePort (p : Nat) : Nat := (p + 2) % 4

/-- The link at a port. -/
def linkAt (r port : Nat) : Link :=
  let px := r % 200
  let py := r / 200
  match port with
  | 0 => { px := px, py := py - 1, south := true }
  | 1 => { px := px, py := py, south := false }
  | 2 => { px := px, py := py, south := true }
  | _ => { px := px - 1, py := py, south := false }

def Link.same (a b : Link) : Bool := a.px == b.px && a.py == b.py && a.south == b.south

/-- The update of the link at a port, if the link has been declared dead. -/
def State.updateAt (s : State) (r port : Nat) : Option LinkUpdate := s.wafer.links.find? fun u => (linkAt r port).same u.link
def State.linkDead (s : State) (r port : Nat) : Bool := (s.updateAt r port).isSome

/-- Where a router stands with an update. -/
def LinkUpdate.round (u : LinkUpdate) (r : Nat) : Nat := FMap.get 0 u.rounds r

/-- Whether a router has a live link; a dark cluster's routers have none (R356). -/
def State.routerLive (s : State) (r : Nat) : Bool :=
  (List.range 4).any fun p => (nextRouter r p).isSome && !s.linkDead r p

/-- The router n hops along a port. -/
def routerAlong (r port n : Nat) : Option Nat :=
  match n with
  | 0 => some r
  | k + 1 => (nextRouter r port).bind fun q => routerAlong q port k

/-- Walks ports over live links. -/
def State.walk (s : State) (r : Nat) (path : List Nat) : Option Nat :=
  match path with
  | [] => some r
  | p :: t => if s.linkDead r p then none else (nextRouter r p).bind fun q => s.walk q t

/-- A darning route (R383): sideways to the nearest parallel line that is alive past the obstacle, along it, and back to the
first live router beyond. -/
def State.darn (s : State) (r port : Nat) : Option Nat :=
  match (List.range 216).find? fun m => (routerAlong r port (m + 1)).any s.routerLive with
  | none => none
  | some m =>
    let sides := if port % 2 = 1 then [0, 2] else [3, 1]
    ((List.range 216).flatMap fun k => sides.map fun side => (k + 1, side)).findSome? fun p =>
      s.walk r (List.replicate p.1 p.2 ++ List.replicate (m + 1) port ++ List.replicate p.1 (oppositePort p.2))

/-- Where a hop at a port leads: over its link, or by a darning route once the router has done round 1 for a dead one (R402), or the
link leads to a dark cluster's router, which is dead at once (R356, R383). Until then a packet waits. -/
def State.hop (s : State) (r port : Nat) : Option Nat :=
  match s.updateAt r port with
  | none => nextRouter r port
  | some u => if 2 ≤ u.round r ∨ u.link.reason = 2 then s.darn r port else none

/-! ### Link monitors (R261, R400) -/

/-- The bytes of a trailer as it stands at the end of a packet: its 72 entries and 96 zero bytes, three flits of 128 (R386). -/
def Trailer.bytes (t : Trailer) : List Byte :=
  ((List.range dieCount).flatMap fun d => bytesOf (FMap.get 0 t.clock d).toNat 4) ++ List.replicate 96 0

/-- The flits of a packet: one for its header, its payload in flits of 128 bytes, and its trailer's (R386; DESIGN CHOICE,
entry 134). -/
def Packet.flits (p : Packet) : Nat :=
  let words := match p.body with
    | .msg m => m.payload.length
    | .token t => t.payload.length
    | .sys _ => 0
  1 + (words + 15) / 16 + (match p.trailer with
    | some t => t.bytes.length / 128
    | none => 0)

/-- A token is tagged when one of its flits fails (R261); what else travels is sent again over the link (entry 134). -/
def Packet.hit (p : Packet) (n : Nat) : Packet :=
  match p.body with
  | .token t => if n = 0 then p else { p with body := .token { t with etag := true } }
  | _ => p

/-- Key of a link among the monitors. -/
def Link.key (l : Link) : Nat := 2 * (l.py * 200 + l.px) + (if l.south then 1 else 0)

/-- Whether 16 of the last 256 flits on a link have failed (R400). -/
def State.linkFails (s : State) (l : Link) : Bool := decide (16 ≤ (FMap.get [] s.wafer.monitors l.key).count true)

/-- A packet's flits cross a link: its monitor counts those that fail, and an end declares the link dead on the sixteenth. -/
def State.crossLink (s : State) (p : Packet) (port : Nat) : State × Packet :=
  let l := linkAt p.at_ port
  let n := min (s.flits.headD 0) p.flits
  let seen := (List.replicate n true ++ List.replicate (p.flits - n) false ++ FMap.get [] s.wafer.monitors l.key).take 256
  let t : State := { s with
    flits := s.flits.drop 1,
    wafer.monitors := FMap.put [] s.wafer.monitors l.key (if seen.contains true then seen else []) }
  (if t.linkFails l then t.due .deadLinkDeclare { place := l.py * 200 + l.px, flag := l.south } else t, p.hit n)

/-! ### Lookup (R380, R381) -/

/-- What a router does with a packet: it is here at its slot's core, goes on by a port, is copied to ports, or waits to be
combined. Port 4 is c. -/
inductive RMove where
  | here (slot : Nat)
  | go (port : Nat)
  | split (slot : Nat) (ports : List Nat)
  | hold
  deriving DecidableEq, Repr

/-- The route entry of a slot's router that applies to a packet; 0 for none. -/
def State.entryFor (s : State) (slot : Nat) (p : Packet) : Word :=
  let w := FMap.get 0 (s.coreAt slot).routeTab (p.cls.toNat * 64 + p.route)
  if w.getLsbD 63 && w.extractLsb' 44 12 == p.job then w else 0

/-- The default route (R380): along X, then along Y, then c at the destination. -/
def State.defaultMove (s : State) (p : Packet) : RMove :=
  let q := s.routerOf p.dst
  if p.at_ % 200 < q % 200 then .go 1
  else if q % 200 < p.at_ % 200 then .go 3
  else if p.at_ / 200 < q / 200 then .go 2
  else if q / 200 < p.at_ / 200 then .go 0
  else .here p.dst

/-- Ports whose bits are set, in port order. -/
def portsOf (n : Nat) : List Nat := (List.range 5).filter n.testBit

/-- A packet sent out on one port by an entry. -/
def State.outMove (s : State) (p : Packet) (slot port : Nat) : RMove :=
  if port < 4 then .go port
  else if p.cls = 0 ∨ slot = p.dst then .here slot
  else s.defaultMove p

/-- What the router at which a packet is does with it. -/
def State.routeMove (s : State) (p : Packet) : RMove :=
  match s.slotAtRouter p.at_ with
  | none => s.defaultMove p
  | some slot =>
    let w := s.entryFor slot p
    let out := portsOf (rtOut w)
    if w = 0 then s.defaultMove p
    else match rtAct w with
      | 0 => s.outMove p slot (out.headD 4)
      | 1 => if p.cls = 0 ∧ (rtIn w).testBit p.inp = true then .hold else s.defaultMove p
      | 2 => .split slot out
      | _ => if p.key = rtKey w then s.outMove p slot (out.headD 4) else s.defaultMove p

/-! ### Delivery (R110, R122, R387) -/

/-- Whether a release is still carried by another packet, as copies of one packet carry it. -/
def State.carried (s : State) (r : Nat × BitVec 32) : Bool :=
  let has (p : Packet) : Bool := match p.trailer with
    | some t => t.rels.contains r
    | none => false
  s.wafer.net.any has || s.dies.any fun d => d.2.clk.relq.any fun w => match w.body with
    | .packet p => has p
    | _ => false

/-- A packet's trailer is applied at a die (R387). -/
def State.applyPacket (s : State) (d : Nat) (p : Packet) : State :=
  match p.trailer with
  | none => s
  | some t => s.applyTrailer d { t with rels := t.rels.filter fun r => !s.carried r }

/-- The acknowledgements that a packet's arrival sends (R385). -/
def State.ackPacket (s : State) (p : Packet) : State := s.each p.acks fun s t => s.dueAt .releaseAcknowledgement t

/-- A packet that nothing can take is lost; its write counts as arrived (entry 20). -/
def State.dropPacket (s : State) (p : Packet) : State := (s.applyPacket (slotDie p.dst) p).ackPacket p

/-- Whether a packet is for a core: a message, a system form, or a token of an actor's port. -/
def State.forCore (s : State) (p : Packet) : Bool :=
  match p.body with
  | .token t => match s.edgeAt t.edge with
    | some e => match e.dst with
      | .actor _ _ => true
      | _ => false
    | none => true
  | _ => true

/-- Whether a slot's input can take a packet: four places for each of requests, replies and system forms; a token has its
slot (R110, R257). What is held for a wave waits in the network (R371). -/
def State.hasInput (s : State) (slot : Nat) (p : Packet) : Bool :=
  let c := s.coreAt slot
  if !s.forCore p then true
  else !c.u.whold && !c.u.failed && (p.cls == 2 || decide ((FMap.get [] c.m.inq p.cls.toNat).length < 4))

/-- A packet enters the input it is for. -/
def State.enterInput (s : State) (slot : Nat) (p : Packet) : State :=
  let put (s : State) : State := s.mapCoreAt slot fun c =>
    { c with m.inq := FMap.put [] c.m.inq p.cls.toNat (FMap.get [] c.m.inq p.cls.toNat ++ [p]) }
  match p.body with
  | .msg _ => ((put s).mapCoreAt slot fun c => { c with u.prog := c.u.prog + 1 }).dueAt .messageAccept slot
  | .sys _ => (put s).dueAt .systemFormAtTarget slot
  | .token t => (s.mapEdge t.edge fun e => { e with arrived := e.arrived ++ [(t, p.trailer.isSome)] }).dueAt .tokenLanding t.edge

/-- Whether a packet was injected before another of the same source, destination and class (R111). -/
def Packet.before (q p : Packet) : Bool := q.src == p.src && q.dst == p.dst && q.cls == p.cls && decide (q.num < p.num)

/-- Whether an earlier packet of the same source, destination and class is still on its way, past combinations, or waits at a die for
its release test (R111). -/
def State.behind (s : State) (d : Nat) (p : Packet) : Bool :=
  (s.wafer.net.any fun q => q.before p && !q.held) || (s.clocksAt d).relq.any fun w => match w.body with
    | .packet q => q.before p
    | _ => false

/-- Delivers a packet that has left the network at a slot; none while it has to wait there. -/
def State.deliver (s : State) (slot : Nat) (p0 : Packet) : Option State :=
  let p : Packet := { p0 with dst := slot }
  let d := slotDie slot
  if s.forCore p && s.isHole slot then some (s.dropPacket p)
  else if s.behind d p0 then none
  else if (match p.trailer with
    | some t => !(s.clocksAt d).covers t
    | none => false) then
    match p.trailer with
    | some t => some (s.waitRelease d { trailer := t, body := .packet p })
    | none => none
  else if !s.hasInput slot p then none
  else some (((s.applyPacket d p).ackPacket p).enterInput slot p)

/-! ### Moving a packet -/

/-- A packet that has been taken out of the network goes on by a port. -/
def State.sendOn (s : State) (p : Packet) (port : Nat) : Option State :=
  if (nextRouter p.at_ port).isNone then some (s.dropPacket p)
  else match s.hop p.at_ port with
    | none => none
    | some q =>
      let r := if s.linkDead p.at_ port then (s, p) else s.crossLink p port
      some ((r.1.mapWafer fun w =>
        { w with net := w.net ++ [{ r.2 with at_ := q, inp := oppositePort port, held := false }] }).dueAt
        .routerLookup q)

/-- Copies of a packet leave on each port in port order: the first keeps the reply route and the acknowledgement, each
further one counts in the balance (R380). -/
def State.sendCopies (s : State) (p : Packet) (slot : Nat) (ports : List Nat) (first : Bool) : Option State :=
  match ports with
  | [] => some s
  | port :: rest =>
    let body := match p.body with
      | .msg m => .msg (if first then m else { m with route := none })
      | b => b
    let q : Packet := { p with body := body, acks := if first then p.acks else [] }
    let t := if first then s else s.balance slot p.job 1
    match (if port < 4 then t.sendOn q port else t.deliver slot q) with
    | none => none
    | some u => u.sendCopies p slot rest false

/-- Packets of the same source, destination and class as one that has gone may go on in turn. -/
def State.lookBehind (s : State) (p : Packet) : State :=
  s.each (s.wafer.net.filter p.before) fun s q => s.dueAt .routerLookup q.at_

/-- Acts on a packet that has been taken out of the network; none while it has to wait. -/
def State.movePacket (s : State) (p : Packet) : Option State :=
  match s.routeMove p with
  | .here slot => (s.deliver slot p).map fun t => t.lookBehind p
  | .go port => s.sendOn p port
  | .split slot ports => s.sendCopies p slot ports true
  | .hold => some ((s.mapWafer fun w => { w with net := w.net ++ [{ p with held := true }] }).due .combine
      { place := p.at_, a := p.route })

/-- The first of a router's packets that can move, past none of its own source, destination and class (R111, R382). -/
def State.moveFirst (s : State) (l seen : List Packet) : State :=
  match l with
  | [] => s
  | p :: rest =>
    if seen.any fun q => q.before p then s.moveFirst rest (p :: seen)
    else match (s.mapWafer fun w => { w with net := w.net.erase p }).movePacket p with
      | none => s.moveFirst rest (p :: seen)
      | some t => if l.length + seen.length ≤ 1 then t else t.dueAt .routerLookup p.at_

/-- ROUTER_LOOKUP (R380); place: the router. -/
def execRouterLookup (s : State) : Host.Outcome State Fault Refusal :=
  if s.arg.place < routerCount then
    .next (s.moveFirst (s.wafer.net.filter fun p => p.at_ = s.arg.place ∧ p.held = false) [])
  else .fault .noSuchPlace

/-! ### Combining (R381) -/

/-- A lane of a comb operation (R377, R381). -/
def combLane (op : Nat) (x y : Nat) : Nat :=
  let si (v : Nat) : Int := (BitVec.ofNat 64 v).toInt
  match op with
  | 0 => (x + y) % 2 ^ 32
  | 1 => (x + y) % 2 ^ 64
  | 2 => (fp32.add rne x y).1
  | 3 => (fp64.add rne x y).1
  | 4 => if si y < si x then y else x
  | 5 => if si x < si y then y else x
  | 6 => (fp32.minmax false x y).1
  | 7 => (fp32.minmax true x y).1
  | 8 => (fp64.minmax false x y).1
  | _ => (fp64.minmax true x y).1

/-- Whether an operation has lanes of 32 bits. -/
def combNarrow (op : Nat) : Bool := op == 0 || op == 2 || op == 6 || op == 7

def combWord (op : Nat) (x y : Word) : Word :=
  if combNarrow op then BitVec.ofNat 64 (combLane op (x.toNat % 2 ^ 32) (y.toNat % 2 ^ 32)
    + 2 ^ 32 * combLane op (x.toNat / 2 ^ 32) (y.toNat / 2 ^ 32))
  else BitVec.ofNat 64 (combLane op x.toNat y.toNat)

/-- The message of a packet. -/
def Packet.msg (p : Packet) : Option Msg :=
  match p.body with
  | .msg m => some m
  | _ => none

/-- Payload and tag of the heads' combination, in port order. -/
def combPayload (op : Nat) (l : List Msg) : List Word × Bool :=
  match l with
  | [] => ([], false)
  | m :: rest =>
    if rest.all fun k => k.payload.length == m.payload.length then
      (rest.foldl (fun acc k => acc.zipWith (combWord op) k.payload) m.payload, l.any Msg.etag)
    else (m.payload, true)

/-- The widest scope among releases. -/
def widest (a b : Option (BitVec 2)) : Option (BitVec 2) :=
  match a, b with
  | some x, some y => some (if x.ult y then y else x)
  | some x, none => some x
  | none, y => y

def joinTrailers (a b : Option Trailer) : Option Trailer :=
  match a, b with
  | some x, some y => some { clock := joinClock x.clock y.clock, rels := x.rels ++ y.rels }
  | some x, none => some x
  | none, y => y

/-- The packet that heads make. -/
def combine (op : Nat) (p : Packet) (rest : List Packet) : Packet :=
  let msgs := (p :: rest).filterMap Packet.msg
  let r := combPayload op msgs
  { p with
    held := false,
    body := match p.body with
      | .msg m => .msg { m with payload := r.1, etag := r.2 }
      | b => b,
    rl := rest.foldl (fun a q => widest a q.rl) p.rl,
    trailer := rest.foldl (fun a q => joinTrailers a q.trailer) p.trailer,
    acks := p.acks ++ rest.flatMap Packet.acks }

/-- An absorbed head leaves the balance, and its requester gets an empty reply. -/
def State.absorb (s : State) (slot : Nat) (q : Packet) : State :=
  let t := s.balance slot q.job (-1)
  match q.msg.bind Msg.route with
  | none => t
  | some r =>
    let m := emptyReply r
    let e : Send := { dst := r.origin, job := m.job, rl := none, body := .msg m }
    (t.balance slot m.job 1).launchPacketAt (e.packet slot 1)

/-- COMBINE: a comb entry with a head at every input combines them; place: the router; a: the route number. -/
def execCombine (s : State) : Host.Outcome State Fault Refusal :=
  if routerCount ≤ s.arg.place then .fault .noSuchPlace
  else
    let r := s.arg.place
    .next (match s.slotAtRouter r with
      | none => s
      | some slot =>
        let w := FMap.get 0 (s.coreAt slot).routeTab (s.arg.a % 64)
        let job : BitVec 12 := w.extractLsb' 44 12
        let heads := (portsOf (rtIn w)).map fun port => s.wafer.net.find? fun p =>
          p.at_ == r && p.held && p.inp == port && p.route == s.arg.a && p.job == job
        match heads.filterMap id with
        | [] => s
        | p :: rest =>
          if w.getLsbD 63 = false ∨ heads.any Option.isNone = true then s
          else
            let t := s.mapWafer fun x => { x with net := (p :: rest).foldl (fun l q => l.erase q) x.net }
            let g := combine (rtOp w) p rest
            let port := (portsOf (rtOut w)).headD 4
            match (if port < 4 then t.sendOn g port else t.deliver slot g) with
            | none => s
            | some u => (u.each rest fun s q => s.absorb slot q).due .combine { place := r, a := s.arg.a })

/-! ### Applied notices, and what waits for them (R385, R387, R388) -/

/-- What a release-class write does once its die applies it. -/
def State.performRelease (s : State) (w : RelWrite) : State :=
  match w.body with
  | .packet p => ((s.applyPacket (slotDie p.dst) p).ackPacket p).enterInput p.dst p
  | .engine slot seq job bytes fe =>
    (((s.engineWrite job (some (slot, seq)) bytes fe).flushReplicas (some job)).lookEngines slot)
  | .dram slot seq f => match (s.coreAt slot).dramCmd seq with
    | some c => if c.phase = .release then (s.dramAtomic slot c f).flushReplicas (some c.job) else s
    | none => s
  | .nb op => s.nbAtPort op
  | .bar op => s.barAtPort op

/-- Whether a waiting write can be applied now. -/
def State.canApply (s : State) (d : Nat) (w : RelWrite) : Bool :=
  (s.clocksAt d).covers w.trailer && (match w.body with
    | .packet p => s.hasInput p.dst p || s.isHole p.dst
    | .nb op => !s.unitHeld op.cluster (bankOf op.off)
    | _ => true)

/-- RELEASE_WRITE_APPLY: the first write that waits at a die and is covered; place: the die. -/
def execReleaseWriteApply (s : State) : Host.Outcome State Fault Refusal :=
  atDie s fun s =>
    let d := s.arg.place
    match (s.clocksAt d).relq.find? (s.canApply d) with
    | none => s
    | some w =>
      let t := s.mapClocks d fun k => { k with relq := k.relq.erase w }
      let u := match w.body with
        | .packet p => if s.forCore p && s.isHole p.dst then t.dropPacket p else (t.performRelease w).lookRouter p.dst
        | _ => (t.performRelease w).applyTrailer d w.trailer
      if (s.clocksAt d).relq.length ≤ 1 then u else u.dueAt .releaseWriteApply d

/-- APPLIED_NOTICE: a die learns that a release has been applied; place: the die; a: the releasing die; b: the number. -/
def execAppliedNotice (s : State) : Host.Outcome State Fault Refusal :=
  if dieCount ≤ s.arg.a then .fault .noSuchPlace
  else atDie s fun s =>
    let d := s.arg.place
    let a := s.arg.a
    let n : BitVec 32 := BitVec.ofNat 32 s.arg.b
    let k := s.clocksAt d
    if !precedes (FMap.get 0 k.a a) n then s
    else
      let more := n :: k.above_ a
      let v := contiguous (FMap.get 0 k.a a) more more.length
      let t := s.mapClocks d fun k =>
        { k with a := FMap.put 0 k.a a v,
                 above := ((a, n) :: k.above).filter fun p => p.1 != a || precedes v p.2 }
      let u := if k.relq.isEmpty then t else t.dueAt .releaseWriteApply d
      if k.acqq.isEmpty then u else u.dueAt .acquireServe d

/-- An access that its die now serves goes on. -/
def State.serveAcquire (s : State) (b : AcqBody) : State :=
  match b with
  | .cp slot => match (s.coreAt slot).e.cpq with
    | c :: _ => if c.phase = .acquire then (s.setCp slot { c with phase := .ready }).dueAt .cpCommandRun slot else s
    | [] => s
  | .lay cl => match s.layqAt cl with
    | c :: _ => if c.phase = .acquire then (s.setLay cl { c with phase := .ready }).dueAt .layPass cl else s
    | [] => s
  | .dram slot seq => match (s.coreAt slot).dramCmd seq with
    | some c => if c.phase = .acquire then
        (s.setDram slot { c with phase := .ready }).due .dramReqRun { place := slot, a := seq } else s
    | none => s
  | .nb op => s.nbArrive op
  | .bar op => s.barArrived op

/-- ACQUIRE_SERVE: the first access that waits at a die and is covered; place: the die. -/
def execAcquireServe (s : State) : Host.Outcome State Fault Refusal :=
  atDie s fun s =>
    let d := s.arg.place
    let k := s.clocksAt d
    match k.acqq.find? fun w => k.covers { clock := w.clock, rels := [] } with
    | none => s
    | some w =>
      let t := (s.mapClocks d fun k => { k with acqq := k.acqq.erase w }).serveAcquire w.body
      if k.acqq.length ≤ 1 then t else t.dueAt .acquireServe d

/-- RELEASE_ACKNOWLEDGEMENT: one write of a slot that left the die has reached its destination die; place: the slot. -/
def execReleaseAcknowledgement (s : State) : Host.Outcome State Fault Refusal :=
  atSlot s fun s =>
    let slot := s.arg.place
    let t := s.mapCoreAt slot fun c => { c with m.unacked := c.m.unacked - 1 }
    if (t.coreAt slot).m.unacked = 0 then t.lookAgain slot else t

end Sys2Proof.Machine
end

