-- ==== Sys2Proof/Machine/Removal.lean ====
section
/-! DEFINITION. Removing a core: failures, removal requests, hole changes and barchan waves (R366 to R375), comparators that
lose a producer (R406), and regulator failures (R356). -/
namespace Sys2Proof.Machine

/-! ### Parts -/

def State.mapRc (s : State) (d : Nat) (f : RegionCtl → RegionCtl) : State := s.mapDieAt d fun x => { x with rc := f x.rc }

/-- A word with a bit set or cleared. -/
def withBit (w : Word) (i : Nat) (b : Bool) : Word := if b then w ||| (1#64 <<< i) else w &&& ~~~(1#64 <<< i)

/-- Bits of a row map word (R366). -/
def rowBusy : Nat := 63
def markDead (w : Word) (p : Nat) : Word := withBit w (9 + p) true
def markHole (w : Word) (j : Nat) : Word := withBit w (34 + j) true
def setShift (w : Word) (n : Nat) : Word := (w &&& ~~~31) ||| BitVec.ofNat 64 n

/-- The wave that holds a row's token. -/
def State.waveIn (s : State) (d row : Nat) : Option Wave := (s.dieAt d).rc.waves.find? fun w => w.row = row

/-- Physical column at which a local slot stands now: one right of its place once a wave has copied it (R370). -/
def State.standsAt (s : State) (d row j : Nat) : Nat :=
  match s.waveIn d row with
  | some w => if w.k < j then j + 1 else j
  | none => rowColumn (s.rowWord d row) j

/-- The local slot at a physical column now. -/
def State.slotStanding (s : State) (d row p : Nat) : Option Nat :=
  (List.range 24).find? fun j => !rowHole (s.rowWord d row) j && s.standsAt d row j == p

/-! ### Contents that are lost (R369, R370, R372) -/

/-- Zeroes n bytes from a flat address, with their tags, as nothing written. -/
def Mem.clearRange (m : Mem) (f n : Nat) : Mem :=
  { bytes := m.bytes.filter fun p => decide (p.1 < f) || decide (f + n ≤ p.1),
    tags := m.tags.filter fun p => decide (p.1 < f) || decide (f + n ≤ p.1) }

/-- A job has lost a context (R372). -/
def State.loseJob (s : State) (job : BitVec 12) : State :=
  match s.jobAt job with
  | some j => s.putJob job (some { j with lost := true })
  | none => s

/-- Whether the actors of a core's context are all paired: each feeds a comparator (R372, R404). -/
def State.paired (s : State) (slot : Nat) : Bool :=
  let l := ((s.coreAt slot).q.actors.filter fun p => p.2.en).map Prod.fst
  !l.isEmpty && l.all fun n => (s.edgesFrom slot n).any fun p => p.2.pair

/-- A core with nothing in it, of the same speed class, that holds no task; its counters go on. -/
def Core.emptied (c : Core) : Core :=
  { h := { mode := .u, hs := .idle }, n := c.n, g := { cls := c.g.cls, clk := c.g.clk }, routeTab := c.routeTab,
    u := { halted := c.u.halted, whold := c.u.whold, job := c.u.job, jobPrio := c.u.jobPrio, failed := c.u.failed } }

/-- Ends what of other units involves a core: a migration that has not begun to copy, or any where its cluster goes dark (R329, R356), a
save or restore, faults of its commands, its Bobbin commands, accesses that wait at other dies. -/
def State.cutOff (s : State) (slot : Nat) : State :=
  let d := slotDie slot
  let s1 : State := match (s.dieAt d).drift.mig with
    | some m => if (m.slot = slot ∨ m.dst = slot) ∧ (m.state = .stopping ∨ m.state = .draining
        ∨ (s.clusterAt (slotCluster slot)).dark = true) then s.abandon d m else s
    | none => s
  let s2 : State := match (s1.coreAt slot).u.swap with
    | some w => (s1.setSwap slot none).swapNotice slot w.job 2 0 w.cursor 0
    | none => s1
  let s3 := s2.each ((s2.dieAt d).x.faults.filter fun f => decide (f.unit_ < 5) && f.place == slot) fun s f => s.freeFault d f
  let cl := slotCluster slot
  let head := (s3.layqAt cl).head?.any fun c => c.slot == slot
  let s4 := s3.each (s3.dies.map Prod.fst) fun s e => s.mapClocks e fun k => { k with acqq := k.acqq.filter fun w =>
    match w.body with
    | .cp t => t != slot
    | .dram t _ => t != slot
    | .lay c => !(head && c == cl)
    | _ => true }
  (s4.mapClusterAt cl fun c => { c with layq := c.layq.filter fun l => l.slot ≠ slot }).dueAt .layPass cl

/-- The partial counts that a core keeps are lost with it (R323, R372). -/
def State.loseCounts (s : State) (slot : Nat) : State :=
  s.mapWafer fun w => { w with jobs := w.jobs.map fun p => (p.1, p.2.map fun j => { j with counts := FMap.put 0 j.counts slot 0 }) }

/-- The contents of a core are lost; the job whose context it held stays named until the slot is a hole or arrives empty. A core that
has failed before lost its job then. -/
def State.loseCore (s : State) (slot : Nat) : State :=
  let s0 := (s.cutOff slot).loseCounts slot
  let s1 := match (s0.coreAt slot).u.job with
    | some job => if s0.paired slot || (s0.coreAt slot).u.failed then s0 else s0.loseJob job
    | none => s0
  let moving (n : Nat) : Bool := match (s1.dieAt (slotDie slot)).drift.mig with
    | some m => m.slot == slot && m.num == n
    | none => false
  let s2 := s1.mapWafer fun w => { w with edges := w.edges.map fun p => match p.2.dst with
    | .actor t n => (p.1, if t = slot ∧ moving n = false then { p.2 with landed := [], relSlots := [] } else p.2)
    | _ => p }
  (s2.mapMem fun m => m.clearRange (spFlat slot 0) spSize).mapCoreAt slot Core.emptied

/-- Jobs whose contexts a slot holds, saved ones too. -/
def State.contextsOf (s : State) (slot : Nat) : List (BitVec 12) :=
  (match (s.coreAt slot).u.job with
    | some j => [j]
    | none => []) ++ ((s.dieAt (slotDie slot)).ds.saved.filter fun v => v.slot = slot).map Saved.job

/-! ### Comparators (R406) -/

/-- Comparators fed by an actor of a lost slot go on with their other port. -/
def State.makeSingle (s : State) (slot : Nat) : State :=
  s.each (s.wafer.edges.filter fun p => p.2.pair && (match p.2.src with
    | .actor t _ => t == slot
    | _ => false)) fun s p =>
    match p.2.dst with
    | .actor t n =>
      if ((s.coreAt t).actor n).single.isSome then s
      else
        let port := 1 - p.2.dq
        ((s.mapActor t n fun a => { a with single := some port }).notice (slotDie t)
          { kind := 13, w1 := slotXY t + BitVec.ofNat 64 (n * 2 ^ 16 + port * 2 ^ 24), w2 := p.2.job.setWidth 64 }).evalActor t n
    | _ => s

/-! ### Holes (R369, R116) -/

/-- A slot becomes a hole: contents, contexts, queued tokens and messages, sleeping records and generation are lost. -/
def State.becomeHole (s : State) (slot : Nat) : State :=
  let d := slotDie slot
  let s1 := s.loseCore slot
  let s2 := s1.each (((s1.dieAt d).ds.saved.filter fun v => v.slot = slot).map Saved.job) fun s j => s.loseJob j
  let s3 := s2.mapDieAt d fun x =>
    { x with ds.saved := x.ds.saved.filter fun v => v.slot ≠ slot, rc.gens := FMap.put 1 x.rc.gens slot 0 }
  let s4 := s3.mapCoreAt slot fun c =>
    { c with u.failed := true, u.whold := false, u.halted := false, u.job := none, m.inq := [], q.waitq := [] }
  let s5 := (s4.mapWafer fun w => { w with edges := w.edges.map fun p => match p.2.dst with
    | .actor t _ => (p.1, if t = slot then { p.2 with arrived := [] } else p.2)
    | _ => p }).mapClusterAt (slotCluster slot) fun c => { c with wake := c.wake.filter fun l => l.slot ≠ slot }
  s5.makeSingle slot

/-- What waited for a slot that is now a hole looks again; records that near-bank units hold for it are lost. -/
def State.afterHole (s : State) (slot : Nat) : State := ((s.serveCore slot).unhold slot).lookRouter slot

/-! ### The removal report (R374) -/

/-- Word 3: the job, or the lowest of several. -/
def lostWord (l : List (BitVec 12)) : Word :=
  match l.eraseDups with
  | [] => 0
  | [j] => j.setWidth 64
  | j :: t => BitVec.ofNat 64 (2 ^ 63 + (t.foldl (fun m k => min m k.toNat) j.toNat))

def State.removalReport (s : State) (d row cause col : Nat) (before : Word) (lost : List (BitVec 12)) : State :=
  s.sendFrame
    { ty := 7, words := [BitVec.ofNat 64 (d % 8 + d / 8 * 2 ^ 4 + row * 2 ^ 8 + cause * 2 ^ 16 + col * 2 ^ 18),
        before, s.rowWord d row, lostWord lost] }

/-! ### Requests (R368, R369) -/

/-- Whether a slot is held and idle, as R370 asks at Holding; a failed core has nothing left to finish. -/
def State.atRest (s : State) (slot : Nat) : Bool :=
  let c := s.coreAt slot
  !s.migrating slot && (c.u.failed || (c.h.task.isNone && s.enginesDone slot && c.e.sb.isEmpty && c.u.swap.isNone
    && c.h.traps.isEmpty && c.u.scan.isNone))

/-- A slot is held, but for one that a migration involves, which completes first (R371). -/
def State.holdSlot (s : State) (slot : Nat) : State :=
  if s.migrating slot then s else s.mapCoreAt slot fun c => { c with u.whold := true }

/-- A request is over, and its row's next one may take the token. -/
def State.dropRequest (s : State) (d : Nat) (r : Removal) : State :=
  (s.mapRc d fun x => { x with requests := x.requests.erase r }).dueAt .removalRequest d

/-- A request is over; a change of the row map word is reported (R366, R374). -/
def State.endRequest (s : State) (d : Nat) (r : Removal) (before : Word) (lost : List (BitVec 12)) : State :=
  (if s.rowWord d r.row = before then s else s.removalReport d r.row r.cause r.col before lost).dropRequest d r

/-- A hole change of local slot f, once its core is at rest. -/
def State.holeChange (s : State) (d : Nat) (r : Removal) (f : Nat) : State :=
  let slot := dieSlot d r.row f
  let w := s.rowWord d r.row
  if !s.atRest slot then (s.setRowWord d r.row (withBit w rowBusy true)).holdSlot slot
  else
    let lost := s.contextsOf slot
    let before := withBit w rowBusy false
    (((s.becomeHole slot).setRowWord d r.row (markHole (markDead before r.col) f)).afterHole slot).endRequest d r before lost

/-- A wave over slots f to 23 takes the token; 24 stands for Holding. -/
def State.startWave (s : State) (d : Nat) (r : Removal) (f : Nat) : State :=
  let w := s.rowWord d r.row
  let v : Wave := { die := d, row := r.row, col := r.col, first := f, k := 24, cause := r.cause }
  let t := (s.setRowWord d r.row (withBit w rowBusy true)).mapRc d fun x => { x with waves := x.waves ++ [v] }
  ((t.each ((List.range 24).filter fun j => f ≤ j) fun s j => s.holdSlot (dieSlot d r.row j)).dropRequest d r).dueAt
    .barchanCopySlot d

/-- The outcome of a request that holds its row's token (R369). -/
def State.removalOutcome (s : State) (d : Nat) (r : Removal) : State :=
  let w := withBit (s.rowWord d r.row) rowBusy false
  if rowDead w r.col then (s.setRowWord d r.row w).endRequest d r w []
  else if r.col = 24 ∧ rowShift w = 24 then (s.setRowWord d r.row (markDead w 24)).endRequest d r w []
  else match rowSlotAt w r.col with
    | none => (s.setRowWord d r.row (markDead w r.col)).endRequest d r w []
    | some f =>
      if r.hole || decide (rowShift w < 24) || (List.range 25).any (fun p => decide (f < p) && rowDead w p) then
        s.holeChange d r f
      else s.startWave d r f

/-- REMOVAL_REQUEST: the first request of each row without a wave holds the row's token; place: the die. -/
def execRemovalRequest (s : State) : Host.Outcome State Fault Refusal :=
  atDie s fun s =>
    let d := s.arg.place
    s.each ((s.dieAt d).rc.requests.map Removal.row).eraseDups fun s row =>
      if (s.waveIn d row).isSome then s
      else match (s.dieAt d).rc.requests.find? fun r => r.row = row with
        | some r => s.removalOutcome d r
        | none => s

/-- CORE_FAILURE_DETECTED: a physical core answers no more; place: the die; a: its local row; b: its physical column. What it
held is lost; the wave that copies it or copies to it takes note by itself (R370), and a request asks for its removal. -/
def execCoreFailureDetected (s : State) : Host.Outcome State Fault Refusal :=
  if 24 ≤ s.arg.a ∨ 25 ≤ s.arg.b then .fault .noSuchPlace
  else atDie s fun s =>
    let d := s.arg.place
    let row := s.arg.a
    let p := s.arg.b
    if rowDead (s.rowWord d row) p || (s.dieAt d).rc.failed.contains (row, p) then s
    else
      let s1 := s.mapRc d fun x =>
        { x with failed := x.failed ++ [(row, p)],
                 requests := x.requests ++ [{ row := row, col := p, hole := false, cause := 2 }] }
      let s2 := match s.slotStanding d row p with
        | some j =>
          let slot := dieSlot d row j
          (((s1.loseCore slot).mapCoreAt slot fun c => { c with u.failed := true }).mapCoreAt slot fun c =>
            { c with u.halted := false }).lookRest slot
        | none => s1
      (s2.dueAt .removalRequest d).dueAt .barchanCopySlot d

/-! ### Barchan waves (R370, R371) -/

def State.setWave (s : State) (d : Nat) (v w : Wave) : State :=
  s.mapRc d fun x => { x with waves := x.waves.map fun u => if u = v then w else u }

/-- A held slot goes on at its core. -/
def State.releaseSlot (s : State) (slot : Nat) : State :=
  let s1 := s.mapCoreAt slot fun c => { c with u.whold := false }
  let s2 := if (s1.coreAt slot).u.job.isNone then s1.coreFreed slot else s1.serveCore slot
  let s3 := if (s2.coreAt slot).u.preempt then s2.dueAt .swapOut slot else s2
  ((((s3.lookInputs slot).dueAt .systemFormAtTarget slot).dueAt .taskDispatch slot).lookRouter slot)

/-- Packets that wait to be combined at the routers of slots that now stand elsewhere go with their slots' route entries (R381). -/
def State.moveHeld (s old : State) (slots : List Nat) : State :=
  s.mapWafer fun w => { w with net := w.net.map fun p =>
    if p.held then match slots.find? fun t => old.routerOf t == p.at_ with
      | some t => { p with at_ := s.routerOf t }
      | none => p
    else p }

/-- Every router of a die's row looks at its packets. -/
def State.lookRow (s : State) (d row : Nat) : State :=
  s.each (List.range 25) fun s p => s.dueAt .routerLookup ((d / 8 * 24 + row) * 200 + d % 8 * 25 + p)

/-- Committing and Releasing: generations, the row map word, the held slots, the token, the report. -/
def State.commitWave (s : State) (d : Nat) (v : Wave) : State :=
  let from_ := match v.stopped with
    | some k => k + 1
    | none => v.first
  let s1 := s.each ((List.range 24).filter fun j => from_ ≤ j) fun s j =>
    let slot := dieSlot d v.row j
    s.mapRc d fun x => { x with gens := FMap.put 1 x.gens slot (FMap.get 1 x.gens slot + 1) }
  let hole := dieSlot d v.row v.first
  let lost := match v.stopped with
    | some _ => v.lost ++ s1.contextsOf hole
    | none => v.lost
  let before := withBit (s.rowWord d v.row) rowBusy false
  let s2 := match v.stopped with
    | some k => (s1.becomeHole hole).setRowWord d v.row
        (markHole (markDead (markDead (setShift before (k + 1)) v.col) (k + 1)) v.first)
    | none => s1.setRowWord d v.row (markDead (setShift before v.first) v.col)
  let slots := ((List.range 24).filter fun j => v.first ≤ j).map fun j => dieSlot d v.row j
  let s3 := ((s2.mapRc d fun x => { x with waves := x.waves.filter fun u => u ≠ v }).moveHeld s slots).lookRow d v.row
  let s4 := s3.each slots fun s slot => if s.isHole slot then s.afterHole slot else s.releaseSlot slot
  (s4.removalReport d v.row v.cause v.col before lost).dueAt .removalRequest d

/-- The slot that a wave copies arrives empty, where its core cannot be read; else its contents go with it. -/
def State.copySlot (s : State) (d : Nat) (v : Wave) : State × List (BitVec 12) :=
  let slot := dieSlot d v.row v.k
  if (s.coreAt slot).u.failed then
    (s.mapCoreAt slot fun c => { c with u.failed := false, u.job := none },
      match (s.coreAt slot).u.job with
      | some j => [j]
      | none => [])
  else (s, [])

/-- One step of a wave; none while it has to wait. -/
def State.waveStep (s : State) (d : Nat) (v : Wave) : Option State :=
  if v.k = 24 then
    let slots := ((List.range 24).filter fun j => v.first ≤ j).map fun j => dieSlot d v.row j
    let t := s.each (slots.filter fun n => !(s.coreAt n).u.whold) State.holdSlot
    if slots.all fun n => t.atRest n && ((t.coreAt n).u.whold || (t.coreAt n).u.failed) then some (t.setWave d v { v with k := 23 })
    else if t = s then none else some t
  else if (s.dieAt d).rc.failed.contains (v.row, v.k + 1) then
    let u : Wave := { v with stopped := some v.k }
    some ((s.setWave d v u).commitWave d u)
  else
    let r := s.copySlot d v
    let u : Wave := { v with lost := v.lost ++ r.2 }
    if v.k = v.first then some ((r.1.setWave d v u).commitWave d u)
    else some (r.1.setWave d v { u with k := v.k - 1 })

/-- BARCHAN_COPY_SLOT: a wave of the die takes its next step; place: the die. -/
def execBarchanCopySlot (s : State) : Host.Outcome State Fault Refusal :=
  atDie s fun s =>
    let d := s.arg.place
    match (s.dieAt d).rc.waves.findSome? fun v => s.waveStep d v with
    | none => s
    | some t => if (t.dieAt d).rc.waves.isEmpty then t else t.dueAt .barchanCopySlot d

/-! ### Regulator failure (R356) -/

/-- Physical cores of a cluster's slots: slot, local row and column. -/
def State.clusterColumns (s : State) (cl : Nat) : List (Nat × Nat × Nat) :=
  (List.range 16).map fun i =>
    let slot := clusterSlot cl i
    (slot, slotRow slot, s.standsAt (slotDie slot) (slotRow slot) (slotCol slot))

/-- A removal that involves a dark cluster is not done. -/
def State.cancelWaves (s : State) (d : Nat) (rows : List Nat) (col : Nat) : State :=
  s.each ((s.dieAt d).rc.waves.filter fun v => rows.contains v.row && decide (v.first < col + 4)) fun s v =>
    let t := (s.mapRc d fun x => { x with waves := x.waves.filter fun u => u ≠ v }).setRowWord d v.row
      (withBit (s.rowWord d v.row) rowBusy false)
    (t.each ((List.range 24).filter fun j => v.first ≤ j) fun s j => s.releaseSlot (dieSlot d v.row j)).dueAt .removalRequest d

/-- Sets where a router stands with update i. -/
def State.setRound (s : State) (i r n : Nat) : State :=
  s.mapWafer fun w => { w with links := w.links.zipIdx.map fun p =>
    if p.2 = i then { p.1 with rounds := FMap.put 0 p.1.rounds r n } else p.1 }

/-- A router receives update i: its rounds begin, and it forwards the update over its live links (R401, R402). -/
def State.receiveUpdate (s : State) (r i : Nat) : State :=
  let t := (s.setRound i r 1).due .linkRound { place := r, a := i }
  t.each ((List.range 4).filter fun p => !t.linkDead r p) fun s p => match nextRouter r p with
    | some q => s.due .linkStateUpdate { place := q, a := i }
    | none => s

/-- The router at an end of a link declares it dead and floods the update (R400, R401); a link is declared once. -/
def State.declareLink (s : State) (r : Nat) (l : Link) : State :=
  if s.wafer.links.any fun u => l.same u.link then s
  else (s.mapWafer fun w => { w with links := w.links ++ [{ link := l }] }).receiveUpdate r s.wafer.links.length

/-- Group mask of the jobs with context in a cluster (R343). -/
def State.clusterJobs (s : State) (cl : Nat) : Word :=
  let groups := ((List.range 16).flatMap fun i => s.contextsOf (clusterSlot cl i)).map fun j => j.toNat / 64
  BitVec.ofNat 64 ((List.range 64).map fun g => if groups.contains g then 2 ^ g else 0).sum

/-- REGULATOR_FAILURE; place: the cluster. -/
def execRegulatorFailure (s : State) : Host.Outcome State Fault Refusal :=
  atCluster s fun s =>
    let cl := s.arg.place
    let d := clusterDie cl
    if (s.clusterAt cl).dark then s
    else
      let jobs := s.clusterJobs cl
      let s1 := s.cancelWaves d ((List.range 4).map fun r => clusterY cl % 6 * 4 + r) (clusterX cl % 6 * 4)
      let cores := s1.clusterColumns cl
      let routers := cores.map fun c => s1.routerOf c.1
      let s2 := s1.mapClusterAt cl fun c => { c with dark := true, wake := [], stamp := 0, scrubs := [], corr := 0, fired := [] }
      let s3 := s2.each routers fun s r => s.each (List.range 4) fun s p => match nextRouter r p with
        | some q => s.declareLink (if routers.contains q then r else q) { linkAt r p with reason := 2 }
        | none => s
      let gone := s3.wafer.net.filter fun p => routers.contains p.at_
      let s4 := (s3.mapWafer fun w => { w with net := w.net.filter fun p => !routers.contains p.at_ }).each gone State.dropPacket
      let s5 := s4.each cores fun s c =>
        let t := s.becomeHole c.1
        t.setRowWord d c.2.1 (markHole (markDead (t.rowWord d c.2.1) c.2.2) (slotCol c.1))
      let s6 := s5.each cores fun s c => s.afterHole c.1
      (s6.mapMem fun m => m.clearRange (cmFlat cl 0) cmSize).notice d
        { kind := 6, w1 := BitVec.ofNat 64 (clusterX cl + 256 * clusterY cl), w2 := jobs }

end Sys2Proof.Machine
end

