-- ==== Sys2Proof/Machine/Links.lean ====
section
/-! DEFINITION. Dead links and their rounds (R400 to R403), and the freeze with its read-out (R396 to R399). -/
namespace Sys2Proof.Machine

/-! ### Dead links -/

/-- DEAD_LINK_DECLARE: an end of a link declares it dead; place: the router on its west or north end; flag: the link goes
south, else east; a: the reason (R400): 0 where its monitor has counted 16 of 256 flits, 1 for a handshake without an answer, which
its own oscillator times. A dark cluster's links are declared where its regulator fails; no other reason exists. -/
def execDeadLinkDeclare (s : State) : Host.Outcome State Fault Refusal :=
  let r := s.arg.place
  let port := if s.arg.flag then 2 else 1
  let l := linkAt r port
  if routerCount ≤ r ∨ (nextRouter r port).isNone = true then .fault .noSuchPlace
  else .next (if s.arg.a = 0 ∧ s.linkFails l = true ∨ s.arg.a = 1 then s.declareLink r { l with reason := s.arg.a } else s)

/-- Where a router stands with update i (R402). -/
def State.roundAt (s : State) (i r : Nat) : Nat :=
  match s.wafer.links[i]? with
  | some u => u.round r
  | none => 0

/-- LINK_STATE_UPDATE: the flood of an update reaches a router over a live link; place: the router; a: the update. A router that has
it discards it (R401). -/
def execLinkStateUpdate (s : State) : Host.Outcome State Fault Refusal :=
  let r := s.arg.place
  let i := s.arg.a
  let from_ (p : Nat) : Bool := !s.linkDead r p && (nextRouter r p).any fun q => decide (s.roundAt i q ≠ 0)
  if routerCount ≤ r then .fault .noSuchPlace
  else .next (if s.roundAt i r = 0 ∧ (List.range 4).any from_ = true then s.receiveUpdate r i else s)

/-! ### The rounds (R402) -/

/-- The stream packet that an edge's tokens travel as. -/
def State.edgePacket (s : State) (k : Nat) (e : Edge) : Packet :=
  let src := s.nodeSlot e.src
  let m : Send := { dst := s.nodeSlot e.dst, job := e.job, rl := none,
                    body := .token { edge := k, seq := 0, payload := [], top := false, done := false } }
  { m.packet src 2 with route := routeNumber m.dst (e.dq % 4), at_ := s.routerOf src }

/-- Whether a packet's path, followed hop by hop, crosses a link; n bounds the hops. -/
def State.pathCrosses (s : State) (p : Packet) (l : Link) (n : Nat) : Bool :=
  match n with
  | 0 => false
  | k + 1 => match s.routeMove p with
    | .go port => (linkAt p.at_ port).same l || (match nextRouter p.at_ port with
      | some q => s.pathCrosses { p with at_ := q, inp := oppositePort port } l k
      | none => false)
    | _ => false

/-- Round 3 at a router: the producers there of edges whose path crossed the link re-inject every token whose credit has not
returned; a consumer discards one that it has. -/
def State.reinjectLost (s : State) (r : Nat) (l : Link) : State :=
  s.each (s.wafer.edges.filter fun p => s.routerOf (s.nodeSlot p.2.src) == r && s.pathCrosses (s.edgePacket p.1 p.2) l 500) fun s p =>
    s.each p.2.window fun s t =>
      s.emitOrQueue p.2 { dst := s.nodeSlot p.2.dst, job := p.2.job, rl := t.rl, body := .token { t with again := true } }

/-- Words of a link-state update (R401). -/
def Link.words (l : Link) : Word × Word :=
  (BitVec.ofNat 64 (l.px + l.py * 2 ^ 8 + (if l.south then 2 ^ 16 else 0)), BitVec.ofNat 64 (l.reason % 4))

def routerDie (r : Nat) : Nat := r / 200 / 24 * 8 + r % 200 / 25

/-- Whether a router is an end of a link. -/
def Link.ends (l : Link) (r : Nat) : Bool := (List.range 4).any fun p => (nextRouter r p).isSome && l.same (linkAt r p)

/-- A router's work of round n for a link (R402). Round 1: its packets look at their ways again. Round 2: a hop is one act here, so that
no packet stands half across (R403). Round 4: the controller of each end posts a notice (entry 105). -/
def State.linkWork (s : State) (r : Nat) (l : Link) (n : Nat) : State :=
  match n with
  | 1 => s.dueAt .routerLookup r
  | 3 => s.reinjectLost r l
  | 4 => if l.ends r then s.notice (routerDie r) { kind := 12, w1 := l.words.1, w2 := l.words.2 } else s
  | _ => s

/-- LINK_ROUND: a router does its next round for an update; place: the router; a: the update. -/
def execLinkRound (s : State) : Host.Outcome State Fault Refusal :=
  let r := s.arg.place
  let i := s.arg.a
  if routerCount ≤ r then .fault .noSuchPlace
  else .next (match s.wafer.links[i]? with
    | none => s
    | some u =>
      let n := u.round r
      if n = 0 ∨ 5 ≤ n then s
      else
        let t := (s.setRound i r (n + 1)).linkWork r u.link n
        if n = 4 then t else t.due .linkRound { place := r, a := i })

/-! ### Freeze (R396 to R398) -/

/-- Taps of the net: a slot; the control node at a Planak port; a die's region controller. -/
def tapNode (port : Nat) : Nat := slotCount + port
def tapDie (d : Nat) : Nat := slotCount + 2 + d

/-- Why the net is asserted at a tap: a form of its core, a debug command, a trip signalled at the die (R396). -/
def tapCause (tap : Nat) : FreezeCause := if tap < slotCount then .form else if tap < tapDie 0 then .debug else .trip

/-- The net is asserted at a tap. -/
def State.assertFreeze (s : State) (tap : Nat) : State :=
  if s.wafer.freeze = .running then
    (s.mapWafer fun w => { w with freeze := .freezing, tap := tap, why := tapCause tap }).due .freezeStopped {}
  else s

/-- FREEZE_ASSERT; place: the tap. -/
def execFreezeAssert (s : State) : Host.Outcome State Fault Refusal :=
  if s.arg.place < tapDie dieCount then .next (s.assertFreeze s.arg.place) else .fault .noSuchPlace

/-- FREEZE_STOPPED: every tap has stopped, and the control node is told which tap asserted and why (R398; no frame type of R414 carries
it, entry 115). -/
def execFreezeStopped (s : State) : Host.Outcome State Fault Refusal :=
  .next (if s.wafer.freeze = .freezing then
      s.mapWafer fun w => { w with freeze := .frozen, planak.told := w.planak.told ++ [(w.tap, w.why)] }
    else s)

/-- THAW: every tap restarts; notices that waited are posted, and actors that could not fire look again (R397, R398). -/
def execThaw (s : State) : Host.Outcome State Fault Refusal :=
  .next (if s.wafer.freeze = .frozen then
      ((s.mapWafer fun w => { w with freeze := .running }).each (s.dies.map Prod.fst) fun s d => s.flushNotices d 64).each
        (s.cores.map Prod.fst) State.evalCore
    else s)

/-! ### Read-out (R399) -/

/-- The slot that stands at a physical core. -/
def State.slotAtCore (s : State) (p : Nat) : Option Nat :=
  let d := routerDie p
  let row := p / 200 % 24
  (s.slotStanding d row (p % 200 % 25)).map fun j => dieSlot d row j

/-- Word 0 of a record. -/
def readFlags (p : Nat) (slot : Option Nat) (c : Core) : Word :=
  let xy := match slot with
    | some t => slotX t + slotY t * 2 ^ 8
    | none => 0
  let fl := (if slot.isNone then 1 else 0) + (if c.h.traps.isEmpty then 0 else 2)
    + (if c.h.task.isSome then 4 else 0) + (if c.u.halted then 8 else 0)
  BitVec.ofNat 64 (xy + p % 200 * 2 ^ 16 + p / 200 * 2 ^ 24 + fl * 2 ^ 32)

/-- The record of a physical core. -/
def State.coreRecord (s : State) (p : Nat) : List Word :=
  let slot := s.slotAtCore p
  let at_ := slot.getD slotCount
  let c := s.coreAt at_
  let job := c.u.job.getD 0
  [readFlags p slot c, 0, job.setWidth 64, 0, 0, 0, 0, 0]
    ++ ((List.range 32).map fun i => c.h.getX (BitVec.ofNat 5 i))
    ++ ((List.range 32).flatMap fun i => vWords (c.h.getV (BitVec.ofNat 5 i)))
    ++ ((List.range 8).map fun i => c.h.getK (BitVec.ofNat 3 i))
    ++ [c.h.pc, (s.csrValue at_ 0x300).getD 0, c.t.mepc, c.t.mcause, c.t.mtval, c.t.sepc, c.t.scause, c.t.stval]
    ++ s.csrWords at_ ++ [c.g.wid] ++ s.imageCore at_ job
    ++ ((List.range 256).map fun i => c.eng i)
    ++ (match slot with
      | some t => rangeWords s.mem t (0, spSize)
      | none => List.replicate (spSize / 8 + spSize / 256) 0)

/-- Pairs of 32-bit clock entries as words. -/
def clockWords (m : FMap (BitVec 32)) : List Word :=
  (List.range 36).map fun i => FMap.get 0 m (2 * i + 1) ++ FMap.get 0 m (2 * i)

/-- Words of a form that waits at a barrier unit: its object, and its kind, index and requester (entry 21). -/
def BarOp.words (b : BarOp) : List Word :=
  [b.addr, BitVec.ofNat 64 ((match b.form with
    | .arrive => 0
    | .join => 1
    | .leave => 2
    | .phase => 3) + b.idx * 2 ^ 8 + b.slot * 2 ^ 32)]

/-- Tags of a cluster's memory, its wake table, and the forms that wait at its barrier unit. -/
def State.clusterRecord (s : State) (cl : Nat) : List Word :=
  let c := s.clusterAt cl
  s.mem.readWords (cmFlat cl 0) (cmSize / 8) ++ ((List.range (cmSize / 256)).map fun i => tagWord s.mem (cmFlat cl (256 * i)))
    ++ c.wake.flatMap Sleeper.words ++ c.barq.flatMap BarOp.words

/-- The record of a die; the spec names its parts and gives it no layout (entry 21). -/
def State.dieRecord (s : State) (d : Nat) : List Word :=
  let x := s.dieAt d
  clockWords x.clk.h ++ clockWords x.clk.a ++ ((List.range 24).map fun r => s.rowWord d r)
    ++ (x.x.faults.filterMap fun f => f.id.map (BitVec.ofNat 64))
    ++ (List.range 36).flatMap fun i => s.clusterRecord ((d / 8 * 6 + i / 6) * 48 + d % 8 * 6 + i % 6)

/-- The next record goes out: of a physical core, or past them of a die. -/
def State.sendRecord (s : State) (n : Nat) : State :=
  s.sendFrame { ty := 9, words := if n < routerCount then s.coreRecord n else s.dieRecord (n - routerCount) }

/-- READ_OUT: a debug command names physical cores (list); then each step sends one record, at last those of the dies. -/
def execReadOut (s : State) : Host.Outcome State Fault Refusal :=
  .next (match s.wafer.freeze with
    | .frozen =>
      let l := s.arg.list.filter fun p => p < routerCount
      (s.mapWafer fun w =>
        { w with freeze := .reading, reads := l ++ (l.map fun p => routerCount + routerDie p).eraseDups }).due .readOut {}
    | .reading => match s.wafer.reads with
      | [] => s.mapWafer fun w => { w with freeze := .frozen }
      | n :: rest => ((s.mapWafer fun w => { w with reads := rest }).sendRecord n).due .readOut {}
    | _ => s)

end Sys2Proof.Machine
end

