-- ==== Sys2Proof/Machine/Fabric.lean ====
section
/-! DEFINITION. The Planak ports and the host queue (R355, R414, R415), attestation (R424), bring-up commands (R342), and the
Ultra Ethernet port engines with their collectives (R416 to R422). -/
namespace Sys2Proof.Machine

/-! ### Host tokens (R355, R415) -/

/-- The host output edge of a job. -/
def State.hostEdge (s : State) (job : BitVec 12) (e : Nat) : Option (Nat × Edge) :=
  s.wafer.edges.find? fun p => p.2.job == job && p.2.src == .host && p.2.se == e

/-- Whether a token of the control node's is one of a bound edge that the wafer has not accepted, nor holds at its port. -/
def State.newPut (s : State) (p : HostPut) : Bool :=
  match s.hostEdge p.job p.edge with
  | none => false
  | some (_, x) => !precedes p.seq x.seq
      && !s.wafer.planak.waiting.any fun q => q.job == p.job && q.edge == p.edge && q.seq == p.seq

/-- Takes a token that waits at the port, where its seq is due and its edge has a credit. -/
def State.takePut (s : State) (p : HostPut) : Option State :=
  match s.hostEdge p.job p.edge with
  | none => none
  | some (k, x) =>
    if p.seq ≠ x.seq ∨ x.credits = 0 then none
    else s.putToken { edge := k, seq := 0, payload := fitPayload x p.words, top := p.top, done := false }
      (if x.rel then some 3 else none)

/-- HOST_TOKEN_IN: place 0: a type-5 frame: job (a), edge (b), seq (c), top (flag), payload (words). One already accepted is discarded;
each is put in seq order, and without a credit it waits at the port. place 1: those that wait look again. -/
def execHostTokenIn (s : State) : Host.Outcome State Fault Refusal :=
  let p : HostPut := { job := BitVec.ofNat 12 s.arg.a, edge := s.arg.b % 8, seq := BitVec.ofNat 32 s.arg.c, top := s.arg.flag,
                       words := s.arg.words }
  let t := if s.arg.place = 0 ∧ s.newPut p = true then s.mapWafer fun w => { w with planak.waiting := w.planak.waiting ++ [p] } else s
  .next (match t.wafer.planak.waiting.findSome? fun q => (t.takePut q).map fun u => (q, u) with
    | none => t
    | some (q, u) => (u.mapWafer fun w => { w with planak.waiting := w.planak.waiting.erase q }).due .hostTokenIn { place := 1 })

/-- HOST_TOKEN_ACK: a type-6 frame: job (a), port (b), seq (c); tokens of an edge are acknowledged in seq order, and the credit
returns. -/
def execHostTokenAck (s : State) : Host.Outcome State Fault Refusal :=
  .next (match s.wafer.planak.unacked.find? fun h => h.job.toNat == s.arg.a && h.port == s.arg.b with
    | none => s
    | some h =>
      if h.token.seq.toNat ≠ s.arg.c then s
      else (s.mapWafer fun w => { w with planak.unacked := w.planak.unacked.erase h }).due .creditReturn
        { place := h.edge, a := h.token.seq.toNat })

/-- The frames of the tokens not yet acknowledged, again. -/
def State.resendHost (s : State) : State :=
  s.each s.wafer.planak.unacked fun s h => match s.edgeAt h.edge with
    | some e => s.sendFrame (hostFrame e h.token)
    | none => s

/-- PLANAK_FAILOVER: the link of a port (place) goes down; the other becomes primary, and tokens not acknowledged are sent
again. -/
def execPlanakFailover (s : State) : Host.Outcome State Fault Refusal :=
  let p := s.arg.place
  if 2 ≤ p then .fault .noSuchPlace
  else
    let t := s.mapWafer fun w => { w with planak.down := if w.planak.down.contains p then w.planak.down else w.planak.down ++ [p] }
    .next (if s.wafer.planak.primary = p ∧ s.wafer.planak.down.contains (1 - p) = false then
        (t.mapWafer fun w => { w with planak.primary := 1 - p }).resendHost
      else t)

/-- UNKNOWN_FRAME_TYPE: discarded and counted (R414). -/
def execUnknownFrameType (s : State) : Host.Outcome State Fault Refusal :=
  .next (s.mapWafer fun w => { w with planak.unknown := w.planak.unknown + 1 })

/-! ### Bring-up commands and attestation -/

/-- The mailbox of a die that a bring-up command names. -/
def bringUpBox (d slot base : Nat) : Option Mailbox :=
  if slot < slotCount ∧ slotDie slot = d ∧ base % 4096 = 0 ∧ base + 4096 ≤ spSize then some { core := slot, base := base }
  else none

/-- Whether a die still owes the removal of cores that passed no class (R426). -/
def RegionCtl.owesRemovals (r : RegionCtl) : Bool := r.requests.any (fun q => q.cause == 2) || r.waves.any (fun v => v.cause == 2)

/-- What the control node sets up at a port (R416, R419; entry 136). -/
def State.setPort (s : State) (p : PortSetting) : State :=
  if portDie p.die = true ∧ p.port < 2 then
    s.mapDieAt p.die fun x =>
      { x with ports := FMap.put {} x.ports p.port { FMap.get {} x.ports p.port with cc := p.cc, peers := p.peers } }
  else s

/-- BRING_UP_COMMAND: a type-10 frame (words): the supervisor core (list) and mailbox base (list2) of each die, and the primary
port (a); beside it the port settings (ports). It follows the firmware and the waves of bring-up, and waits for them. M2 takes the
command; after the first one the first residency report is sent (R423, R426). -/
def execBringUpCommand (s : State) : Host.Outcome State Fault Refusal :=
  if !s.module_.booted || s.dies.any (fun p => p.2.rc.owesRemovals)
      || s.agenda.any (fun d => d.ev == .coreFailureDetected) then .next (s.due .bringUpCommand s.arg)
  else
    let s1 := (s.each (List.range dieCount) fun s d =>
      match bringUpBox d (s.arg.list.getD d slotCount) (s.arg.list2.getD d 0) with
      | some b => s.mapDieAt d fun x => { x with rc.box := some { b with queue := match x.rc.box with
          | some o => o.queue
          | none => [] } }
      | none => s).each s.arg.ports State.setPort
    let s2 := (s1.mapWafer fun w => { w with planak.primary := s.arg.a % 2 }).extendMeas 2
      (Config.sha3 (s.arg.words.flatMap fun w => bytesOf w.toNat 8))
    .next (if s.wafer.planak.toNode.any fun f => f.ty == 4 then s2 else s2.sendFrame { ty := 4, words := s2.residency 0 0 })

/-- n bytes of a list. -/
def fitBytes (l : List Byte) (n : Nat) : List Byte := (List.range n).map fun i => l.getD i 0

/-- Bytes 0 to 7,810 of a report. -/
def State.reportBody (s : State) (nonce : BitVec 512) : List Byte :=
  let m0 := FMap.get 0 s.module_.meas 0
  bytesOf nonce.toNat 64 ++ ((List.range 8).flatMap fun i => bytesOf (FMap.get 0 s.module_.meas i).toNat 64)
    ++ bytesOf Config.serialNumber.toNat 8 ++ bytesOf Config.securityVersion.toNat 8
    ++ fitBytes (Config.aliasKey m0) 2592 ++ fitBytes (Config.aliasCertificate m0) 4627

/-- ATTESTATION_REQUEST: the report on a nonce (big) goes back as a frame of type 11 (R424). -/
def execAttestationRequest (s : State) : Host.Outcome State Fault Refusal :=
  let b := s.reportBody s.arg.big
  .next (s.sendFrame { ty := 11, words := [], bytes := b ++ fitBytes (Config.aliasSign (FMap.get 0 s.module_.meas 0) b) 4627 })

/-! ### Port engines: parts (R419, R420) -/

def State.portAt (s : State) (d k : Nat) : PortEng := FMap.get {} (s.dieAt d).ports k
def State.mapPort (s : State) (d k : Nat) (f : PortEng → PortEng) : State :=
  s.mapDieAt d fun x => { x with ports := FMap.put {} x.ports k (f (FMap.get {} x.ports k)) }

/-- An event of a port engine: place: the die; a: the port. -/
def atPort (s : State) (k : State → State) : Host.Outcome State Fault Refusal :=
  if portDie s.arg.place = true ∧ s.arg.a < 2 then .next (k s) else .fault .noSuchPlace

/-- Sends words to the rack scheduler (RUD, R417). -/
def State.toRud (s : State) (l : List Word) : State := s.mapWafer fun w => { w with rud := w.rud ++ [l] }

/-- Sends words to the peer at a position over a port, behind what it has sent (ROD, R417). -/
def State.toRod (s : State) (via : Nat × Nat) (pos : Nat) (l : List Word) : State :=
  s.mapPort via.1 via.2 fun p => { p with rod := p.rod ++ [FMap.get 0 p.peers pos :: l] }

/-- Fields of a block header (R420). -/
def blkColl (h : Word) : BitVec 16 := h.setWidth 16
def blkPos (h : Word) : BitVec 8 := h.extractLsb' 16 8
def blkStep (h : Word) : BitVec 8 := h.extractLsb' 24 8
def blkIndex (h : Word) : Nat := h.toNat / 2 ^ 32

/-- A block header. -/
def blockHeader (coll : BitVec 16) (pos step : BitVec 8) (b : Nat) : Word := BitVec.ofNat 32 b ++ step ++ pos ++ coll

def Chunk.holds (c : Chunk) (h : Word) : Bool :=
  c.coll == blkColl h && c.pos == blkPos h && c.step == blkStep h && c.index == blkIndex h / 64

/-! ### Receiving -/

/-- Whether the wafer has a block already: its bit is set in its chunk. -/
def State.hasBlock (s : State) (h : Word) : Bool := s.wafer.chunks.any fun c => c.holds h && c.bits.getLsbD (blkIndex h % 64)

/-- Sets the bit of a block in its chunk, a new one if need be. -/
def State.markBlock (s : State) (h : Word) : State :=
  let bit : BitVec 64 := 1#64 <<< (blkIndex h % 64)
  let old := s.wafer.chunks
  let new := if old.any fun c => c.holds h then old.map fun c => if c.holds h then { c with bits := c.bits ||| bit } else c
    else old ++ [{ coll := blkColl h, pos := blkPos h, step := blkStep h, index := blkIndex h / 64, bits := bit }]
  s.mapWafer fun w => { w with chunks := new }

/-- Whether the queue of a gateway core holds 64 blocks. -/
def PortEng.queueFull (p : PortEng) (g : Nat) : Bool := decide (64 ≤ (p.queue.filter fun q => q.1 = g).length)

/-- The blocks that wait at a port enter their gateway cores' queues, in the order in which they came; a full queue holds that core's
blocks alone, and one that its chunk has is discarded (R420). -/
def State.admitBlocks (s : State) (d k : Nat) : List (List Word) → State
  | [] => s
  | l :: rest =>
    let h := l.getD 0 0
    let g := blkIndex h % 8
    if s.hasBlock h then (s.mapPort d k fun p => { p with waiting := p.waiting.erase l }).admitBlocks d k rest
    else if (s.portAt d k).queueFull g then s.admitBlocks d k rest
    else ((s.mapPort d k fun p =>
      { p with waiting := p.waiting.erase l, queue := p.queue ++ [(g, (List.range 9).map fun i => l.getD i 0)] }).markBlock
      h).admitBlocks d k rest

/-- A block from the network reaches a port. -/
def State.receiveBlock (s : State) (d k : Nat) (l : List Word) : State :=
  let p := s.portAt d k
  if !p.bound || !p.up then s
  else
    let t := s.mapPort d k fun p => { p with waiting := p.waiting ++ [l] }
    (t.admitBlocks d k (p.waiting ++ [l])).due .ueBlockReceive { place := d, a := k }

/-- A gateway core takes a block as a message record, if it can. Which reading of the top codes the record carries, the spec
does not say: a free value (entry 14). -/
def State.deliverBlock (s : State) (d k g : Nat) (l : List Word) : Option State :=
  let p := s.portAt d k
  let slot := gatewaySlot d k g
  let c := s.coreAt slot
  if s.isHole slot || !s.takesJob slot p.job || !c.hasRoom p.prio.toNat then none
  else match c.freeFrame false with
    | none => none
    | some i =>
      let top := (Config.freeWord s.fresh).getLsbD 0
      let m : Msg := { reply := false, job := p.job, code := p.code, prio := p.prio, wid := false, payload := l, top := top }
      let e : Send := { dst := slot, job := p.job, rl := none, body := .msg m }
      some (({ s with fresh := s.fresh + 1 }.balance slot p.job 1).acceptInto slot i (e.packet slot 0) m)

/-- Acknowledges to their senders the chunks whose 64 blocks have all become records. -/
def State.ackChunks (s : State) (d k : Nat) : State :=
  let queued (c : Chunk) : Bool := s.dies.any fun x => x.2.ports.any fun p => p.2.queue.any fun q => c.holds (q.2.getD 0 0)
  let full (c : Chunk) : Bool := c.bits == BitVec.allOnes 64 && !c.acked && !queued c
  (s.each (s.wafer.chunks.filter full) fun s c =>
    s.toRod (d, k) c.pos.toNat [blockHeader c.coll c.pos c.step (64 * c.index)]).mapWafer fun w =>
    { w with chunks := w.chunks.map fun c => if full c then { c with acked := true } else c }

/-- UE_BLOCK_RECEIVE: a block arrives (words: header and block); without words, the first queued block whose gateway core can
take it becomes a record; place: the die; a: the port. -/
def execUeBlockReceive (s : State) : Host.Outcome State Fault Refusal :=
  atPort s fun s =>
    let d := s.arg.place
    let k := s.arg.a
    if s.arg.words ≠ [] then s.receiveBlock d k s.arg.words
    else
      let p := s.portAt d k
      match (List.range 8).findSome? fun g => (p.queue.find? fun q => q.1 = g).bind fun q =>
          (s.deliverBlock d k g q.2).map fun t => (t, q) with
      | none => s
      | some (t, q) =>
        let u := (t.mapPort d k fun p => { p with queue := p.queue.erase q }).ackChunks d k
        let v := u.admitBlocks d k (u.portAt d k).waiting
        if (v.portAt d k).queue.isEmpty then v else v.due .ueBlockReceive { place := d, a := k }

/-! ### Transmitting -/

/-- Word 1 of a transmit slot: the peer in [7:0], and above it the header's fields, of which 24 bits of the block index have
room. -/
def txPeer (w : Word) : Word := w &&& 0xFF
def txHeader (w : Word) : Word := w >>> 8

/-- The rings in the order in which they are looked at. -/
def PortEng.rings (p : PortEng) : List Nat := (List.range 8).map fun i => (p.nextRing + i) % 8

/-- A collective at a port, as it stands or new. -/
def PortEng.coll (p : PortEng) (c : BitVec 16) (pos : BitVec 8) : Coll :=
  (p.colls.find? fun x => x.coll == c).getD { coll := c, pos := pos }
def PortEng.putColl (p : PortEng) (c : Coll) : PortEng := { p with colls := (p.colls.filter fun x => x.coll != c.coll) ++ [c] }

/-- The port over which a collective of a port goes out: its own, or the one over which its path has been re-formed (R422). -/
def Coll.path (c : Coll) (d k : Nat) : Nat × Nat := c.via.getD (d, k)

/-- Whether a ring's next slot is full and not yet sent, and its collective runs over a port whose link is up. -/
def State.txReady (s : State) (d k : Nat) (p : PortEng) (g : Nat) : Bool :=
  let i := FMap.get 0 p.nextSlot g
  let h := txHeader (s.mem.data (txFlat d k p g i + 8))
  let c := p.coll (blkColl h) (blkPos h)
  let via := c.path d k
  !s.isHole (gatewaySlot d k g) && (s.mem.tag (txFlat d k p g i)).full && (!p.sent.any fun e => e.1 == g && e.2.1 == i)
    && c.state == .running && (s.portAt via.1 via.2).up

/-- UE_TRANSMIT: the engine takes the next full slot, round-robin over the rings, and sends it; place: the die; a: the
port. -/
def execUeTransmit (s : State) : Host.Outcome State Fault Refusal :=
  atPort s fun s =>
    let d := s.arg.place
    let k := s.arg.a
    let p := s.portAt d k
    if !p.bound then s
    else match p.rings.find? (s.txReady d k p) with
      | none => s
      | some g =>
        let i := FMap.get 0 p.nextSlot g
        let f := txFlat d k p g i
        let w := s.mem.data (f + 8)
        let block := s.mem.readWords (f + 64) 8
        let c := p.coll (blkColl (txHeader w)) (blkPos (txHeader w))
        ((s.mapPort d k fun p =>
          ({ p with sent := p.sent ++ [(g, i, w, block)], nextSlot := FMap.put 0 p.nextSlot g ((i + 1) % 16),
                    nextRing := (g + 1) % 8 } : PortEng).putColl c).toRod (c.path d k) (txPeer w).toNat (txHeader w :: block)).due
          .ueTransmit { place := d, a := k }

/-- UE_CHUNK_ACK: a peer acknowledges a chunk (word: collective [15:0], peer position [23:16], step [31:24], chunk number
[63:32]); the slots that hold its blocks are emptied; place: the die; a: the port. -/
def execUeChunkAck (s : State) : Host.Outcome State Fault Refusal :=
  atPort s fun s =>
    let d := s.arg.place
    let k := s.arg.a
    let v := s.arg.word
    let p := s.portAt d k
    let mine (e : Nat × Nat × Word × List Word) : Bool :=
      let h := txHeader e.2.2.1
      blkColl h == blkColl v && blkStep h == blkStep v && blkIndex h / 64 == blkIndex v && (txPeer e.2.2.1).setWidth 8 == blkPos v
    match p.sent.find? mine with
    | none => s
    | some e =>
      let c := p.coll (blkColl v) (blkPos (txHeader e.2.2.1))
      let t := s.mapPort d k fun p =>
        ({ p with sent := p.sent.filter fun e => !mine e }).putColl { c with lastAck := some (blkStep v, blkIndex v) }
      (t.each (p.sent.filter mine) fun s e =>
        s.putFull none (txFlat d k p e.1 e.2.1) false).due .ueTransmit { place := d, a := k }

/-! ### Collectives around a failed path (R422) -/

/-- A collective and what it last had acknowledged, as the engine reports it. -/
def Coll.report (c : Coll) : List Word :=
  [blockHeader c.coll c.pos 0 0, match c.lastAck with
    | some (st, i) => 2 ^ 63 + blockHeader 0 0 st i
    | none => 0]

/-- The collective that an event names: word: collective [15:0], position [23:16]. -/
def State.collOf (s : State) : Coll := (s.portAt s.arg.place s.arg.a).coll (blkColl s.arg.word) (blkPos s.arg.word)

/-- The path of a running collective has failed: it re-forms, and the engine reports the last chunk that its successor acknowledged. -/
def State.reform (s : State) (d k : Nat) (c : Coll) : State :=
  if c.state ≠ .running then s else (s.mapPort d k fun p => p.putColl { c with state := .reforming }).toRud c.report

/-- COLLECTIVE_PATH_FAIL: the transport gives up on a collective's path (word), or, where flag is set, the link of a port goes down, and
with it the path of every collective that goes over it; place: the die; a: the port. -/
def execCollectivePathFail (s : State) : Host.Outcome State Fault Refusal :=
  atPort s fun s =>
    let d := s.arg.place
    let k := s.arg.a
    if !s.arg.flag then s.reform d k s.collOf
    else (s.mapPort d k fun p => { p with up := false }).each s.dies fun s x => s.each x.2.ports fun s p =>
      s.each (p.2.colls.filter fun c => c.path x.1 p.1 == (d, k)) fun s c => s.reform x.1 p.1 c

/-- COLLECTIVE_RESTART: the rack scheduler has found a new path for a collective, over a port of the wafer whose link is up (die b,
port c; flag: that link has come up again); then every chunk after the last acknowledged one is sent again over it, and the collective runs; place: the die; a: the
port; word: the collective. -/
def execCollectiveRestart (s : State) : Host.Outcome State Fault Refusal :=
  atPort s fun s =>
    let d := s.arg.place
    let k := s.arg.a
    let c := s.collOf
    match c.state with
    | .reforming =>
      if portDie s.arg.b = true ∧ s.arg.c < 2 ∧ ((s.portAt s.arg.b s.arg.c).up = true ∨ s.arg.flag = true) then
        ((s.mapPort s.arg.b s.arg.c fun p => { p with up := true }).mapPort d k fun p => p.putColl { c with state := .restarting, via := some (s.arg.b, s.arg.c) }).due .collectiveRestart s.arg
      else s
    | .restarting =>
      let t := s.each ((s.portAt d k).sent.filter fun e => blkColl (txHeader e.2.2.1) == c.coll) fun s e =>
        s.toRod (c.path d k) (txPeer e.2.2.1).toNat (txHeader e.2.2.1 :: e.2.2.2)
      (t.mapPort d k fun p => p.putColl { c with state := .running }).due .ueTransmit { place := d, a := k }
    | _ => s

/-- COLLECTIVE_FAILED: no path exists; the supervisor of the port's die gets a notice, and the rack scheduler is told; place:
the die; a: the port; word: the collective. -/
def execCollectiveFailed (s : State) : Host.Outcome State Fault Refusal :=
  atPort s fun s =>
    let c := s.collOf
    if c.state ≠ .reforming then s
    else ((s.mapPort s.arg.place s.arg.a fun p => p.putColl { c with state := .failed }).notice s.arg.place
      { kind := 14, w1 := c.coll.setWidth 64, w2 := c.pos.setWidth 64,
        w3 := BitVec.ofNat 64 (s.arg.a + s.arg.place * 2 ^ 8) }).toRud c.report

end Sys2Proof.Machine
end

