-- ==== Sys2Proof/Machine/Module.lean ====
section
/-! DEFINITION. The module: bring-up (R423, R426), the power cap, protection trips and the removal of power (R425). -/
namespace Sys2Proof.Machine

/-! ### Bring-up -/

/-- A core after the speed test: the lower of its fused class and the highest class that it passes, and its hart idle; a core
that passes no class answers no more. No rule gives a core's fused class: it is the reset class of gvspeed, 28 (R31; DESIGN CHOICE,
entry 138). -/
def Core.broughtUp (c : Core) (cls : Option Nat) : Core :=
  let g := match cls with
    | some n => min n c.g.cls.toNat
    | none => c.g.cls.toNat
  { c with h := { c.h with mode := .u, hs := .idle, pc := 0 }, g := { c.g with cls := BitVec.ofNat 6 g, clk := BitVec.ofNat 6 g } }

/-- What the speed test says of a physical core: the place in the list of those that did not pass their fused class. -/
def testOf (cores classes : List Nat) (r : Nat) : Option Nat :=
  (cores.zip classes).find? (fun p => p.1 = r) |>.map Prod.snd

/-- Every core of the wafer, listed, by a function of its slot. -/
def State.mapCores (s : State) (f : Nat → Core → Core) : State :=
  { s with cores := ((List.range slotCount).map fun i => (i, f i (s.coreAt i))).filter fun p => p.2 ≠ {} }

/-- The boot ROM's checks of a firmware image (R423): its key's hash is the fused one, the key verifies its signature over its hash, and
its security version is not below the fused one. -/
def RomImage.accepted (m : RomImage) : Bool :=
  Config.sha3 m.key == Config.vendorKeyHash && Config.verify m.key (Config.sha3 m.body) m.sign
    && decide (Config.securityVersion.toNat ≤ m.version)

/-- BRING_UP: the boot ROM of each die checks the firmware image that it finds (images, by die); a die that refuses it stays dark to
software. M0 takes the hash of the image that the first die accepts (entry 137). The speed test's results stand in list (physical
cores) and list2 (the highest class each passes; above 36: none). Harts are idle once firmware has run (entry 5); a wave with
cause 2 is asked for at each core that passes no class, a spare too (R426). -/
def execBringUp (s : State) : Host.Outcome State Fault Refusal :=
  .next (if s.module_.booted || !s.module_.powered then s
    else
      let image (d : Nat) : RomImage := s.arg.images.getD d {}
      match (List.range dieCount).find? fun d => (image d).accepted with
      | none => s.mapCores fun _ c => { c with u.failed := true }
      | some d0 =>
        let fails (r : Nat) : Bool := match testOf s.arg.list s.arg.list2 r with
          | some n => decide (36 < n)
          | none => false
        let t := (s.mapCores fun i c => if (image (slotDie i)).accepted then c.broughtUp (testOf s.arg.list s.arg.list2 (s.routerOf i))
          else { c with u.failed := true }).extendMeas 0 (Config.sha3 (image d0).body)
        let u : State := { t with module_ := { t.module_ with booted := true } }
        u.each (s.arg.list.filter fun r => r < routerCount ∧ fails r = true ∧ (image (routerDie r)).accepted = true) fun s r =>
          s.due .coreFailureDetected { place := routerDie r, a := r / 200 % 24, b := r % 200 % 25 })

/-! ### Power -/

/-- POWER_CAP: the controller of a die lowers the clock codes of its cores to a code (a), for power; place: the die. -/
def execPowerCap (s : State) : Host.Outcome State Fault Refusal :=
  atDie s fun s =>
    s.each ((dieSlots s.arg.place).filter fun t => s.arg.a < (s.coreAt t).g.clk.toNat) fun s t => s.setClock t s.arg.a 1

/-- PROTECTION_TRIP: the region controller of a die asserts the freeze net; power goes 10 ms later; place: the die. -/
def execProtectionTrip (s : State) : Host.Outcome State Fault Refusal :=
  atDie s fun s =>
    let t := s.assertFreeze (tapDie s.arg.place)
    let u : State := { t with module_ := { t.module_ with tripped := true } }
    u.due .powerRemoved {}

/-- POWER_REMOVED: after a trip the wafer has no power; nothing on it goes on. -/
def execPowerRemoved (s : State) : Host.Outcome State Fault Refusal :=
  .next (if s.module_.tripped then { s with module_ := { s.module_ with powered := false } } else s)

end Sys2Proof.Machine
end

