-- ==== Sys2Proof/Machine/Region.lean ====
section
/-! DEFINITION. The region forms (R176 to R178), and the release of held effects when the stack becomes empty (R183). The
forms act on the hart's stack at any privilege (R176). -/
namespace Sys2Proof.Machine

/-! ### Opening -/

/-- Trap code and tval of a begin that cannot open an entry with n more register records (R178). -/
def Core.beginFault (c : Core) (n : Nat) : Option Word :=
  if 8 ≤ c.r.stack.length then some 3
  else if !c.logRoom (9 + n) then some 2
  else none

/-- Pushes an entry, takes the carry, and logs its marker and k records. -/
def State.openEntry (s : State) (e : Entry) : State :=
  (s.mapCore fun c => { c with r.stack := e :: c.r.stack, r.carry := none }).logBegin e (s.core.r.stack.length + 1)

/-- The carried count, or 0. -/
def Core.carryCount (c : Core) : Nat :=
  match c.r.carry with
  | some p => p.1
  | none => 0

def execRcvBegin (s : State) : Host.Outcome State Fault Refusal :=
  let c := s.core
  .next (match c.beginFault 0 with
    | some t => s.trap 27 t
    | none =>
      if !c.e.sb.isEmpty then s
      else (s.openEntry { txn := false, mark := c.r.logTop, begin_ := c.h.pc, count := c.carryCount }).retire)

/-- The stamp of a transaction that opens as the outermost one: the carried one, or a fresh one of its cluster's counter
(R175, R187). -/
def State.takeStamp (s : State) : State × Nat :=
  match s.core.r.carry with
  | some (_, some n) => (s, n)
  | _ =>
    let cl := slotCluster s.cur
    let n := (s.clusterAt cl).stamp + 1
    (s.mapClusterAt cl fun k => { k with stamp := n }, n)

/-- Registers that a mask names are sources of the form that logs them (R161, R177). -/
def maskSrcs (l : List Nat) : List XReg := (l.filter (· < 32)).map (BitVec.ofNat 5)

def execTxnBegin (rs1 : XReg) (s : State) : Host.Outcome State Fault Refusal :=
  let i : Instr := .txnBegin rs1
  .next (s.guard i [rs1] [] fun s =>
    let c := s.core
    let l := maskRegs (s.x rs1) []
    s.guard i (maskSrcs l) [] fun s =>
      match c.beginFault (regRecords l) with
      | some t => s.trap 27 t
      | none =>
        if !c.e.sb.isEmpty then s
        else
          let e : Entry := { txn := true, mark := c.r.logTop, begin_ := c.h.pc, count := c.carryCount }
          let t := if c.r.stack.any Entry.txn then s.openEntry e
            else
              let n := s.takeStamp
              (n.1.mapCore fun c => { c with r.doomed := false, r.rset := [], r.wset := [] }).openEntry
                { e with stamp := n.2 }
          (t.logRegs l).retire)

def execRcvPreserve (rs1 : XReg) (s : State) : Host.Outcome State Fault Refusal :=
  let i : Instr := .rcvPreserve rs1
  .next (s.guard i [rs1] [] fun s =>
    match s.core.r.stack with
    | [] => s.misuse i
    | e :: _ =>
      let l := maskRegs (s.x rs1) e.regs
      s.guard i (maskSrcs l) [] fun s =>
        if !s.core.logRoom (regRecords l) then s.trap 27 2 else (s.logRegs l).retire)

/-- txn.else sets the innermost open transaction's alternative. -/
def execTxnElse (rs1 : XReg) (s : State) : Host.Outcome State Fault Refusal :=
  let i : Instr := .txnElse rs1
  .next (s.guard i [rs1] [] fun s =>
    let st := s.core.r.stack
    let a := s.x rs1
    match st.findIdx? Entry.txn with
    | none => s.misuse i
    | some j =>
      if a &&& 3 ≠ 0 then s.trap 0 a
      else (s.mapCore fun c => { c with r.stack := st.modify j fun e => { e with alt := a } }).retire)

/-! ### Release of held effects (R98, R183) -/

/-- A held task.join is performed; a bad record drops it, with a notice (R104, R280). -/
def State.releaseJoin (s : State) (a : Word) (job : BitVec 12) : State :=
  let f := s.flat a + 8
  let t := s.checkWord f
  if t.mem.isBad f then
    (t.mapMem fun m => m.setPoison f true).notice (slotDie s.cur) { kind := 9, w1 := a, w2 := errToken 0x10 }
  else t.joinAt a job

/-- A capability that fails at release discards its effect; the first is what cause 26 names (R183). A reply route that the
effect claimed is unspent again, and a reply credit that it took comes back (DESIGN CHOICE, entry 129: R119 and R183 say only that
the effect is discarded). -/
def State.dropHeld (s : State) (x : Held) (cap : CapUse) : State :=
  (s.discardHeld x).mapCore fun c => { c with r.owed := some (c.r.owed.getD cap.addr) }

/-- Performs one held effect; none: it has to wait. -/
def State.releaseHeld (s : State) (x : Held) : Option State :=
  let c := s.core
  match x.op with
  | .spawn r rl sc =>
    if (rl && !s.relReady s.cur sc false) || !c.hasRoom r.prio.toNat then none else some ((s.balance s.cur r.job 1).enqueueAt s.cur r)
  | .join a job => if c.e.sb.isEmpty && !s.joinWaits a then some (s.releaseJoin a job) else none
  | .send vn m cap claim =>
    if cap.checked && s.capFault c.jobOf cap.w0 cap.w1 cap.needs != 0 then some (s.dropHeld x cap)
    else if c.sendFull vn || s.relWaits m.rl m.dst then none
    else match m.body with
      | .msg g => some (s.sendMsg vn m.dst m.rl g claim.isSome)
      | _ => some (s.queueSend s.cur vn m)
  | .put t rl =>
    match s.edgeAt t.edge with
    | none => some s
    | some e => if s.streamFull s.cur || s.relWaits rl (s.nodeSlot e.dst) then none else some (s.hartPut t rl)
  | .nb op => if s.formWaits op.ord op.remote then none else some (s.post (.nb op))
  | .cp k =>
    if 4 ≤ c.e.cpq.length then none
    else let n := s.nextSeq
      some (n.1.cpEnter s.cur { k with seq := n.2 })
  | .lay k =>
    if 2 ≤ ((s.layqAt (slotCluster s.cur)).filter fun l => l.slot = s.cur).length then none
    else let n := s.nextSeq
      some (n.1.layEnter { k with seq := n.2 })
  | .dram k =>
    if 8 ≤ c.e.drq.length then none
    else let n := s.nextSeq
      some (n.1.dramEnter s.cur { k with seq := n.2 })

/-- The register of a released command is pending as any command's (R184). -/
def Core.released (c : Core) (rd : XReg) : Core := { c with h.hpend := clearBit c.h.hpend rd }

/-- Releases held effects in issue order as far as they go; n bounds them. -/
def State.releaseAll (s : State) (n : Nat) : State :=
  match n with
  | 0 => s
  | k + 1 =>
    match s.core.r.hold with
    | [] => s
    | x :: rest =>
      match (s.mapCore fun c => c.released x.rd).releaseHeld x with
      | none => s
      | some t => (t.mapCore fun c => { c with r.hold := rest }).releaseAll k

/-- The closing form goes on: it retires once every effect has been accepted, and then raises the cause 26 it owes. -/
def State.closeOn (s : State) : State :=
  let t := s.releaseAll s.core.r.hold.length
  if !t.core.r.hold.isEmpty then t
  else
    let u := (t.mapCore fun c => { c with r.closing := false, r.owed := none }).retire
    match t.core.r.owed with
    | some a => u.trap 26 a
    | none => u

/-- The stack has become empty: the log is emptied, and the held effects are released. -/
def State.closeLast (s : State) : State :=
  (s.mapCore fun c => { c with r.stack := [], r.logTop := c.g.undo.toNat, r.closing := true }).closeOn

/-- Appends what a list does not hold yet. -/
def joinList (l m : List Nat) : List Nat := l ++ m.filter fun x => !l.contains x

/-- Closes the innermost entry under a parent: its records stay, its sets and held effects pass on (R178). -/
def State.closeNested (s : State) (e p : Entry) (below : List Entry) : State :=
  let depth := below.length + 2
  (s.mapCore fun c =>
    { c with
      r.stack := { p with words := joinList p.words e.words, regs := joinList p.regs e.regs } :: below,
      r.hold := c.r.hold.map fun x => if x.depth = depth then { x with depth := depth - 1 } else x }).retire

/-! ### Closing, failing, abandoning -/

def execRcvEnd (s : State) : Host.Outcome State Fault Refusal :=
  .next (if s.core.r.closing then s.closeOn
    else match s.core.r.stack with
      | [] => s.misuse .rcvEnd
      | e :: below =>
        if e.txn then s.misuse .rcvEnd
        else match below with
          | [] => s.closeLast
          | p :: rest => s.closeNested e p rest)

/-- txn.end: a nested transaction passes to its parent; the outermost one commits (R178, R186). -/
def execTxnEnd (s : State) : Host.Outcome State Fault Refusal :=
  .next (if s.core.r.closing then s.closeOn
    else match s.core.r.stack with
      | [] => s.misuse .txnEnd
      | e :: below =>
        if !e.txn then s.misuse .txnEnd
        else if below.any Entry.txn then
          match below with
          | [] => s
          | p :: rest => s.closeNested e p rest
        else if !s.core.e.sb.isEmpty then s
        else match s.commit with
          | .full => s.trap 27 2
          | .restart t => t
          | .done t => if below.isEmpty then t.closeLast else t.retire)

/-- rcv.fail runs the innermost recovery region again; the count stays (R178, R194). -/
def execRcvFail (s : State) : Host.Outcome State Fault Refusal :=
  .next (match s.core.r.stack with
    | [] => s.misuse .rcvFail
    | e :: _ => if e.txn then s.misuse .rcvFail else s.reexecute 0 e.count none)

def execTxnRetry (s : State) : Host.Outcome State Fault Refusal := .next (s.retry .txnRetry)

/-- txn.abort abandons the innermost transaction and what lies above it; registers stay (R178). -/
def execTxnAbort (s : State) : Host.Outcome State Fault Refusal :=
  .next (match s.core.r.stack.findIdx? Entry.txn with
    | none => s.misuse .txnAbort
    | some j =>
      if !s.commandsDone then s
      else
        let r := s.rollback j false
        if r.2 then r.1.retire else r.1)

end Sys2Proof.Machine
end

