-- ==== Sys2Proof/Machine/Scalar.lean ====
section
/-! DEFINITION. The standard integer forms: arithmetic, loads and stores, jumps and branches (R69, R71, R96). -/
namespace Sys2Proof.Machine

/-! ### Shapes -/

/-- A form that reads source registers, computes one value and writes rd; one that writes x0 reads its sources all the same (R70;
DESIGN CHOICE, entry 140). -/
def alu (i : Instr) (srcs : List XReg) (rd : XReg) (f : State → Word) (s : State) : State :=
  s.guard i srcs [rd] fun s => (s.writeX rd (f s)).retire

def aluI (i : Instr) (rd rs1 : XReg) (imm : BitVec 12) (f : Word → Word → Word) (s : State) : State :=
  alu i [rs1] rd (fun s => f (s.x rs1) (imm.signExtend 64)) s

def aluR (i : Instr) (rd rs1 rs2 : XReg) (f : Word → Word → Word) (s : State) : State :=
  alu i [rs1, rs2] rd (fun s => f (s.x rs1) (s.x rs2)) s

/-- A 32-bit operation, its result sign-extended. -/
def on32 (f : BitVec 32 → BitVec 32 → BitVec 32) (a b : Word) : Word :=
  (f (a.setWidth 32) (b.setWidth 32)).signExtend 64

def boolWord (b : Bool) : Word := if b then 1 else 0

/-! ### Register-immediate -/

def execAddi (rd rs1 : XReg) (imm : BitVec 12) (s : State) : Host.Outcome State Fault Refusal :=
  .next (aluI (.addi rd rs1 imm) rd rs1 imm (· + ·) s)
def execSlti (rd rs1 : XReg) (imm : BitVec 12) (s : State) : Host.Outcome State Fault Refusal :=
  .next (aluI (.slti rd rs1 imm) rd rs1 imm (fun a b => boolWord (a.slt b)) s)
def execSltiu (rd rs1 : XReg) (imm : BitVec 12) (s : State) : Host.Outcome State Fault Refusal :=
  .next (aluI (.sltiu rd rs1 imm) rd rs1 imm (fun a b => boolWord (a.ult b)) s)
def execXori (rd rs1 : XReg) (imm : BitVec 12) (s : State) : Host.Outcome State Fault Refusal :=
  .next (aluI (.xori rd rs1 imm) rd rs1 imm (· ^^^ ·) s)
def execOri (rd rs1 : XReg) (imm : BitVec 12) (s : State) : Host.Outcome State Fault Refusal :=
  .next (aluI (.ori rd rs1 imm) rd rs1 imm (· ||| ·) s)
def execAndi (rd rs1 : XReg) (imm : BitVec 12) (s : State) : Host.Outcome State Fault Refusal :=
  .next (aluI (.andi rd rs1 imm) rd rs1 imm (· &&& ·) s)
def execSlli (rd rs1 : XReg) (sh : BitVec 6) (s : State) : Host.Outcome State Fault Refusal :=
  .next (alu (.slli rd rs1 sh) [rs1] rd (fun s => s.x rs1 <<< sh.toNat) s)
def execSrli (rd rs1 : XReg) (sh : BitVec 6) (s : State) : Host.Outcome State Fault Refusal :=
  .next (alu (.srli rd rs1 sh) [rs1] rd (fun s => s.x rs1 >>> sh.toNat) s)
def execSrai (rd rs1 : XReg) (sh : BitVec 6) (s : State) : Host.Outcome State Fault Refusal :=
  .next (alu (.srai rd rs1 sh) [rs1] rd (fun s => (s.x rs1).sshiftRight sh.toNat) s)

def execAddiw (rd rs1 : XReg) (imm : BitVec 12) (s : State) : Host.Outcome State Fault Refusal :=
  .next (aluI (.addiw rd rs1 imm) rd rs1 imm (on32 (· + ·)) s)
def execSlliw (rd rs1 : XReg) (sh : BitVec 5) (s : State) : Host.Outcome State Fault Refusal :=
  .next (alu (.slliw rd rs1 sh) [rs1] rd (fun s => ((s.x rs1).setWidth 32 <<< sh.toNat).signExtend 64) s)
def execSrliw (rd rs1 : XReg) (sh : BitVec 5) (s : State) : Host.Outcome State Fault Refusal :=
  .next (alu (.srliw rd rs1 sh) [rs1] rd (fun s => ((s.x rs1).setWidth 32 >>> sh.toNat).signExtend 64) s)
def execSraiw (rd rs1 : XReg) (sh : BitVec 5) (s : State) : Host.Outcome State Fault Refusal :=
  .next (alu (.sraiw rd rs1 sh) [rs1] rd (fun s => (((s.x rs1).setWidth 32).sshiftRight sh.toNat).signExtend 64) s)

/-! ### Upper immediates -/

/-- The U-type immediate: imm[31:12], sign-extended. -/
def upper (imm : BitVec 20) : Word := (imm ++ 0#12).signExtend 64

def execLui (rd : XReg) (imm : BitVec 20) (s : State) : Host.Outcome State Fault Refusal :=
  .next (alu (.lui rd imm) [] rd (fun _ => upper imm) s)
def execAuipc (rd : XReg) (imm : BitVec 20) (s : State) : Host.Outcome State Fault Refusal :=
  .next (alu (.auipc rd imm) [] rd (fun s => s.core.h.pc + upper imm) s)

/-! ### Register-register -/

def execAdd (rd rs1 rs2 : XReg) (s : State) : Host.Outcome State Fault Refusal :=
  .next (aluR (.add rd rs1 rs2) rd rs1 rs2 (· + ·) s)
def execSub (rd rs1 rs2 : XReg) (s : State) : Host.Outcome State Fault Refusal :=
  .next (aluR (.sub rd rs1 rs2) rd rs1 rs2 (· - ·) s)
def execSll (rd rs1 rs2 : XReg) (s : State) : Host.Outcome State Fault Refusal :=
  .next (aluR (.sll rd rs1 rs2) rd rs1 rs2 (fun a b => a <<< (b.toNat % 64)) s)
def execSlt (rd rs1 rs2 : XReg) (s : State) : Host.Outcome State Fault Refusal :=
  .next (aluR (.slt rd rs1 rs2) rd rs1 rs2 (fun a b => boolWord (a.slt b)) s)
def execSltu (rd rs1 rs2 : XReg) (s : State) : Host.Outcome State Fault Refusal :=
  .next (aluR (.sltu rd rs1 rs2) rd rs1 rs2 (fun a b => boolWord (a.ult b)) s)
def execXor (rd rs1 rs2 : XReg) (s : State) : Host.Outcome State Fault Refusal :=
  .next (aluR (.xor rd rs1 rs2) rd rs1 rs2 (· ^^^ ·) s)
def execSrl (rd rs1 rs2 : XReg) (s : State) : Host.Outcome State Fault Refusal :=
  .next (aluR (.srl rd rs1 rs2) rd rs1 rs2 (fun a b => a >>> (b.toNat % 64)) s)
def execSra (rd rs1 rs2 : XReg) (s : State) : Host.Outcome State Fault Refusal :=
  .next (aluR (.sra rd rs1 rs2) rd rs1 rs2 (fun a b => a.sshiftRight (b.toNat % 64)) s)
def execOr (rd rs1 rs2 : XReg) (s : State) : Host.Outcome State Fault Refusal :=
  .next (aluR (.or rd rs1 rs2) rd rs1 rs2 (· ||| ·) s)
def execAnd (rd rs1 rs2 : XReg) (s : State) : Host.Outcome State Fault Refusal :=
  .next (aluR (.and rd rs1 rs2) rd rs1 rs2 (· &&& ·) s)
def execAddw (rd rs1 rs2 : XReg) (s : State) : Host.Outcome State Fault Refusal :=
  .next (aluR (.addw rd rs1 rs2) rd rs1 rs2 (on32 (· + ·)) s)
def execSubw (rd rs1 rs2 : XReg) (s : State) : Host.Outcome State Fault Refusal :=
  .next (aluR (.subw rd rs1 rs2) rd rs1 rs2 (on32 (· - ·)) s)
def execSllw (rd rs1 rs2 : XReg) (s : State) : Host.Outcome State Fault Refusal :=
  .next (aluR (.sllw rd rs1 rs2) rd rs1 rs2 (on32 fun a b => a <<< (b.toNat % 32)) s)
def execSrlw (rd rs1 rs2 : XReg) (s : State) : Host.Outcome State Fault Refusal :=
  .next (aluR (.srlw rd rs1 rs2) rd rs1 rs2 (on32 fun a b => a >>> (b.toNat % 32)) s)
def execSraw (rd rs1 rs2 : XReg) (s : State) : Host.Outcome State Fault Refusal :=
  .next (aluR (.sraw rd rs1 rs2) rd rs1 rs2 (on32 fun a b => a.sshiftRight (b.toNat % 32)) s)

/-! ### Multiplication and division (published: no trap; division by zero and overflow have results) -/

def mulhWord (a b : Word) : Word := BitVec.ofInt 64 (a.toInt * b.toInt / 2 ^ 64)
def mulhsuWord (a b : Word) : Word := BitVec.ofInt 64 (a.toInt * (b.toNat : Int) / 2 ^ 64)
def mulhuWord (a b : Word) : Word := BitVec.ofNat 64 (a.toNat * b.toNat / 2 ^ 64)
def divS {w : Nat} (a b : BitVec w) : BitVec w := if b = 0 then BitVec.allOnes w else a.sdiv b
def divU {w : Nat} (a b : BitVec w) : BitVec w := if b = 0 then BitVec.allOnes w else a.udiv b
def remS {w : Nat} (a b : BitVec w) : BitVec w := if b = 0 then a else a.srem b
def remU {w : Nat} (a b : BitVec w) : BitVec w := if b = 0 then a else a.umod b

def execMul (rd rs1 rs2 : XReg) (s : State) : Host.Outcome State Fault Refusal :=
  .next (aluR (.mul rd rs1 rs2) rd rs1 rs2 (· * ·) s)
def execMulh (rd rs1 rs2 : XReg) (s : State) : Host.Outcome State Fault Refusal :=
  .next (aluR (.mulh rd rs1 rs2) rd rs1 rs2 mulhWord s)
def execMulhsu (rd rs1 rs2 : XReg) (s : State) : Host.Outcome State Fault Refusal :=
  .next (aluR (.mulhsu rd rs1 rs2) rd rs1 rs2 mulhsuWord s)
def execMulhu (rd rs1 rs2 : XReg) (s : State) : Host.Outcome State Fault Refusal :=
  .next (aluR (.mulhu rd rs1 rs2) rd rs1 rs2 mulhuWord s)
def execDiv (rd rs1 rs2 : XReg) (s : State) : Host.Outcome State Fault Refusal :=
  .next (aluR (.div rd rs1 rs2) rd rs1 rs2 divS s)
def execDivu (rd rs1 rs2 : XReg) (s : State) : Host.Outcome State Fault Refusal :=
  .next (aluR (.divu rd rs1 rs2) rd rs1 rs2 divU s)
def execRem (rd rs1 rs2 : XReg) (s : State) : Host.Outcome State Fault Refusal :=
  .next (aluR (.rem rd rs1 rs2) rd rs1 rs2 remS s)
def execRemu (rd rs1 rs2 : XReg) (s : State) : Host.Outcome State Fault Refusal :=
  .next (aluR (.remu rd rs1 rs2) rd rs1 rs2 remU s)
def execMulw (rd rs1 rs2 : XReg) (s : State) : Host.Outcome State Fault Refusal :=
  .next (aluR (.mulw rd rs1 rs2) rd rs1 rs2 (on32 (· * ·)) s)
def execDivw (rd rs1 rs2 : XReg) (s : State) : Host.Outcome State Fault Refusal :=
  .next (aluR (.divw rd rs1 rs2) rd rs1 rs2 (on32 divS) s)
def execDivuw (rd rs1 rs2 : XReg) (s : State) : Host.Outcome State Fault Refusal :=
  .next (aluR (.divuw rd rs1 rs2) rd rs1 rs2 (on32 divU) s)
def execRemw (rd rs1 rs2 : XReg) (s : State) : Host.Outcome State Fault Refusal :=
  .next (aluR (.remw rd rs1 rs2) rd rs1 rs2 (on32 remS) s)
def execRemuw (rd rs1 rs2 : XReg) (s : State) : Host.Outcome State Fault Refusal :=
  .next (aluR (.remuw rd rs1 rs2) rd rs1 rs2 (on32 remU) s)

/-! ### Loads and stores (R96, R199) -/

/-- A load of n bytes, sign- or zero-extended. -/
def load (i : Instr) (rd rs1 : XReg) (imm : BitVec 12) (n : Nat) (signed : Bool) (s : State) : State :=
  s.guard i [rs1] [rd] fun s =>
    s.load1 (s.x rs1 + imm.signExtend 64) n fun t v =>
      (t.writeX rd (if signed then (BitVec.ofNat (8 * n) v).signExtend 64 else BitVec.ofNat 64 v)).retire

def execLb (rd rs1 : XReg) (imm : BitVec 12) (s : State) : Host.Outcome State Fault Refusal :=
  .next (load (.lb rd rs1 imm) rd rs1 imm 1 true s)
def execLh (rd rs1 : XReg) (imm : BitVec 12) (s : State) : Host.Outcome State Fault Refusal :=
  .next (load (.lh rd rs1 imm) rd rs1 imm 2 true s)
def execLw (rd rs1 : XReg) (imm : BitVec 12) (s : State) : Host.Outcome State Fault Refusal :=
  .next (load (.lw rd rs1 imm) rd rs1 imm 4 true s)
def execLd (rd rs1 : XReg) (imm : BitVec 12) (s : State) : Host.Outcome State Fault Refusal :=
  .next (load (.ld rd rs1 imm) rd rs1 imm 8 true s)
def execLbu (rd rs1 : XReg) (imm : BitVec 12) (s : State) : Host.Outcome State Fault Refusal :=
  .next (load (.lbu rd rs1 imm) rd rs1 imm 1 false s)
def execLhu (rd rs1 : XReg) (imm : BitVec 12) (s : State) : Host.Outcome State Fault Refusal :=
  .next (load (.lhu rd rs1 imm) rd rs1 imm 2 false s)
def execLwu (rd rs1 : XReg) (imm : BitVec 12) (s : State) : Host.Outcome State Fault Refusal :=
  .next (load (.lwu rd rs1 imm) rd rs1 imm 4 false s)

/-- A store of the n low bytes of rs2. -/
def store (i : Instr) (rs2 rs1 : XReg) (imm : BitVec 12) (n : Nat) (s : State) : State :=
  s.guard i [rs1, rs2] [] fun s =>
    (s.hartStore [(s.x rs1 + imm.signExtend 64, n, (s.x rs2).toNat)]).andThen s fun t _ => t.retire

def execSb (rs2 rs1 : XReg) (imm : BitVec 12) (s : State) : Host.Outcome State Fault Refusal :=
  .next (store (.sb rs2 rs1 imm) rs2 rs1 imm 1 s)
def execSh (rs2 rs1 : XReg) (imm : BitVec 12) (s : State) : Host.Outcome State Fault Refusal :=
  .next (store (.sh rs2 rs1 imm) rs2 rs1 imm 2 s)
def execSw (rs2 rs1 : XReg) (imm : BitVec 12) (s : State) : Host.Outcome State Fault Refusal :=
  .next (store (.sw rs2 rs1 imm) rs2 rs1 imm 4 s)
def execSd (rs2 rs1 : XReg) (imm : BitVec 12) (s : State) : Host.Outcome State Fault Refusal :=
  .next (store (.sd rs2 rs1 imm) rs2 rs1 imm 8 s)

/-! ### Jumps and branches (R66) -/

/-- Goes to a target, or raises cause 0 with no effect where it is misaligned (R66). -/
def State.jump (s : State) (target : Word) (k : State → State) : State :=
  if target &&& 3 = 0 then (k s).retireTo target else s.trap 0 target

/-- The B-type offset from imm[12:1]. -/
def branchOff (imm : BitVec 12) : Word := (imm ++ 0#1).signExtend 64
/-- The J-type offset from imm[20:1]. -/
def jumpOff (imm : BitVec 20) : Word := (imm ++ 0#1).signExtend 64

def branch (i : Instr) (rs1 rs2 : XReg) (imm : BitVec 12) (p : Word → Word → Bool) (s : State) : State :=
  s.guard i [rs1, rs2] [] fun s =>
    if p (s.x rs1) (s.x rs2) then s.jump (s.core.h.pc + branchOff imm) id else s.retire

def execBeq (rs1 rs2 : XReg) (imm : BitVec 12) (s : State) : Host.Outcome State Fault Refusal :=
  .next (branch (.beq rs1 rs2 imm) rs1 rs2 imm (· == ·) s)
def execBne (rs1 rs2 : XReg) (imm : BitVec 12) (s : State) : Host.Outcome State Fault Refusal :=
  .next (branch (.bne rs1 rs2 imm) rs1 rs2 imm (· != ·) s)
def execBlt (rs1 rs2 : XReg) (imm : BitVec 12) (s : State) : Host.Outcome State Fault Refusal :=
  .next (branch (.blt rs1 rs2 imm) rs1 rs2 imm BitVec.slt s)
def execBge (rs1 rs2 : XReg) (imm : BitVec 12) (s : State) : Host.Outcome State Fault Refusal :=
  .next (branch (.bge rs1 rs2 imm) rs1 rs2 imm (fun a b => !a.slt b) s)
def execBltu (rs1 rs2 : XReg) (imm : BitVec 12) (s : State) : Host.Outcome State Fault Refusal :=
  .next (branch (.bltu rs1 rs2 imm) rs1 rs2 imm BitVec.ult s)
def execBgeu (rs1 rs2 : XReg) (imm : BitVec 12) (s : State) : Host.Outcome State Fault Refusal :=
  .next (branch (.bgeu rs1 rs2 imm) rs1 rs2 imm (fun a b => !a.ult b) s)

def execJal (rd : XReg) (imm : BitVec 20) (s : State) : Host.Outcome State Fault Refusal :=
  .next (s.guard (.jal rd imm) [] [rd] fun s =>
    let link := s.core.h.pc + 4
    s.jump (s.core.h.pc + jumpOff imm) fun s => s.writeX rd link)

def execJalr (rd rs1 : XReg) (imm : BitVec 12) (s : State) : Host.Outcome State Fault Refusal :=
  .next (s.guard (.jalr rd rs1 imm) [rs1] [rd] fun s =>
    let link := s.core.h.pc + 4
    s.jump ((s.x rs1 + imm.signExtend 64) &&& ~~~1) fun s => s.writeX rd link)

end Sys2Proof.Machine
end

