-- ==== Sys2Proof/Machine/Vector.lean ====
section
/-! DEFINITION. Vector arithmetic, conversions, compares, masks, compress, block and dot forms (R128 to R145, R153 to R156). -/
namespace Sys2Proof.Machine

/-! ### Elements and masks (R128 to R130) -/

/-- Element i of width w of a register. -/
def vElem (v : VWord) (w i : Nat) : Nat := v.toNat / 2 ^ (w * i) % 2 ^ w

/-- A register with element i of width w replaced. -/
def vPut (v : VWord) (w i x : Nat) : VWord :=
  (v &&& ~~~(BitVec.ofNat 512 (2 ^ w - 1) <<< (w * i))) ||| (BitVec.ofNat 512 (x % 2 ^ w) <<< (w * i))

/-- A register with the elements of a list of indices replaced. -/
def vMap (v : VWord) (w : Nat) (l : List Nat) (f : Nat → Nat) : VWord := l.foldl (fun v i => vPut v w i (f i)) v

/-- Active elements among n (R129). -/
def State.active (s : State) (km : KReg) (n : Nat) : List Nat :=
  (List.range n).filter fun i => (s.core.h.maskK km).getLsbD i

/-- Integer element width of a w code, and the number of elements (R80, R128). -/
def intWidth (w : BitVec 2) : Nat := 8 * 2 ^ w.toNat
def elemCount (width : Nat) : Nat := 512 / width

/-- Format of a w code (R80). -/
def vFmt (w : BitVec 2) : Fmt := if w = 0 then bf16 else if w = 1 then fp16 else if w = 2 then fp32 else fp64

def State.writeV (s : State) (r : VReg) (v : VWord) : State := s.mapHart fun h => h.putV r v
def State.writeK (s : State) (r : KReg) (v : Word) : State := s.mapHart fun h => h.putK r v

/-! ### Integer arithmetic (R135) -/

/-- A signed reading of a width's element. -/
def sgn (w x : Nat) : Int := (BitVec.ofNat w x).toInt
/-- The w low bits of an integer. -/
def lowBits (w : Nat) (x : Int) : Nat := (x % 2 ^ w).toNat

/-- An integer form: op takes the width and the elements of vs1 and vs2. -/
def vInt (w : BitVec 2) (km : KReg) (vd vs1 vs2 : VReg) (op : Nat → Nat → Nat → Nat) (s : State) : State :=
  let n := intWidth w
  (s.writeV vd (vMap (s.v vd) n (s.active km (elemCount n)) fun i => op n (vElem (s.v vs1) n i) (vElem (s.v vs2) n i))).retire

def execVadd (w : BitVec 2) (km : KReg) (vd vs1 vs2 : VReg) (s : State) : Host.Outcome State Fault Refusal :=
  .next (vInt w km vd vs1 vs2 (fun n a b => (a + b) % 2 ^ n) s)
def execVsub (w : BitVec 2) (km : KReg) (vd vs1 vs2 : VReg) (s : State) : Host.Outcome State Fault Refusal :=
  .next (vInt w km vd vs1 vs2 (fun n a b => (a + 2 ^ n - b) % 2 ^ n) s)
def execVmul (w : BitVec 2) (km : KReg) (vd vs1 vs2 : VReg) (s : State) : Host.Outcome State Fault Refusal :=
  .next (vInt w km vd vs1 vs2 (fun n a b => a * b % 2 ^ n) s)
def execVmulh (w : BitVec 2) (km : KReg) (vd vs1 vs2 : VReg) (s : State) : Host.Outcome State Fault Refusal :=
  .next (vInt w km vd vs1 vs2 (fun n a b => lowBits n (sgn n a * sgn n b / 2 ^ n)) s)
def execVmin (w : BitVec 2) (km : KReg) (vd vs1 vs2 : VReg) (s : State) : Host.Outcome State Fault Refusal :=
  .next (vInt w km vd vs1 vs2 (fun n a b => if sgn n b < sgn n a then b else a) s)
def execVminu (w : BitVec 2) (km : KReg) (vd vs1 vs2 : VReg) (s : State) : Host.Outcome State Fault Refusal :=
  .next (vInt w km vd vs1 vs2 (fun _ a b => min a b) s)
def execVmax (w : BitVec 2) (km : KReg) (vd vs1 vs2 : VReg) (s : State) : Host.Outcome State Fault Refusal :=
  .next (vInt w km vd vs1 vs2 (fun n a b => if sgn n a < sgn n b then b else a) s)
def execVmaxu (w : BitVec 2) (km : KReg) (vd vs1 vs2 : VReg) (s : State) : Host.Outcome State Fault Refusal :=
  .next (vInt w km vd vs1 vs2 (fun _ a b => max a b) s)
def execVand (w : BitVec 2) (km : KReg) (vd vs1 vs2 : VReg) (s : State) : Host.Outcome State Fault Refusal :=
  .next (vInt w km vd vs1 vs2 (fun _ a b => a &&& b) s)
def execVor (w : BitVec 2) (km : KReg) (vd vs1 vs2 : VReg) (s : State) : Host.Outcome State Fault Refusal :=
  .next (vInt w km vd vs1 vs2 (fun _ a b => a ||| b) s)
def execVxor (w : BitVec 2) (km : KReg) (vd vs1 vs2 : VReg) (s : State) : Host.Outcome State Fault Refusal :=
  .next (vInt w km vd vs1 vs2 (fun _ a b => a ^^^ b) s)
def execVsll (w : BitVec 2) (km : KReg) (vd vs1 vs2 : VReg) (s : State) : Host.Outcome State Fault Refusal :=
  .next (vInt w km vd vs1 vs2 (fun n a b => a * 2 ^ (b % n) % 2 ^ n) s)
def execVsrl (w : BitVec 2) (km : KReg) (vd vs1 vs2 : VReg) (s : State) : Host.Outcome State Fault Refusal :=
  .next (vInt w km vd vs1 vs2 (fun n a b => a / 2 ^ (b % n)) s)
def execVsra (w : BitVec 2) (km : KReg) (vd vs1 vs2 : VReg) (s : State) : Host.Outcome State Fault Refusal :=
  .next (vInt w km vd vs1 vs2 (fun n a b => lowBits n (sgn n a / 2 ^ (b % n))) s)

/-! ### Floating-point arithmetic (R132, R136 to R138) -/

/-- A floating-point form: op takes the elements of vs1, vs2 and the old vd. Its active elements' flags are ORed. -/
def vFloat (w : BitVec 2) (km : KReg) (vd vs1 vs2 : VReg) (op : Fmt → Rm → Nat → Nat → Nat → Nat × Flags) (s : State) : State :=
  let f := vFmt w
  let n := f.width
  let act := s.active km (elemCount n)
  let r (i : Nat) := op f s.core.g.frm (vElem (s.v vs1) n i) (vElem (s.v vs2) n i) (vElem (s.v vd) n i)
  ((s.writeV vd (vMap (s.v vd) n act fun i => (r i).1)).raise (joinFlags (act.map fun i => (r i).2))).retire

/-- The bits of x with the sign of y, inverted when inv holds (R137). -/
def signFrom (f : Fmt) (inv : Bool) (x y : Nat) : Nat :=
  x % 2 ^ (f.width - 1) + (if f.signOf y != inv then 2 ^ (f.width - 1) else 0)

def execVfadd (w : BitVec 2) (km : KReg) (vd vs1 vs2 : VReg) (s : State) : Host.Outcome State Fault Refusal :=
  .next (vFloat w km vd vs1 vs2 (fun f rm x y _ => f.add rm x y) s)
def execVfsub (w : BitVec 2) (km : KReg) (vd vs1 vs2 : VReg) (s : State) : Host.Outcome State Fault Refusal :=
  .next (vFloat w km vd vs1 vs2 (fun f rm x y _ => f.sub rm x y) s)
def execVfmul (w : BitVec 2) (km : KReg) (vd vs1 vs2 : VReg) (s : State) : Host.Outcome State Fault Refusal :=
  .next (vFloat w km vd vs1 vs2 (fun f rm x y _ => f.mul rm x y) s)
def execVfdiv (w : BitVec 2) (km : KReg) (vd vs1 vs2 : VReg) (s : State) : Host.Outcome State Fault Refusal :=
  .next (vFloat w km vd vs1 vs2 (fun f rm x y _ => f.div rm x y) s)
def execVfmin (w : BitVec 2) (km : KReg) (vd vs1 vs2 : VReg) (s : State) : Host.Outcome State Fault Refusal :=
  .next (vFloat w km vd vs1 vs2 (fun f _ x y _ => f.minmax false x y) s)
def execVfmax (w : BitVec 2) (km : KReg) (vd vs1 vs2 : VReg) (s : State) : Host.Outcome State Fault Refusal :=
  .next (vFloat w km vd vs1 vs2 (fun f _ x y _ => f.minmax true x y) s)
def execVfmadd (w : BitVec 2) (km : KReg) (vd vs1 vs2 : VReg) (s : State) : Host.Outcome State Fault Refusal :=
  .next (vFloat w km vd vs1 vs2 (fun f rm x y z => f.fma rm false false x y z) s)
def execVfmsub (w : BitVec 2) (km : KReg) (vd vs1 vs2 : VReg) (s : State) : Host.Outcome State Fault Refusal :=
  .next (vFloat w km vd vs1 vs2 (fun f rm x y z => f.fma rm false true x y z) s)
def execVfnmadd (w : BitVec 2) (km : KReg) (vd vs1 vs2 : VReg) (s : State) : Host.Outcome State Fault Refusal :=
  .next (vFloat w km vd vs1 vs2 (fun f rm x y z => f.fma rm true true x y z) s)
def execVfnmsub (w : BitVec 2) (km : KReg) (vd vs1 vs2 : VReg) (s : State) : Host.Outcome State Fault Refusal :=
  .next (vFloat w km vd vs1 vs2 (fun f rm x y z => f.fma rm true false x y z) s)
def execVfsgnj (w : BitVec 2) (km : KReg) (vd vs1 vs2 : VReg) (s : State) : Host.Outcome State Fault Refusal :=
  .next (vFloat w km vd vs1 vs2 (fun f _ x y _ => (signFrom f false x y, 0)) s)
def execVfsgnjn (w : BitVec 2) (km : KReg) (vd vs1 vs2 : VReg) (s : State) : Host.Outcome State Fault Refusal :=
  .next (vFloat w km vd vs1 vs2 (fun f _ x y _ => (signFrom f true x y, 0)) s)
def execVfsqrt (w : BitVec 2) (km : KReg) (vd vs1 : VReg) (s : State) : Host.Outcome State Fault Refusal :=
  .next (vFloat w km vd vs1 0 (fun f rm x _ _ => f.sqrt rm x) s)
def execVfclass (w : BitVec 2) (km : KReg) (vd vs1 : VReg) (s : State) : Host.Outcome State Fault Refusal :=
  .next (vFloat w km vd vs1 0 (fun f _ x _ _ => (f.classOf x, 0)) s)

/-! ### Conversions (R140 to R143) -/

/-- A conversion of elements that stand in widths src and dst: max of the two gives their number. -/
def vConvert (src dst : Nat) (km : KReg) (vd vs1 : VReg) (op : Nat → Nat × Flags) (s : State) : State :=
  let act := s.active km (elemCount (max src dst))
  let r (i : Nat) := op (vElem (s.v vs1) src i)
  ((s.writeV vd (vMap (s.v vd) dst act fun i => (r i).1)).raise (joinFlags (act.map fun i => (r i).2))).retire

def execVcvtf (w : BitVec 2) (km : KReg) (src : BitVec 2) (vd vs1 : VReg) (s : State) : Host.Outcome State Fault Refusal :=
  .next (vConvert (vFmt src).width (vFmt w).width km vd vs1 (cvtF (vFmt src) (vFmt w) s.core.g.frm) s)
def execVcvti (w : BitVec 2) (km : KReg) (vd vs1 : VReg) (s : State) : Host.Outcome State Fault Refusal :=
  let f := vFmt w
  .next (vConvert f.width f.width km vd vs1 (fun x => f.ofInt s.core.g.frm (sgn f.width x)) s)
def execVcvtx (w : BitVec 2) (km : KReg) (vd vs1 : VReg) (s : State) : Host.Outcome State Fault Refusal :=
  let f := vFmt w
  .next (vConvert f.width f.width km vd vs1 (fun x =>
    let r := f.toInt s.core.g.frm f.width x
    (lowBits f.width r.1, r.2)) s)

/-- Bits of a code of a tapered format in a register: bytes for T8, the packed form for T6 (R45, R142). -/
def Taper.bits (t : Taper) : Nat :=
  match t with
  | .t8 => 8
  | .t6 => 6
def taperOf (w : Nat) : Taper := if w = 0 then .t8 else .t6

def execVtenc (w : BitVec 1) (km : KReg) (p : BitVec 2) (vd vs1 : VReg) (s : State) : Host.Outcome State Fault Refusal :=
  let t := taperOf w.toNat
  let act := s.active km 16
  let r (j : Nat) := t.round s.core.g.top (fp32.decode (vElem (s.v vs1) 32 j))
  .next ((s.writeV vd (act.foldl (fun v j => vPut v t.bits (16 * p.toNat + j) (r j).1) (s.v vd))).raise
    (joinFlags (act.map fun j => (r j).2))).retire

/-- vtdec.l6 reads the entries of the code table that active codes select, as scratchpad loads (R143). -/
def vtdecLut (km : KReg) (p : Nat) (vd vs1 : VReg) (s : State) : State :=
  let act := s.active km 16
  let base : Word := s.core.g.codes.setWidth 64
  (s.readChecked (act.map fun j => (base + BitVec.ofNat 64 (2 * vElem (s.v vs1) 6 (16 * p + j)), 2))).andThen s fun t l =>
    let r := l.map (cvtF bf16 fp32 rne)
    ((t.writeV vd ((act.zip r).foldl (fun v q => vPut v 32 q.1 q.2.1) (s.v vd))).raise (joinFlags (r.map Prod.snd))).retire

def execVtdec (w : BitVec 2) (km : KReg) (p : BitVec 2) (vd vs1 : VReg) (s : State) : Host.Outcome State Fault Refusal :=
  .next (if w.toNat = 2 then vtdecLut km p.toNat vd vs1 s
    else
      let t := taperOf w.toNat
      (s.writeV vd (vMap (s.v vd) 32 (s.active km 16) fun j =>
        (fp32.round rne (t.decode s.core.g.top (vElem (s.v vs1) t.bits (16 * p.toNat + j)))).1)).retire)

def execVrepkPack (km : KReg) (p : BitVec 2) (vd vs1 : VReg) (s : State) : Host.Outcome State Fault Refusal :=
  .next (s.writeV vd ((s.active km 16).foldl (fun v j =>
    vPut v 6 (16 * p.toNat + j) (vElem (s.v vs1) 8 (16 * p.toNat + j))) (s.v vd))).retire
def execVrepkUnpk (km : KReg) (p : BitVec 2) (vd vs1 : VReg) (s : State) : Host.Outcome State Fault Refusal :=
  .next (s.writeV vd ((s.active km 16).foldl (fun v j =>
    vPut v 8 (16 * p.toNat + j) (vElem (s.v vs1) 6 (16 * p.toNat + j))) (s.v vd))).retire

/-! ### Compares and masks (R144, R145) -/

/-- A word whose set bits are those of a list. -/
def bitsOn (l : List Nat) : Word := BitVec.ofNat 64 (l.map fun i => 2 ^ i).sum

def vCompare (n : Nat) (km kd : KReg) (vs1 vs2 : VReg) (op : Nat → Nat → Bool × Flags) (s : State) : State :=
  let act := s.active km (elemCount n)
  let r (i : Nat) := op (vElem (s.v vs1) n i) (vElem (s.v vs2) n i)
  ((s.writeK kd (bitsOn (act.filter fun i => (r i).1))).raise (joinFlags (act.map fun i => (r i).2))).retire

def execVcmpeq (w : BitVec 2) (km : KReg) (kd : KReg) (vs1 vs2 : VReg) (s : State) : Host.Outcome State Fault Refusal :=
  .next (vCompare (intWidth w) km kd vs1 vs2 (fun a b => (a == b, 0)) s)
def execVcmplt (w : BitVec 2) (km : KReg) (kd : KReg) (vs1 vs2 : VReg) (s : State) : Host.Outcome State Fault Refusal :=
  .next (vCompare (intWidth w) km kd vs1 vs2 (fun a b => (decide (sgn (intWidth w) a < sgn (intWidth w) b), 0)) s)
def execVcmpltu (w : BitVec 2) (km : KReg) (kd : KReg) (vs1 vs2 : VReg) (s : State) : Host.Outcome State Fault Refusal :=
  .next (vCompare (intWidth w) km kd vs1 vs2 (fun a b => (decide (a < b), 0)) s)
def execVfcmpeq (w : BitVec 2) (km : KReg) (kd : KReg) (vs1 vs2 : VReg) (s : State) : Host.Outcome State Fault Refusal :=
  .next (vCompare (vFmt w).width km kd vs1 vs2 (vFmt w).eqv s)
def execVfcmplt (w : BitVec 2) (km : KReg) (kd : KReg) (vs1 vs2 : VReg) (s : State) : Host.Outcome State Fault Refusal :=
  .next (vCompare (vFmt w).width km kd vs1 vs2 (vFmt w).ltv s)
def execKand (kd ka kb : KReg) (s : State) : Host.Outcome State Fault Refusal :=
  .next (s.writeK kd (s.k ka &&& s.k kb)).retire
def execKor (kd ka kb : KReg) (s : State) : Host.Outcome State Fault Refusal :=
  .next (s.writeK kd (s.k ka ||| s.k kb)).retire
def execKxor (kd ka kb : KReg) (s : State) : Host.Outcome State Fault Refusal :=
  .next (s.writeK kd (s.k ka ^^^ s.k kb)).retire
def execKmv (kd : KReg) (rs1 : XReg) (s : State) : Host.Outcome State Fault Refusal :=
  .next (s.guard (.kmv kd rs1) [rs1] [] fun s => (s.writeK kd (s.x rs1)).retire)

/-! ### Compress (R153) -/

/-- Sort key of an element of n bits: its magnitude, NaN above every other value. -/
def compKey (w : BitVec 2) (top : Bool) (x : Nat) : Nat :=
  if w = 0 then if top && x == 0x80 then 0x80 else x % 0x80
  else
    let f := if w = 1 then bf16 else if w = 2 then fp16 else fp32
    if f.isNaN x then 2 ^ f.width else x % 2 ^ (f.width - 1)

/-- Offset of the first-ranked element of a list of keys with their offsets. -/
def firstRank (l : List (Nat × Nat)) : Nat :=
  (l.foldl (fun (best : Nat × Nat) p => if best.1 < p.1 then p else best) (l.headD (0, 0))).2

/-- The two first-ranked offsets of four keys, in rising order. -/
def twoRanks (keys : List Nat) : Nat × Nat :=
  let l := keys.zipIdx
  let a := firstRank l
  let b := firstRank (l.filter fun p => p.2 != a)
  (min a b, max a b)

def execVcomp24 (w : BitVec 2) (km : KReg) (vd : VReg) (kx : KReg) (vs1 : VReg) (s : State) :
    Host.Outcome State Fault Refusal :=
  let n := if w = 0 then 8 else if w = 3 then 32 else 16
  let cnt := elemCount n
  let src := s.v vs1
  let mask := s.core.h.maskK km
  let groups := (List.range (cnt / 4)).filter fun g => (List.range 4).all fun j => mask.getLsbD (4 * g + j)
  let pick (g : Nat) := twoRanks ((List.range 4).map fun j => compKey w s.core.g.top (vElem src n (4 * g + j)))
  let v := groups.foldl (fun v g =>
    vPut (vPut v n (2 * g) (vElem src n (4 * g + (pick g).1))) n (2 * g + 1) (vElem src n (4 * g + (pick g).2))) (s.v vd)
  let kv := groups.foldl (fun (k : Nat) g =>
    k - k / 2 ^ (4 * g) % 16 * 2 ^ (4 * g) + ((pick g).1 + 4 * (pick g).2) * 2 ^ (4 * g)) (s.k kx).toNat
  .next ((s.writeV vd (v.setWidth 256 |>.setWidth 512)).writeK kx (BitVec.ofNat 64 (kv % 2 ^ cnt))).retire

/-! ### Block add and requantise (R154, R155) -/

/-- Value of code i of a block under its scale byte; +0 in a zero-marked block. -/
def blockVal (t : Taper) (top : Bool) (v : VWord) (i : Nat) : Num :=
  let sc := vElem v 8 32
  if sc = 0xFF then .zero else (t.decode top (vElem v t.bits i)).scale ((sc : Int) - 127)

/-- The scale byte of the sums: from the largest finite non-zero magnitude. -/
def blockScale (t : Taper) (sums : List Num) : Nat :=
  let logs := sums.filterMap fun x => match x with
    | .fin _ m e => if m = 0 then none else some (floorLog2 m e)
    | _ => none
  match logs.max? with
  | none => 127
  | some l =>
    let q : Int := match t with
      | .t8 => 3
      | .t6 => 1
    (max 0 (min 254 (l - q + 127))).toNat

def execVbaq (w : BitVec 1) (km : KReg) (vd vs1 vs2 : VReg) (s : State) : Host.Outcome State Fault Refusal :=
  let t := taperOf w.toNat
  let top := s.core.g.top
  let act := s.active km 32
  let a (i : Nat) := blockVal t top (s.v vs1) i
  let b (i : Nat) := if act.contains i then blockVal t top (s.v vs2) i else .zero
  let sums := (List.range 32).map fun i => Num.add false (a i) (b i)
  let sc := blockScale t sums
  let out := sums.map fun x => t.round top (x.scale (127 - (sc : Int)))
  let zb := vElem (s.v vs1) 8 32 == 0xFF || (!act.isEmpty && vElem (s.v vs2) 8 32 == 0xFF)
  let v := out.zipIdx.foldl (fun v p => vPut v t.bits p.2 p.1.1) (0 : VWord)
  .next ((s.writeV vd (vPut v 8 32 sc)).raise (joinFlags (flagIf zb flagZB :: out.map Prod.snd))).retire

/-! ### Four-way dot product (R156) -/

/-- The T8 lane: the exact sum of four products, added to the lane with one rounding. -/
def dotLane (top : Bool) (rm : Rm) (z : Nat) (l : List (Nat × Nat)) : Nat × Flags :=
  let p := exactSum (l.map fun q => (Taper.t8.decode top q.1).mul (Taper.t8.decode top q.2))
  let a := fp32.decode z
  let t := Num.add (rm == 2) a p.1
  let r := fp32.round rm t
  (r.1, r.2 ||| flagIf (p.2 || fp32.isSNaN z || (t.isNaN && !a.isNaN && !p.1.isNaN)) flagNV)

/-- The byte lane, mod 2^32. -/
def dotBytes (z : Nat) (l : List (Nat × Nat)) : Nat :=
  lowBits 32 ((z : Int) + (l.map fun q => sgn 8 q.1 * sgn 8 q.2).foldl (· + ·) 0)

def execVdot4 (w : BitVec 1) (km : KReg) (vd vs1 vs2 : VReg) (s : State) : Host.Outcome State Fault Refusal :=
  let act := s.active km 16
  let quad (j : Nat) := (List.range 4).map fun q => (vElem (s.v vs1) 8 (4 * j + q), vElem (s.v vs2) 8 (4 * j + q))
  let r (j : Nat) : Nat × Flags :=
    if w = 1 then (dotBytes (vElem (s.v vd) 32 j) (quad j), 0)
    else dotLane s.core.g.top s.core.g.frm (vElem (s.v vd) 32 j) (quad j)
  .next ((s.writeV vd (vMap (s.v vd) 32 act fun j => (r j).1)).raise (joinFlags (act.map fun j => (r j).2))).retire

end Sys2Proof.Machine
end

