-- ==== Sys2Proof/Machine/VectorData.lean ====
section
/-! DEFINITION. Vector memory forms, permutes and reductions (R146 to R152). -/
namespace Sys2Proof.Machine

/-! ### Memory forms (R146 to R149) -/

/-- A vector load: the active elements at their addresses, every check first. -/
def vLoad (i : Instr) (w : BitVec 2) (km : KReg) (vd : VReg) (srcs : List XReg) (addr : State → Nat → Word) (s : State) :
    State :=
  s.guard i srcs [] fun s =>
    let n := intWidth w
    let act := s.active km (elemCount n)
    (s.hartLoad (act.map fun j => (addr s j, n / 8))).andThen s fun t l =>
      (t.writeV vd ((act.zip l).foldl (fun v q => vPut v n q.1 q.2) (s.v vd))).retire

/-- A vector store of the active elements; where elements overlap the highest-numbered wins. -/
def vStore (i : Instr) (w : BitVec 2) (km : KReg) (vs3 : VReg) (srcs : List XReg) (addr : State → Nat → Word) (s : State) :
    State :=
  s.guard i srcs [] fun s =>
    let n := intWidth w
    let act := s.active km (elemCount n)
    (s.hartStore (act.map fun j => (addr s j, n / 8, vElem (s.v vs3) n j))).andThen s fun t _ => t.retire

/-- Address of element j: consecutive, strided, indexed. -/
def unitAddr (w : BitVec 2) (rs1 : XReg) (s : State) (j : Nat) : Word := s.x rs1 + BitVec.ofNat 64 (intWidth w / 8 * j)
def strideAddr (rs1 rs2 : XReg) (s : State) (j : Nat) : Word := s.x rs1 + s.x rs2 * BitVec.ofNat 64 j
def indexAddr (w : BitVec 2) (rs1 : XReg) (vs2 : VReg) (s : State) (j : Nat) : Word :=
  s.x rs1 + BitVec.ofNat 64 (intWidth w / 8 * vElem (s.v vs2) (intWidth w) j)

def execVld (w : BitVec 2) (km : KReg) (vd : VReg) (rs1 : XReg) (s : State) : Host.Outcome State Fault Refusal :=
  .next (vLoad (.vld w km vd rs1) w km vd [rs1] (unitAddr w rs1) s)
def execVlds (w : BitVec 2) (km : KReg) (vd : VReg) (rs1 : XReg) (rs2 : XReg) (s : State) : Host.Outcome State Fault Refusal :=
  .next (vLoad (.vlds w km vd rs1 rs2) w km vd [rs1, rs2] (strideAddr rs1 rs2) s)
def execVldx (w : BitVec 2) (km : KReg) (vd : VReg) (rs1 : XReg) (vs2 : VReg) (s : State) : Host.Outcome State Fault Refusal :=
  .next (vLoad (.vldx w km vd rs1 vs2) w km vd [rs1] (indexAddr w rs1 vs2) s)
def execVst (w : BitVec 2) (km : KReg) (vs3 : VReg) (rs1 : XReg) (s : State) : Host.Outcome State Fault Refusal :=
  .next (vStore (.vst w km vs3 rs1) w km vs3 [rs1] (unitAddr w rs1) s)
def execVsts (w : BitVec 2) (km : KReg) (vs3 : VReg) (rs1 : XReg) (rs2 : XReg) (s : State) :
    Host.Outcome State Fault Refusal :=
  .next (vStore (.vsts w km vs3 rs1 rs2) w km vs3 [rs1, rs2] (strideAddr rs1 rs2) s)
def execVstx (w : BitVec 2) (km : KReg) (vs3 : VReg) (rs1 : XReg) (vs2 : VReg) (s : State) :
    Host.Outcome State Fault Refusal :=
  .next (vStore (.vstx w km vs3 rs1 vs2) w km vs3 [rs1] (indexAddr w rs1 vs2) s)

/-- vldb reads its element once; without an active element it reads nothing. -/
def execVldb (w : BitVec 2) (km : KReg) (vd : VReg) (rs1 : XReg) (s : State) : Host.Outcome State Fault Refusal :=
  .next (s.guard (.vldb w km vd rs1) [rs1] [] fun s =>
    let n := intWidth w
    match s.active km (elemCount n) with
    | [] => s.retire
    | j :: act => s.load1 (s.x rs1) (n / 8) fun t v => (t.writeV vd (vMap (s.v vd) n (j :: act) fun _ => v)).retire)

def execKst (ks : KReg) (rs1 : XReg) (s : State) : Host.Outcome State Fault Refusal :=
  .next (s.guard (.kst ks rs1) [rs1] [] fun s =>
    (s.hartStore [(s.x rs1, 8, (s.k ks).toNat)]).andThen s fun t _ => t.retire)

/-! ### Permutes (R151) -/

/-- A permute: f gives active element i from the number of elements and the elements of vs1 and vs2. -/
def vPerm (w : BitVec 2) (km : KReg) (vd vs1 vs2 : VReg) (f : Nat → (Nat → Nat) → (Nat → Nat) → Nat → Nat) (s : State) :
    State :=
  let n := intWidth w
  let cnt := elemCount n
  (s.writeV vd (vMap (s.v vd) n (s.active km cnt) (f cnt (vElem (s.v vs1) n) (vElem (s.v vs2) n)))).retire

def execVperm (w : BitVec 2) (km : KReg) (vd vs1 vs2 : VReg) (s : State) : Host.Outcome State Fault Refusal :=
  .next (vPerm w km vd vs1 vs2 (fun n a b i => if b i < n then a (b i) else 0) s)
def execVzip (w : BitVec 2) (km : KReg) (vd vs1 vs2 : VReg) (s : State) : Host.Outcome State Fault Refusal :=
  .next (vPerm w km vd vs1 vs2 (fun _ a b i => if i % 2 = 0 then a (i / 2) else b (i / 2)) s)
def execVuzp (w : BitVec 2) (km : KReg) (vd vs1 vs2 : VReg) (s : State) : Host.Outcome State Fault Refusal :=
  .next (vPerm w km vd vs1 vs2 (fun n a b i => if i < n / 2 then a (2 * i) else b (2 * i - n)) s)
def execVslup (w : BitVec 2) (km : KReg) (vd vs1 : VReg) (rs2 : XReg) (s : State) : Host.Outcome State Fault Refusal :=
  .next (s.guard (.vslup w km vd vs1 rs2) [rs2] [] fun s =>
    vPerm w km vd vs1 vs1 (fun _ a _ i => if (s.x rs2).toNat ≤ i then a (i - (s.x rs2).toNat) else 0) s)
def execVsldn (w : BitVec 2) (km : KReg) (vd vs1 : VReg) (rs2 : XReg) (s : State) : Host.Outcome State Fault Refusal :=
  .next (s.guard (.vsldn w km vd vs1 rs2) [rs2] [] fun s =>
    vPerm w km vd vs1 vs1 (fun n a _ i => if i + (s.x rs2).toNat < n then a (i + (s.x rs2).toNat) else 0) s)
def execVsplat (w : BitVec 2) (km : KReg) (vd : VReg) (rs1 : XReg) (s : State) : Host.Outcome State Fault Refusal :=
  .next (s.guard (.vsplat w km vd rs1) [rs1] [] fun s => vPerm w km vd vd vd (fun _ _ _ _ => (s.x rs1).toNat) s)

/-! ### Reductions (R63, R152) -/

/-- One level of the tree: adjacent lanes combined, absent lanes passed over. -/
def pairUp (op : Nat → Nat → Nat × Flags) (l : List (Option Nat)) : List (Option Nat) × Flags :=
  match l with
  | a :: b :: t =>
    let r := pairUp op t
    match a, b with
    | some x, some y => (some (op x y).1 :: r.1, (op x y).2 ||| r.2)
    | some x, none => (some x :: r.1, r.2)
    | none, c => (c :: r.1, r.2)
  | rest => (rest, 0)

/-- ReduceTree's levels; n bounds them. -/
def reduceLevels (op : Nat → Nat → Nat × Flags) (l : List (Option Nat)) (n : Nat) : Option Nat × Flags :=
  match n with
  | 0 => (l.headD none, 0)
  | k + 1 =>
    match l with
    | [x] => (x, 0)
    | _ =>
      let r := pairUp op l
      let t := reduceLevels op r.1 k
      (t.1, r.2 ||| t.2)

/-- A reduction: the tree over the active elements, the start value last; ext widens the result. -/
def vReduce (i : Instr) (n : Nat) (km : KReg) (rd : XReg) (vs1 : VReg) (rs2 : XReg) (op : Nat → Nat → Nat × Flags)
    (ext : Nat → Word) (s : State) : State :=
  s.guard i [rs2] [rd] fun s =>
    let act := s.active km (elemCount n)
    let start := (s.x rs2).toNat % 2 ^ n
    let r := reduceLevels op ((List.range (elemCount n)).map fun j =>
      if act.contains j then some (vElem (s.v vs1) n j) else none) 7
    let t : Nat × Flags := match r.1 with
      | none => (start, 0)
      | some v => op start v
    ((s.writeX rd (ext t.1)).raise (r.2 ||| t.2)).retire

def execVredadd (w : BitVec 2) (km : KReg) (rd : XReg) (vs1 : VReg) (rs2 : XReg) (s : State) :
    Host.Outcome State Fault Refusal :=
  let n := intWidth w
  .next (vReduce (.vredadd w km rd vs1 rs2) n km rd vs1 rs2 (fun a b => ((a + b) % 2 ^ n, 0))
    (fun v => BitVec.ofInt 64 (sgn n v)) s)
def execVfredadd (w : BitVec 2) (km : KReg) (rd : XReg) (vs1 : VReg) (rs2 : XReg) (s : State) :
    Host.Outcome State Fault Refusal :=
  let f := vFmt w
  .next (vReduce (.vfredadd w km rd vs1 rs2) f.width km rd vs1 rs2 (f.add s.core.g.frm) (BitVec.ofNat 64) s)
def execVfredmax (w : BitVec 2) (km : KReg) (rd : XReg) (vs1 : VReg) (rs2 : XReg) (s : State) :
    Host.Outcome State Fault Refusal :=
  let f := vFmt w
  .next (vReduce (.vfredmax w km rd vs1 rs2) f.width km rd vs1 rs2 (f.minmax true) (BitVec.ofNat 64) s)

end Sys2Proof.Machine
end

