-- ==== Sys2Proof/Machine/Dispatch.lean ====
section
/-! DEFINITION. exec: the meaning of each instruction and event, one arm per constructor. -/
namespace Sys2Proof.Machine

def exec (i : Instr) (s : State) : Host.Outcome State Fault Refusal :=
  match i with
  | .lb rd rs1 imm => Sys2Proof.Machine.execLb rd rs1 imm s
  | .lh rd rs1 imm => Sys2Proof.Machine.execLh rd rs1 imm s
  | .lw rd rs1 imm => Sys2Proof.Machine.execLw rd rs1 imm s
  | .ld rd rs1 imm => Sys2Proof.Machine.execLd rd rs1 imm s
  | .lbu rd rs1 imm => Sys2Proof.Machine.execLbu rd rs1 imm s
  | .lhu rd rs1 imm => Sys2Proof.Machine.execLhu rd rs1 imm s
  | .lwu rd rs1 imm => Sys2Proof.Machine.execLwu rd rs1 imm s
  | .sb rs2 rs1 imm => Sys2Proof.Machine.execSb rs2 rs1 imm s
  | .sh rs2 rs1 imm => Sys2Proof.Machine.execSh rs2 rs1 imm s
  | .sw rs2 rs1 imm => Sys2Proof.Machine.execSw rs2 rs1 imm s
  | .sd rs2 rs1 imm => Sys2Proof.Machine.execSd rs2 rs1 imm s
  | .addi rd rs1 imm => Sys2Proof.Machine.execAddi rd rs1 imm s
  | .slti rd rs1 imm => Sys2Proof.Machine.execSlti rd rs1 imm s
  | .sltiu rd rs1 imm => Sys2Proof.Machine.execSltiu rd rs1 imm s
  | .xori rd rs1 imm => Sys2Proof.Machine.execXori rd rs1 imm s
  | .ori rd rs1 imm => Sys2Proof.Machine.execOri rd rs1 imm s
  | .andi rd rs1 imm => Sys2Proof.Machine.execAndi rd rs1 imm s
  | .slli rd rs1 sh => Sys2Proof.Machine.execSlli rd rs1 sh s
  | .srli rd rs1 sh => Sys2Proof.Machine.execSrli rd rs1 sh s
  | .srai rd rs1 sh => Sys2Proof.Machine.execSrai rd rs1 sh s
  | .auipc rd imm => Sys2Proof.Machine.execAuipc rd imm s
  | .addiw rd rs1 imm => Sys2Proof.Machine.execAddiw rd rs1 imm s
  | .slliw rd rs1 sh => Sys2Proof.Machine.execSlliw rd rs1 sh s
  | .srliw rd rs1 sh => Sys2Proof.Machine.execSrliw rd rs1 sh s
  | .sraiw rd rs1 sh => Sys2Proof.Machine.execSraiw rd rs1 sh s
  | .amoswapW aq rl rd rs1 rs2 => Sys2Proof.Machine.execAmoswapW aq rl rd rs1 rs2 s
  | .amoaddW aq rl rd rs1 rs2 => Sys2Proof.Machine.execAmoaddW aq rl rd rs1 rs2 s
  | .amoxorW aq rl rd rs1 rs2 => Sys2Proof.Machine.execAmoxorW aq rl rd rs1 rs2 s
  | .amoandW aq rl rd rs1 rs2 => Sys2Proof.Machine.execAmoandW aq rl rd rs1 rs2 s
  | .amoorW aq rl rd rs1 rs2 => Sys2Proof.Machine.execAmoorW aq rl rd rs1 rs2 s
  | .amominW aq rl rd rs1 rs2 => Sys2Proof.Machine.execAmominW aq rl rd rs1 rs2 s
  | .amomaxW aq rl rd rs1 rs2 => Sys2Proof.Machine.execAmomaxW aq rl rd rs1 rs2 s
  | .amominuW aq rl rd rs1 rs2 => Sys2Proof.Machine.execAmominuW aq rl rd rs1 rs2 s
  | .amomaxuW aq rl rd rs1 rs2 => Sys2Proof.Machine.execAmomaxuW aq rl rd rs1 rs2 s
  | .lrW aq rl rd rs1 => Sys2Proof.Machine.execLrW aq rl rd rs1 s
  | .scW aq rl rd rs1 rs2 => Sys2Proof.Machine.execScW aq rl rd rs1 rs2 s
  | .amoswapD aq rl rd rs1 rs2 => Sys2Proof.Machine.execAmoswapD aq rl rd rs1 rs2 s
  | .amoaddD aq rl rd rs1 rs2 => Sys2Proof.Machine.execAmoaddD aq rl rd rs1 rs2 s
  | .amoxorD aq rl rd rs1 rs2 => Sys2Proof.Machine.execAmoxorD aq rl rd rs1 rs2 s
  | .amoandD aq rl rd rs1 rs2 => Sys2Proof.Machine.execAmoandD aq rl rd rs1 rs2 s
  | .amoorD aq rl rd rs1 rs2 => Sys2Proof.Machine.execAmoorD aq rl rd rs1 rs2 s
  | .amominD aq rl rd rs1 rs2 => Sys2Proof.Machine.execAmominD aq rl rd rs1 rs2 s
  | .amomaxD aq rl rd rs1 rs2 => Sys2Proof.Machine.execAmomaxD aq rl rd rs1 rs2 s
  | .amominuD aq rl rd rs1 rs2 => Sys2Proof.Machine.execAmominuD aq rl rd rs1 rs2 s
  | .amomaxuD aq rl rd rs1 rs2 => Sys2Proof.Machine.execAmomaxuD aq rl rd rs1 rs2 s
  | .lrD aq rl rd rs1 => Sys2Proof.Machine.execLrD aq rl rd rs1 s
  | .scD aq rl rd rs1 rs2 => Sys2Proof.Machine.execScD aq rl rd rs1 rs2 s
  | .add rd rs1 rs2 => Sys2Proof.Machine.execAdd rd rs1 rs2 s
  | .sub rd rs1 rs2 => Sys2Proof.Machine.execSub rd rs1 rs2 s
  | .sll rd rs1 rs2 => Sys2Proof.Machine.execSll rd rs1 rs2 s
  | .slt rd rs1 rs2 => Sys2Proof.Machine.execSlt rd rs1 rs2 s
  | .sltu rd rs1 rs2 => Sys2Proof.Machine.execSltu rd rs1 rs2 s
  | .xor rd rs1 rs2 => Sys2Proof.Machine.execXor rd rs1 rs2 s
  | .srl rd rs1 rs2 => Sys2Proof.Machine.execSrl rd rs1 rs2 s
  | .sra rd rs1 rs2 => Sys2Proof.Machine.execSra rd rs1 rs2 s
  | .or rd rs1 rs2 => Sys2Proof.Machine.execOr rd rs1 rs2 s
  | .and rd rs1 rs2 => Sys2Proof.Machine.execAnd rd rs1 rs2 s
  | .mul rd rs1 rs2 => Sys2Proof.Machine.execMul rd rs1 rs2 s
  | .mulh rd rs1 rs2 => Sys2Proof.Machine.execMulh rd rs1 rs2 s
  | .mulhsu rd rs1 rs2 => Sys2Proof.Machine.execMulhsu rd rs1 rs2 s
  | .mulhu rd rs1 rs2 => Sys2Proof.Machine.execMulhu rd rs1 rs2 s
  | .div rd rs1 rs2 => Sys2Proof.Machine.execDiv rd rs1 rs2 s
  | .divu rd rs1 rs2 => Sys2Proof.Machine.execDivu rd rs1 rs2 s
  | .rem rd rs1 rs2 => Sys2Proof.Machine.execRem rd rs1 rs2 s
  | .remu rd rs1 rs2 => Sys2Proof.Machine.execRemu rd rs1 rs2 s
  | .lui rd imm => Sys2Proof.Machine.execLui rd imm s
  | .addw rd rs1 rs2 => Sys2Proof.Machine.execAddw rd rs1 rs2 s
  | .subw rd rs1 rs2 => Sys2Proof.Machine.execSubw rd rs1 rs2 s
  | .sllw rd rs1 rs2 => Sys2Proof.Machine.execSllw rd rs1 rs2 s
  | .srlw rd rs1 rs2 => Sys2Proof.Machine.execSrlw rd rs1 rs2 s
  | .sraw rd rs1 rs2 => Sys2Proof.Machine.execSraw rd rs1 rs2 s
  | .mulw rd rs1 rs2 => Sys2Proof.Machine.execMulw rd rs1 rs2 s
  | .divw rd rs1 rs2 => Sys2Proof.Machine.execDivw rd rs1 rs2 s
  | .divuw rd rs1 rs2 => Sys2Proof.Machine.execDivuw rd rs1 rs2 s
  | .remw rd rs1 rs2 => Sys2Proof.Machine.execRemw rd rs1 rs2 s
  | .remuw rd rs1 rs2 => Sys2Proof.Machine.execRemuw rd rs1 rs2 s
  | .beq rs1 rs2 imm => Sys2Proof.Machine.execBeq rs1 rs2 imm s
  | .bne rs1 rs2 imm => Sys2Proof.Machine.execBne rs1 rs2 imm s
  | .blt rs1 rs2 imm => Sys2Proof.Machine.execBlt rs1 rs2 imm s
  | .bge rs1 rs2 imm => Sys2Proof.Machine.execBge rs1 rs2 imm s
  | .bltu rs1 rs2 imm => Sys2Proof.Machine.execBltu rs1 rs2 imm s
  | .bgeu rs1 rs2 imm => Sys2Proof.Machine.execBgeu rs1 rs2 imm s
  | .jalr rd rs1 imm => Sys2Proof.Machine.execJalr rd rs1 imm s
  | .jal rd imm => Sys2Proof.Machine.execJal rd imm s
  | .csrrw rd csr rs1 => Sys2Proof.Machine.execCsrrw rd csr rs1 s
  | .csrrs rd csr rs1 => Sys2Proof.Machine.execCsrrs rd csr rs1 s
  | .csrrc rd csr rs1 => Sys2Proof.Machine.execCsrrc rd csr rs1 s
  | .csrrwi rd csr zimm => Sys2Proof.Machine.execCsrrwi rd csr zimm s
  | .csrrsi rd csr zimm => Sys2Proof.Machine.execCsrrsi rd csr zimm s
  | .csrrci rd csr zimm => Sys2Proof.Machine.execCsrrci rd csr zimm s
  | .sfenceVma rs1 rs2 => Sys2Proof.Machine.execSfenceVma rs1 rs2 s
  | .taskChain rs1 => Sys2Proof.Machine.execTaskChain rs1 s
  | .taskSpawn rl scope rs1 => Sys2Proof.Machine.execTaskSpawn rl scope rs1 s
  | .taskJoin rs1 => Sys2Proof.Machine.execTaskJoin rs1 s
  | .msgSend rl scope rs1 rs2 => Sys2Proof.Machine.execMsgSend rl scope rs1 rs2 s
  | .msgSendl rl scope rs1 rs2 => Sys2Proof.Machine.execMsgSendl rl scope rs1 rs2 s
  | .msgReply rl scope rs1 rs2 => Sys2Proof.Machine.execMsgReply rl scope rs1 rs2 s
  | .msgFwd rl scope rs1 rs2 => Sys2Proof.Machine.execMsgFwd rl scope rs1 rs2 s
  | .capMint rd rs1 rs2 => Sys2Proof.Machine.execCapMint rd rs1 rs2 s
  | .capNarrow rd rs1 rs2 => Sys2Proof.Machine.execCapNarrow rd rs1 rs2 s
  | .capCheck rd rs1 rs2 => Sys2Proof.Machine.execCapCheck rd rs1 rs2 s
  | .rcvPreserve rs1 => Sys2Proof.Machine.execRcvPreserve rs1 s
  | .txnBegin rs1 => Sys2Proof.Machine.execTxnBegin rs1 s
  | .txnElse rs1 => Sys2Proof.Machine.execTxnElse rs1 s
  | .sysHalt rs1 => Sys2Proof.Machine.execSysHalt rs1 s
  | .sysResume rs1 => Sys2Proof.Machine.execSysResume rs1 s
  | .sysInspect rd rs1 rs2 => Sys2Proof.Machine.execSysInspect rd rs1 rs2 s
  | .sysScan rd rs1 => Sys2Proof.Machine.execSysScan rd rs1 s
  | .sysSig rd rs1 => Sys2Proof.Machine.execSysSig rd rs1 s
  | .sysRemap rs1 rs2 => Sys2Proof.Machine.execSysRemap rs1 rs2 s
  | .sysInject rs1 rs2 => Sys2Proof.Machine.execSysInject rs1 rs2 s
  | .feLd o rd rs1 => Sys2Proof.Machine.execFeLd o rd rs1 s
  | .feLdk o rd rs1 => Sys2Proof.Machine.execFeLdk o rd rs1 s
  | .feSt o rs1 rs2 => Sys2Proof.Machine.execFeSt o rs1 rs2 s
  | .feStf o rs1 rs2 => Sys2Proof.Machine.execFeStf o rs1 rs2 s
  | .feClr o rs1 => Sys2Proof.Machine.execFeClr o rs1 s
  | .feTest o rd rs1 => Sys2Proof.Machine.execFeTest o rd rs1 s
  | .edgePut rl scope rs1 rs2 => Sys2Proof.Machine.execEdgePut rl scope rs1 rs2 s
  | .edgePutv rl scope rs1 vs2 => Sys2Proof.Machine.execEdgePutv rl scope rs1 vs2 s
  | .edgeDone rl scope rs1 => Sys2Proof.Machine.execEdgeDone rl scope rs1 s
  | .strSample rd rs1 => Sys2Proof.Machine.execStrSample rd rs1 s
  | .engWr rs1 rs2 => Sys2Proof.Machine.execEngWr rs1 rs2 s
  | .engRd rd rs1 => Sys2Proof.Machine.execEngRd rd rs1 s
  | .engSwap rd rs1 rs2 => Sys2Proof.Machine.execEngSwap rd rs1 rs2 s
  | .mxMma o rd zc => Sys2Proof.Machine.execMxMma o rd zc s
  | .mxMmac o rd zc za => Sys2Proof.Machine.execMxMmac o rd zc za s
  | .mxStore o rd zc => Sys2Proof.Machine.execMxStore o rd zc s
  | .cpGo o rd rs1 rs2 => Sys2Proof.Machine.execCpGo o rd rs1 rs2 s
  | .cpGomx o rd rs1 rs2 => Sys2Proof.Machine.execCpGomx o rd rs1 rs2 s
  | .cpGath o rd rs1 rs2 => Sys2Proof.Machine.execCpGath o rd rs1 rs2 s
  | .cpScat o rd rs1 rs2 => Sys2Proof.Machine.execCpScat o rd rs1 rs2 s
  | .layGo o rd rs1 rs2 => Sys2Proof.Machine.execLayGo o rd rs1 rs2 s
  | .dramReq o rd rs1 rs2 => Sys2Proof.Machine.execDramReq o rd rs1 rs2 s
  | .dramReqv o rd rs1 vs2 => Sys2Proof.Machine.execDramReqv o rd rs1 vs2 s
  | .barArrive o rd rs1 => Sys2Proof.Machine.execBarArrive o rd rs1 s
  | .barJoin o rd rs1 => Sys2Proof.Machine.execBarJoin o rd rs1 s
  | .barLeave o rs1 => Sys2Proof.Machine.execBarLeave o rs1 s
  | .barPhase o rd rs1 => Sys2Proof.Machine.execBarPhase o rd rs1 s
  | .nbAddD o rd rs1 rs2 => Sys2Proof.Machine.execNbAddD o rd rs1 rs2 s
  | .nbAddW o rd rs1 rs2 => Sys2Proof.Machine.execNbAddW o rd rs1 rs2 s
  | .nbAddfD o rd rs1 rs2 => Sys2Proof.Machine.execNbAddfD o rd rs1 rs2 s
  | .nbAddfW o rd rs1 rs2 => Sys2Proof.Machine.execNbAddfW o rd rs1 rs2 s
  | .nbFaddD o rd rs1 rs2 => Sys2Proof.Machine.execNbFaddD o rd rs1 rs2 s
  | .nbFaddW o rd rs1 rs2 => Sys2Proof.Machine.execNbFaddW o rd rs1 rs2 s
  | .nbMinD o rs1 rs2 => Sys2Proof.Machine.execNbMinD o rs1 rs2 s
  | .nbMinW o rs1 rs2 => Sys2Proof.Machine.execNbMinW o rs1 rs2 s
  | .nbMaxD o rs1 rs2 => Sys2Proof.Machine.execNbMaxD o rs1 rs2 s
  | .nbMaxW o rs1 rs2 => Sys2Proof.Machine.execNbMaxW o rs1 rs2 s
  | .nbMinuD o rs1 rs2 => Sys2Proof.Machine.execNbMinuD o rs1 rs2 s
  | .nbMinuW o rs1 rs2 => Sys2Proof.Machine.execNbMinuW o rs1 rs2 s
  | .nbMaxuD o rs1 rs2 => Sys2Proof.Machine.execNbMaxuD o rs1 rs2 s
  | .nbMaxuW o rs1 rs2 => Sys2Proof.Machine.execNbMaxuW o rs1 rs2 s
  | .nbFminD o rs1 rs2 => Sys2Proof.Machine.execNbFminD o rs1 rs2 s
  | .nbFminW o rs1 rs2 => Sys2Proof.Machine.execNbFminW o rs1 rs2 s
  | .nbFmaxD o rs1 rs2 => Sys2Proof.Machine.execNbFmaxD o rs1 rs2 s
  | .nbFmaxW o rs1 rs2 => Sys2Proof.Machine.execNbFmaxW o rs1 rs2 s
  | .nbAndD o rs1 rs2 => Sys2Proof.Machine.execNbAndD o rs1 rs2 s
  | .nbAndW o rs1 rs2 => Sys2Proof.Machine.execNbAndW o rs1 rs2 s
  | .nbOrD o rs1 rs2 => Sys2Proof.Machine.execNbOrD o rs1 rs2 s
  | .nbOrW o rs1 rs2 => Sys2Proof.Machine.execNbOrW o rs1 rs2 s
  | .nbXorD o rs1 rs2 => Sys2Proof.Machine.execNbXorD o rs1 rs2 s
  | .nbXorW o rs1 rs2 => Sys2Proof.Machine.execNbXorW o rs1 rs2 s
  | .nbSwapD o rd rs1 rs2 => Sys2Proof.Machine.execNbSwapD o rd rs1 rs2 s
  | .nbSwapW o rd rs1 rs2 => Sys2Proof.Machine.execNbSwapW o rd rs1 rs2 s
  | .nbCasD o rd rs1 rs2 => Sys2Proof.Machine.execNbCasD o rd rs1 rs2 s
  | .nbCasW o rd rs1 rs2 => Sys2Proof.Machine.execNbCasW o rd rs1 rs2 s
  | .nbVaddD o rs1 rs2 => Sys2Proof.Machine.execNbVaddD o rs1 rs2 s
  | .nbVaddW o rs1 rs2 => Sys2Proof.Machine.execNbVaddW o rs1 rs2 s
  | .nbVfaddD o rs1 rs2 => Sys2Proof.Machine.execNbVfaddD o rs1 rs2 s
  | .nbVfaddW o rs1 rs2 => Sys2Proof.Machine.execNbVfaddW o rs1 rs2 s
  | .nbVfminD o rs1 rs2 => Sys2Proof.Machine.execNbVfminD o rs1 rs2 s
  | .nbVfminW o rs1 rs2 => Sys2Proof.Machine.execNbVfminW o rs1 rs2 s
  | .nbVfmaxD o rs1 rs2 => Sys2Proof.Machine.execNbVfmaxD o rs1 rs2 s
  | .nbVfmaxW o rs1 rs2 => Sys2Proof.Machine.execNbVfmaxW o rs1 rs2 s
  | .nbVandD o rs1 rs2 => Sys2Proof.Machine.execNbVandD o rs1 rs2 s
  | .nbVandW o rs1 rs2 => Sys2Proof.Machine.execNbVandW o rs1 rs2 s
  | .nbVorD o rs1 rs2 => Sys2Proof.Machine.execNbVorD o rs1 rs2 s
  | .nbVorW o rs1 rs2 => Sys2Proof.Machine.execNbVorW o rs1 rs2 s
  | .nbVxorD o rs1 rs2 => Sys2Proof.Machine.execNbVxorD o rs1 rs2 s
  | .nbVxorW o rs1 rs2 => Sys2Proof.Machine.execNbVxorW o rs1 rs2 s
  | .vadd w km vd vs1 vs2 => Sys2Proof.Machine.execVadd w km vd vs1 vs2 s
  | .vsub w km vd vs1 vs2 => Sys2Proof.Machine.execVsub w km vd vs1 vs2 s
  | .vmul w km vd vs1 vs2 => Sys2Proof.Machine.execVmul w km vd vs1 vs2 s
  | .vmulh w km vd vs1 vs2 => Sys2Proof.Machine.execVmulh w km vd vs1 vs2 s
  | .vmin w km vd vs1 vs2 => Sys2Proof.Machine.execVmin w km vd vs1 vs2 s
  | .vminu w km vd vs1 vs2 => Sys2Proof.Machine.execVminu w km vd vs1 vs2 s
  | .vmax w km vd vs1 vs2 => Sys2Proof.Machine.execVmax w km vd vs1 vs2 s
  | .vmaxu w km vd vs1 vs2 => Sys2Proof.Machine.execVmaxu w km vd vs1 vs2 s
  | .vand w km vd vs1 vs2 => Sys2Proof.Machine.execVand w km vd vs1 vs2 s
  | .vor w km vd vs1 vs2 => Sys2Proof.Machine.execVor w km vd vs1 vs2 s
  | .vxor w km vd vs1 vs2 => Sys2Proof.Machine.execVxor w km vd vs1 vs2 s
  | .vsll w km vd vs1 vs2 => Sys2Proof.Machine.execVsll w km vd vs1 vs2 s
  | .vsrl w km vd vs1 vs2 => Sys2Proof.Machine.execVsrl w km vd vs1 vs2 s
  | .vsra w km vd vs1 vs2 => Sys2Proof.Machine.execVsra w km vd vs1 vs2 s
  | .vfadd w km vd vs1 vs2 => Sys2Proof.Machine.execVfadd w km vd vs1 vs2 s
  | .vfsub w km vd vs1 vs2 => Sys2Proof.Machine.execVfsub w km vd vs1 vs2 s
  | .vfmul w km vd vs1 vs2 => Sys2Proof.Machine.execVfmul w km vd vs1 vs2 s
  | .vfdiv w km vd vs1 vs2 => Sys2Proof.Machine.execVfdiv w km vd vs1 vs2 s
  | .vfsqrt w km vd vs1 => Sys2Proof.Machine.execVfsqrt w km vd vs1 s
  | .vfmin w km vd vs1 vs2 => Sys2Proof.Machine.execVfmin w km vd vs1 vs2 s
  | .vfmax w km vd vs1 vs2 => Sys2Proof.Machine.execVfmax w km vd vs1 vs2 s
  | .vfmadd w km vd vs1 vs2 => Sys2Proof.Machine.execVfmadd w km vd vs1 vs2 s
  | .vfmsub w km vd vs1 vs2 => Sys2Proof.Machine.execVfmsub w km vd vs1 vs2 s
  | .vfnmadd w km vd vs1 vs2 => Sys2Proof.Machine.execVfnmadd w km vd vs1 vs2 s
  | .vfnmsub w km vd vs1 vs2 => Sys2Proof.Machine.execVfnmsub w km vd vs1 vs2 s
  | .vfsgnj w km vd vs1 vs2 => Sys2Proof.Machine.execVfsgnj w km vd vs1 vs2 s
  | .vfsgnjn w km vd vs1 vs2 => Sys2Proof.Machine.execVfsgnjn w km vd vs1 vs2 s
  | .vfclass w km vd vs1 => Sys2Proof.Machine.execVfclass w km vd vs1 s
  | .vcomp24 w km vd kx vs1 => Sys2Proof.Machine.execVcomp24 w km vd kx vs1 s
  | .vbaq w km vd vs1 vs2 => Sys2Proof.Machine.execVbaq w km vd vs1 vs2 s
  | .vdot4 w km vd vs1 vs2 => Sys2Proof.Machine.execVdot4 w km vd vs1 vs2 s
  | .vcvtf w km src vd vs1 => Sys2Proof.Machine.execVcvtf w km src vd vs1 s
  | .vcvti w km vd vs1 => Sys2Proof.Machine.execVcvti w km vd vs1 s
  | .vcvtx w km vd vs1 => Sys2Proof.Machine.execVcvtx w km vd vs1 s
  | .vtenc w km p vd vs1 => Sys2Proof.Machine.execVtenc w km p vd vs1 s
  | .vtdec w km p vd vs1 => Sys2Proof.Machine.execVtdec w km p vd vs1 s
  | .vrepkPack km p vd vs1 => Sys2Proof.Machine.execVrepkPack km p vd vs1 s
  | .vrepkUnpk km p vd vs1 => Sys2Proof.Machine.execVrepkUnpk km p vd vs1 s
  | .vcmpeq w km kd vs1 vs2 => Sys2Proof.Machine.execVcmpeq w km kd vs1 vs2 s
  | .vcmplt w km kd vs1 vs2 => Sys2Proof.Machine.execVcmplt w km kd vs1 vs2 s
  | .vcmpltu w km kd vs1 vs2 => Sys2Proof.Machine.execVcmpltu w km kd vs1 vs2 s
  | .vfcmpeq w km kd vs1 vs2 => Sys2Proof.Machine.execVfcmpeq w km kd vs1 vs2 s
  | .vfcmplt w km kd vs1 vs2 => Sys2Proof.Machine.execVfcmplt w km kd vs1 vs2 s
  | .kand kd ka kb => Sys2Proof.Machine.execKand kd ka kb s
  | .kor kd ka kb => Sys2Proof.Machine.execKor kd ka kb s
  | .kxor kd ka kb => Sys2Proof.Machine.execKxor kd ka kb s
  | .kmv kd rs1 => Sys2Proof.Machine.execKmv kd rs1 s
  | .vld w km vd rs1 => Sys2Proof.Machine.execVld w km vd rs1 s
  | .vst w km vs3 rs1 => Sys2Proof.Machine.execVst w km vs3 rs1 s
  | .vlds w km vd rs1 rs2 => Sys2Proof.Machine.execVlds w km vd rs1 rs2 s
  | .vsts w km vs3 rs1 rs2 => Sys2Proof.Machine.execVsts w km vs3 rs1 rs2 s
  | .vldx w km vd rs1 vs2 => Sys2Proof.Machine.execVldx w km vd rs1 vs2 s
  | .vstx w km vs3 rs1 vs2 => Sys2Proof.Machine.execVstx w km vs3 rs1 vs2 s
  | .vldb w km vd rs1 => Sys2Proof.Machine.execVldb w km vd rs1 s
  | .kst ks rs1 => Sys2Proof.Machine.execKst ks rs1 s
  | .vperm w km vd vs1 vs2 => Sys2Proof.Machine.execVperm w km vd vs1 vs2 s
  | .vslup w km vd vs1 rs2 => Sys2Proof.Machine.execVslup w km vd vs1 rs2 s
  | .vsldn w km vd vs1 rs2 => Sys2Proof.Machine.execVsldn w km vd vs1 rs2 s
  | .vzip w km vd vs1 vs2 => Sys2Proof.Machine.execVzip w km vd vs1 vs2 s
  | .vuzp w km vd vs1 vs2 => Sys2Proof.Machine.execVuzp w km vd vs1 vs2 s
  | .vsplat w km vd rs1 => Sys2Proof.Machine.execVsplat w km vd rs1 s
  | .vredadd w km rd vs1 rs2 => Sys2Proof.Machine.execVredadd w km rd vs1 rs2 s
  | .vfredadd w km rd vs1 rs2 => Sys2Proof.Machine.execVfredadd w km rd vs1 rs2 s
  | .vfredmax w km rd vs1 rs2 => Sys2Proof.Machine.execVfredmax w km rd vs1 rs2 s
  | .fence => Sys2Proof.Machine.execFence s
  | .fenceI => Sys2Proof.Machine.execFenceI s
  | .ecall => Sys2Proof.Machine.execEcall s
  | .ebreak => Sys2Proof.Machine.execEbreak s
  | .mret => Sys2Proof.Machine.execMret s
  | .sret => Sys2Proof.Machine.execSret s
  | .wfi => Sys2Proof.Machine.execWfi s
  | .taskEnd => Sys2Proof.Machine.execTaskEnd s
  | .taskSelf0 => Sys2Proof.Machine.execTaskSelf0 s
  | .taskSelf1 => Sys2Proof.Machine.execTaskSelf1 s
  | .taskSelf2 => Sys2Proof.Machine.execTaskSelf2 s
  | .taskSelf3 => Sys2Proof.Machine.execTaskSelf3 s
  | .taskSelf4 => Sys2Proof.Machine.execTaskSelf4 s
  | .taskSelf5 => Sys2Proof.Machine.execTaskSelf5 s
  | .taskSelf6 => Sys2Proof.Machine.execTaskSelf6 s
  | .taskSelf7 => Sys2Proof.Machine.execTaskSelf7 s
  | .taskSelf8 => Sys2Proof.Machine.execTaskSelf8 s
  | .taskSelf9 => Sys2Proof.Machine.execTaskSelf9 s
  | .taskSelf10 => Sys2Proof.Machine.execTaskSelf10 s
  | .taskSelf11 => Sys2Proof.Machine.execTaskSelf11 s
  | .taskSelf12 => Sys2Proof.Machine.execTaskSelf12 s
  | .taskSelf13 => Sys2Proof.Machine.execTaskSelf13 s
  | .taskSelf14 => Sys2Proof.Machine.execTaskSelf14 s
  | .taskSelf15 => Sys2Proof.Machine.execTaskSelf15 s
  | .taskSelf16 => Sys2Proof.Machine.execTaskSelf16 s
  | .taskSelf17 => Sys2Proof.Machine.execTaskSelf17 s
  | .taskSelf18 => Sys2Proof.Machine.execTaskSelf18 s
  | .taskSelf19 => Sys2Proof.Machine.execTaskSelf19 s
  | .taskSelf20 => Sys2Proof.Machine.execTaskSelf20 s
  | .taskSelf21 => Sys2Proof.Machine.execTaskSelf21 s
  | .taskSelf22 => Sys2Proof.Machine.execTaskSelf22 s
  | .taskSelf23 => Sys2Proof.Machine.execTaskSelf23 s
  | .taskSelf24 => Sys2Proof.Machine.execTaskSelf24 s
  | .taskSelf25 => Sys2Proof.Machine.execTaskSelf25 s
  | .taskSelf26 => Sys2Proof.Machine.execTaskSelf26 s
  | .taskSelf27 => Sys2Proof.Machine.execTaskSelf27 s
  | .taskSelf28 => Sys2Proof.Machine.execTaskSelf28 s
  | .taskSelf29 => Sys2Proof.Machine.execTaskSelf29 s
  | .taskSelf30 => Sys2Proof.Machine.execTaskSelf30 s
  | .taskSelf31 => Sys2Proof.Machine.execTaskSelf31 s
  | .taskPrio0 => Sys2Proof.Machine.execTaskPrio0 s
  | .taskPrio1 => Sys2Proof.Machine.execTaskPrio1 s
  | .taskPrio2 => Sys2Proof.Machine.execTaskPrio2 s
  | .taskPrio3 => Sys2Proof.Machine.execTaskPrio3 s
  | .taskPrio4 => Sys2Proof.Machine.execTaskPrio4 s
  | .taskPrio5 => Sys2Proof.Machine.execTaskPrio5 s
  | .taskPrio6 => Sys2Proof.Machine.execTaskPrio6 s
  | .taskPrio7 => Sys2Proof.Machine.execTaskPrio7 s
  | .taskPrio8 => Sys2Proof.Machine.execTaskPrio8 s
  | .taskPrio9 => Sys2Proof.Machine.execTaskPrio9 s
  | .taskPrio10 => Sys2Proof.Machine.execTaskPrio10 s
  | .taskPrio11 => Sys2Proof.Machine.execTaskPrio11 s
  | .taskPrio12 => Sys2Proof.Machine.execTaskPrio12 s
  | .taskPrio13 => Sys2Proof.Machine.execTaskPrio13 s
  | .taskPrio14 => Sys2Proof.Machine.execTaskPrio14 s
  | .taskPrio15 => Sys2Proof.Machine.execTaskPrio15 s
  | .taskPrio16 => Sys2Proof.Machine.execTaskPrio16 s
  | .taskPrio17 => Sys2Proof.Machine.execTaskPrio17 s
  | .taskPrio18 => Sys2Proof.Machine.execTaskPrio18 s
  | .taskPrio19 => Sys2Proof.Machine.execTaskPrio19 s
  | .taskPrio20 => Sys2Proof.Machine.execTaskPrio20 s
  | .taskPrio21 => Sys2Proof.Machine.execTaskPrio21 s
  | .taskPrio22 => Sys2Proof.Machine.execTaskPrio22 s
  | .taskPrio23 => Sys2Proof.Machine.execTaskPrio23 s
  | .taskPrio24 => Sys2Proof.Machine.execTaskPrio24 s
  | .taskPrio25 => Sys2Proof.Machine.execTaskPrio25 s
  | .taskPrio26 => Sys2Proof.Machine.execTaskPrio26 s
  | .taskPrio27 => Sys2Proof.Machine.execTaskPrio27 s
  | .taskPrio28 => Sys2Proof.Machine.execTaskPrio28 s
  | .taskPrio29 => Sys2Proof.Machine.execTaskPrio29 s
  | .taskPrio30 => Sys2Proof.Machine.execTaskPrio30 s
  | .taskPrio31 => Sys2Proof.Machine.execTaskPrio31 s
  | .rcvBegin => Sys2Proof.Machine.execRcvBegin s
  | .rcvEnd => Sys2Proof.Machine.execRcvEnd s
  | .rcvFail => Sys2Proof.Machine.execRcvFail s
  | .txnRetry => Sys2Proof.Machine.execTxnRetry s
  | .txnEnd => Sys2Proof.Machine.execTxnEnd s
  | .txnAbort => Sys2Proof.Machine.execTxnAbort s
  | .sysFreeze => Sys2Proof.Machine.execSysFreeze s
  | .fenceScCore => Sys2Proof.Machine.execFenceScCore s
  | .fenceScCluster => Sys2Proof.Machine.execFenceScCluster s
  | .fenceScDie => Sys2Proof.Machine.execFenceScDie s
  | .fenceScWafer => Sys2Proof.Machine.execFenceScWafer s
  | .fenceEngCore => Sys2Proof.Machine.execFenceEngCore s
  | .fenceEngCluster => Sys2Proof.Machine.execFenceEngCluster s
  | .fenceEngDie => Sys2Proof.Machine.execFenceEngDie s
  | .fenceEngWafer => Sys2Proof.Machine.execFenceEngWafer s
  | .fenceMxCore => Sys2Proof.Machine.execFenceMxCore s
  | .fenceMxCluster => Sys2Proof.Machine.execFenceMxCluster s
  | .fenceMxDie => Sys2Proof.Machine.execFenceMxDie s
  | .fenceMxWafer => Sys2Proof.Machine.execFenceMxWafer s
  | .mxZero0 => Sys2Proof.Machine.execMxZero0 s
  | .mxZero1 => Sys2Proof.Machine.execMxZero1 s
  | .mxZero2 => Sys2Proof.Machine.execMxZero2 s
  | .mxZero3 => Sys2Proof.Machine.execMxZero3 s
  | .mxZero4 => Sys2Proof.Machine.execMxZero4 s
  | .mxZero5 => Sys2Proof.Machine.execMxZero5 s
  | .mxZero6 => Sys2Proof.Machine.execMxZero6 s
  | .mxZero7 => Sys2Proof.Machine.execMxZero7 s
  | .csrWrite => Sys2Proof.Machine.execCsrWrite s
  | .gvfmtWrite => Sys2Proof.Machine.execGvfmtWrite s
  | .gvcodesWrite => Sys2Proof.Machine.execGvcodesWrite s
  | .gvfrmWrite => Sys2Proof.Machine.execGvfrmWrite s
  | .gvundoWrite => Sys2Proof.Machine.execGvundoWrite s
  | .gvbudWrite => Sys2Proof.Machine.execGvbudWrite s
  | .xtvecWrite => Sys2Proof.Machine.execXtvecWrite s
  | .illegalInstruction => Sys2Proof.Machine.execIllegalInstruction s
  | .interruptTaken => Sys2Proof.Machine.execInterruptTaken s
  | .stimerMatch => Sys2Proof.Machine.execStimerMatch s
  | .budgetOverrun => Sys2Proof.Machine.execBudgetOverrun s
  | .doomedRestart => Sys2Proof.Machine.execDoomedRestart s
  | .taskDispatch => Sys2Proof.Machine.execTaskDispatch s
  | .messageInject => Sys2Proof.Machine.execMessageInject s
  | .messageAccept => Sys2Proof.Machine.execMessageAccept s
  | .tokenLanding => Sys2Proof.Machine.execTokenLanding s
  | .creditReturn => Sys2Proof.Machine.execCreditReturn s
  | .taggedTokenArrival => Sys2Proof.Machine.execTaggedTokenArrival s
  | .tokenReinject => Sys2Proof.Machine.execTokenReinject s
  | .scrubTick => Sys2Proof.Machine.execScrubTick s
  | .clusterScrubTick => Sys2Proof.Machine.execClusterScrubTick s
  | .driftSample => Sys2Proof.Machine.execDriftSample s
  | .driftDrain => Sys2Proof.Machine.execDriftDrain s
  | .driftCopy => Sys2Proof.Machine.execDriftCopy s
  | .driftResume => Sys2Proof.Machine.execDriftResume s
  | .driftAbandon => Sys2Proof.Machine.execDriftAbandon s
  | .mxOpStart => Sys2Proof.Machine.execMxOpStart s
  | .mxOpComplete => Sys2Proof.Machine.execMxOpComplete s
  | .cpCommandRun => Sys2Proof.Machine.execCpCommandRun s
  | .cpComplete => Sys2Proof.Machine.execCpComplete s
  | .layPass => Sys2Proof.Machine.execLayPass s
  | .layComplete => Sys2Proof.Machine.execLayComplete s
  | .dramReqRun => Sys2Proof.Machine.execDramReqRun s
  | .dramReqComplete => Sys2Proof.Machine.execDramReqComplete s
  | .dramRequestTaken => Sys2Proof.Machine.execDramRequestTaken s
  | .dramHomePiece => Sys2Proof.Machine.execDramHomePiece s
  | .dramReply => Sys2Proof.Machine.execDramReply s
  | .nbPortOp => Sys2Proof.Machine.execNbPortOp s
  | .nbReply => Sys2Proof.Machine.execNbReply s
  | .barUnitOp => Sys2Proof.Machine.execBarUnitOp s
  | .sysResultReturn => Sys2Proof.Machine.execSysResultReturn s
  | .scanPatternDone => Sys2Proof.Machine.execScanPatternDone s
  | .swapOut => Sys2Proof.Machine.execSwapOut s
  | .contextSave => Sys2Proof.Machine.execContextSave s
  | .contextRestore => Sys2Proof.Machine.execContextRestore s
  | .clockChange => Sys2Proof.Machine.execClockChange s
  | .configImage => Sys2Proof.Machine.execConfigImage s
  | .configStage => Sys2Proof.Machine.execConfigStage s
  | .configCommit => Sys2Proof.Machine.execConfigCommit s
  | .launchPacket => Sys2Proof.Machine.execLaunchPacket s
  | .quiescenceWave => Sys2Proof.Machine.execQuiescenceWave s
  | .watchdogFire => Sys2Proof.Machine.execWatchdogFire s
  | .resumeFault => Sys2Proof.Machine.execResumeFault s
  | .endFault => Sys2Proof.Machine.execEndFault s
  | .setRoot => Sys2Proof.Machine.execSetRoot s
  | .invalidate => Sys2Proof.Machine.execInvalidate s
  | .saveArea => Sys2Proof.Machine.execSaveArea s
  | .watchdogInterval => Sys2Proof.Machine.execWatchdogInterval s
  | .errorThreshold => Sys2Proof.Machine.execErrorThreshold s
  | .replicatePage => Sys2Proof.Machine.execReplicatePage s
  | .movePage => Sys2Proof.Machine.execMovePage s
  | .bindPort => Sys2Proof.Machine.execBindPort s
  | .unknownCommand => Sys2Proof.Machine.execUnknownCommand s
  | .pageMoveCopy => Sys2Proof.Machine.execPageMoveCopy s
  | .pageMoveDone => Sys2Proof.Machine.execPageMoveDone s
  | .replicaWrite => Sys2Proof.Machine.execReplicaWrite s
  | .removalRequest => Sys2Proof.Machine.execRemovalRequest s
  | .coreFailureDetected => Sys2Proof.Machine.execCoreFailureDetected s
  | .barchanCopySlot => Sys2Proof.Machine.execBarchanCopySlot s
  | .routerLookup => Sys2Proof.Machine.execRouterLookup s
  | .combine => Sys2Proof.Machine.execCombine s
  | .releaseWriteApply => Sys2Proof.Machine.execReleaseWriteApply s
  | .appliedNotice => Sys2Proof.Machine.execAppliedNotice s
  | .acquireServe => Sys2Proof.Machine.execAcquireServe s
  | .deadLinkDeclare => Sys2Proof.Machine.execDeadLinkDeclare s
  | .linkStateUpdate => Sys2Proof.Machine.execLinkStateUpdate s
  | .linkRound => Sys2Proof.Machine.execLinkRound s
  | .regulatorFailure => Sys2Proof.Machine.execRegulatorFailure s
  | .freezeAssert => Sys2Proof.Machine.execFreezeAssert s
  | .freezeStopped => Sys2Proof.Machine.execFreezeStopped s
  | .readOut => Sys2Proof.Machine.execReadOut s
  | .thaw => Sys2Proof.Machine.execThaw s
  | .hostTokenIn => Sys2Proof.Machine.execHostTokenIn s
  | .hostTokenAck => Sys2Proof.Machine.execHostTokenAck s
  | .planakFailover => Sys2Proof.Machine.execPlanakFailover s
  | .bringUpCommand => Sys2Proof.Machine.execBringUpCommand s
  | .attestationRequest => Sys2Proof.Machine.execAttestationRequest s
  | .ueLaunchPacket => Sys2Proof.Machine.execUeLaunchPacket s
  | .ueBlockReceive => Sys2Proof.Machine.execUeBlockReceive s
  | .ueTransmit => Sys2Proof.Machine.execUeTransmit s
  | .ueChunkAck => Sys2Proof.Machine.execUeChunkAck s
  | .collectivePathFail => Sys2Proof.Machine.execCollectivePathFail s
  | .collectiveRestart => Sys2Proof.Machine.execCollectiveRestart s
  | .protectionTrip => Sys2Proof.Machine.execProtectionTrip s
  | .powerCap => Sys2Proof.Machine.execPowerCap s
  | .bringUp => Sys2Proof.Machine.execBringUp s
  | .storeBufferDrain => Sys2Proof.Machine.execStoreBufferDrain s
  | .releaseAcknowledgement => Sys2Proof.Machine.execReleaseAcknowledgement s
  | .loadAcknowledgement => Sys2Proof.Machine.execLoadAcknowledgement s
  | .loadAbort => Sys2Proof.Machine.execLoadAbort s
  | .systemFormAtTarget => Sys2Proof.Machine.execSystemFormAtTarget s
  | .collectiveFailed => Sys2Proof.Machine.execCollectiveFailed s
  | .powerRemoved => Sys2Proof.Machine.execPowerRemoved s
  | .unknownFrameType => Sys2Proof.Machine.execUnknownFrameType s

end Sys2Proof.Machine
end

