-- ==== Sys2Proof/Machine/Turn.lean ====
section
/-! DEFINITION. One act of one agent: the turn of a hart (fetch, decode and exec, with what stands before an instruction), the
turn of an event that is due, and which of them comes next (R14, R66, R163 to R171, R185, R388, R397, R398). -/
namespace Sys2Proof.Machine

/-! ### What goes on while the wafer is frozen or without power -/

/-- Events that the wafer performs while it is not running: the freeze's own, and what strikes it from outside (R397, R398,
R425). -/
def whileFrozen (ev : Instr) : Bool :=
  match ev with
  | .freezeAssert => true
  | .freezeStopped => true
  | .readOut => true
  | .thaw => true
  | .regulatorFailure => true
  | .protectionTrip => true
  | .powerRemoved => true
  | _ => false

/-- Whether instructions run: with power, and not while the wafer freezes, is frozen or is read out. -/
def State.running (s : State) : Bool := s.module_.powered && decide (s.wafer.freeze = .running)

/-- Whether an event may be performed now. -/
def State.mayPerform (s : State) (ev : Instr) : Bool := s.module_.powered && (s.running || whileFrozen ev)

/-! ### Units that stall on a full queue of notices (R343) -/

/-- Whether some die's controller would hold more than 512 notices that wait for the ring. -/
def State.overfull (s : State) : Bool := s.dies.any fun p => match p.2.rc.box with
  | some b => decide (512 < b.queue.length)
  | none => false

/-- An act of a unit; one that reports what the queue has no room for is not done yet. -/
def State.orStall (s t : State) : State := if t.overfull then s else t

/-! ### The turn of an event -/

/-- Performs a due event, which is no longer due. -/
def State.eventAct (s : State) (k : Nat) (d : Due) : Host.Outcome State Fault Refusal :=
  let t := { s with agenda := s.agenda.eraseIdx k, arg := d.arg }
  if (encode d.ev).isSome then .next t else exec d.ev t

/-- Performs the k-th due event with its argument. An entry that names an instruction of a hart is no event, and is dropped. -/
def State.eventTurn (s : State) (k : Nat) : Host.Outcome State Fault Refusal :=
  match s.agenda[k]? with
  | none => .next s
  | some d =>
    if !s.mayPerform d.ev then .next s
    else match s.eventAct k d with
      | .next t => .next (s.orStall t)
      | .fault f => .fault f
      | .refused r => .refused r

/-- Whether notices wait at some die, and the k-th due event would report what the queue has no room for. -/
def State.stalls (s : State) (k : Nat) (d : Due) : Bool :=
  (s.dies.any fun p => p.2.rc.box.any fun b => !b.queue.isEmpty) && (match s.eventAct k d with
    | .next t => t.overfull
    | _ => false)

/-! ### The turn of a hart -/

/-- lc that a hart's turn takes: the next of State.lcs, 1 where none stands there (entry 3). -/
def State.turnLcs (s : State) : Nat := s.lcs.headD 1

/-- The lc of a hart's turn pass; whether the task is charged is settled before the turn (R169). -/
def State.account (s : State) (n : Nat) (charged : Bool) : State :=
  { (s.passLc s.cur n charged) with lcs := s.lcs.drop 1 }

/-- A task's first access is over once an instruction that accesses memory has retired (R388). -/
def State.afterAccess (s : State) (i : Instr) (pc : Word) : State :=
  if memoryAccess i && decide (s.core.h.pc = pc + 4) then s.mapCore Core.accessed else s

/-- Whether an instruction of the acting hart has to wait for an acquire-class command that it issued before (R388). -/
def State.awaitsAcquire (s : State) (i : Instr) : Bool := memoryAccess i && s.acquires s.cur s.core.e.issued

/-- Runs one decoded instruction of the acting hart, and counts its lc. -/
def State.runInstr (s : State) (i : Instr) (n : Nat) (charged : Bool) : Host.Outcome State Fault Refusal :=
  if s.awaitsAcquire i then .next (s.account n charged)
  else match exec i s with
  | .next t => .next ((s.orStall (t.afterAccess i s.core.h.pc)).account n charged)
  | .fault f => .fault f
  | .refused r => .refused r

/-- Fetches, decodes and runs the instruction at the acting hart's pc: a word that is no instruction raises cause 2 with its
bits (R67). -/
def State.fetchTurn (s : State) (n : Nat) (charged : Bool) : Host.Outcome State Fault Refusal :=
  match s.fetch with
  | .trapped t => .next (t.account n charged)
  | .word t w =>
    match decode w with
    | .error _ => .next ((t.trap 2 (w.setWidth 64)).account n charged)
    | .ok i => t.runInstr i n charged

/-- What the acting hart does before it fetches: a doomed transaction restarts, an overrun is raised, an interrupt is taken. -/
def State.preempts (s : State) : Option State :=
  if s.core.doomDue then some s.doomedRestart
  else match s.core.overrunDue with
    | some t => some (s.overrun t)
    | none => s.pendingInterrupt.map s.interrupt

/-- The turn of the acting hart. A closing form that has begun to release goes on as the one instruction that it is (R183). -/
def State.ownTurn (s : State) : Host.Outcome State Fault Refusal :=
  let n := s.turnLcs
  let charged := s.core.atTask
  if !s.core.mayRun then .next s
  else if s.core.h.wait.isSome then .next (s.account n charged)
  else if s.core.r.closing then .next ((s.orStall s.closeOn).account n charged)
  else match s.core.h.hs with
    | .idle =>
      match s.pendingInterrupt with
      | some code => .next ((s.interrupt code).account n charged)
      | none => .next (s.account n charged)
    | .wfi =>
      if s.wfiPending s.cur then .next ((s.mapHart fun h => { h with hs := .run }).account n charged)
      else .next (s.account n charged)
    | _ =>
      match s.preempts with
      | some t => .next (t.account n charged)
      | none => s.fetchTurn n charged

/-- The turn of a slot's hart. -/
def State.hartTurn (s : State) (slot : Nat) : Host.Outcome State Fault Refusal :=
  if slotCount ≤ slot then .fault .noSuchPlace
  else if s.running then State.ownTurn { s with cur := slot }
  else .next s

/-! ### Which turn comes next (entry 2) -/

/-- Whether a slot's hart has something to do. -/
def State.ready (s : State) (slot : Nat) : Bool :=
  let c := s.coreAt slot
  c.mayRun && c.h.wait.isNone &&
    (match c.h.hs with
     | .idle => ({ s with cur := slot } : State).pendingInterrupt.isSome
     | .wfi => s.wfiPending slot
     | _ => true)

/-- The next ready hart in slot order after the acting one, among the cores that State lists. -/
def State.nextHart (s : State) : Nat :=
  let l := FMap.keys s.cores
  (((l.filter fun i => decide (s.cur < i)) ++ (l.filter fun i => decide (i ≤ s.cur))).find? s.ready).getD s.cur

/-- An event that lets lc pass stands back for the others, until a waiting hart can go on by nothing else: in a wfi that the
timer ends, or idle where the timer's interrupt would be taken (R96, R164, R165). -/
def State.isTimely (s : State) (d : Due) : Bool :=
  match d.ev with
  | .stimerMatch =>
    let c := s.coreAt d.arg.place
    match c.h.hs with
    | .wfi => c.c.mie.getLsbD 5
    | .idle => c.enabledM 32 ||| c.enabledS 32 != 0
    | _ => false
  | _ => true

/-- The order where State.sched chooses none: the oldest event that may be performed, else the next ready hart. -/
def State.defaultPick (s : State) : Pick :=
  match (s.agenda.zipIdx).find? fun p => s.mayPerform p.1.ev && s.isTimely p.1 && !s.stalls p.2 p.1 with
  | some p => .event p.2
  | none => .hart s.nextHart

/-- One act of one agent, chosen. -/
def State.perform (s : State) (p : Pick) : Host.Outcome State Fault Refusal :=
  match p with
  | .hart slot => s.hartTurn slot
  | .event k => s.eventTurn k

/-- One act of one agent. -/
def State.act (s : State) : Host.Outcome State Fault Refusal :=
  match s.sched with
  | p :: rest => State.perform { s with sched := rest } p
  | [] => s.perform s.defaultPick

/-! ### Placing one instruction where the acting hart fetches -/

/-- The state with a word stored at the acting hart's pc, its tag cleared, and that hart chosen next. -/
def State.placeWord (s : State) (w : IWord) : State :=
  let f := s.flat s.core.h.pc
  { s with
    mem := (s.mem.putBytes f (bytesOfWord w)).putTag f {}
    sched := .hart s.cur :: s.sched }

end Sys2Proof.Machine
end

