-- ==== Sys2Proof/Machine/Step.lean ====
section
/-! DEFINITION. The step of the wafer: one act of one agent (Machine/Turn.lean). -/
namespace Sys2Proof.Machine

/-- One step: the act of the agent that State.sched chooses, or of the next in the default order (entry 2). -/
def step (s : State) : Host.Outcome State Fault Refusal := s.act

/-- s with an instruction word placed where the acting hart fetches, so that the next step runs it (entry 5). -/
def State.withFetchWord (s : State) (nbits w : Nat) : State := s.placeWord (BitVec.ofNat 32 (w % 2 ^ nbits))

end Sys2Proof.Machine
end

