-- ==== Sys2Proof/Safety.lean ====
section
/-! DEFINITION. The terms in which claims are stated: when an instruction is free to run, what its next state leaves alone, and
the spec's tables of results, written apart from the meanings over integers and bytes. -/
namespace Sys2Proof.Machine

/-! ### When an instruction runs, and its frame -/

/-- No register that an instruction names is pending, and none of its sources holds an error token where tokens are heeded
(R161, R166, R184, R247). -/
def State.free (s : State) (srcs dsts : List XReg) : Bool :=
  ((srcs ++ dsts).all fun r => !hasBit s.core.h.pend r && !hasBit s.core.h.hpend r)
    && (srcs.all fun r => !(s.core.atTask && hasBit s.core.h.mark r))

/-- No region-stack entry is open, and no read set is kept. -/
def Core.plain (c : Core) : Bool := c.r.stack.isEmpty && c.r.rset.isEmpty

/-- t differs from s in the acting hart's core alone. -/
def State.OnlyCore (s t : State) : Prop :=
  { t with cores := s.cores } = s ∧ ∀ n, n ≠ s.cur → t.coreAt n = s.coreAt n

/-- t differs from s in the acting hart's core alone, and in the events that are due. -/
def State.OnlyCoreDue (s t : State) : Prop :=
  { t with cores := s.cores, agenda := s.agenda } = s ∧ ∀ n, n ≠ s.cur → t.coreAt n = s.coreAt n

/-- A core once an instruction has retired and goes on at pc: instret counts it unless mcountinhibit bit 2 stands (R20), and
the progress counter counts 4,096 of the task's own (R350). -/
def Core.counted (c : Core) (pc : Word) : Core :=
  let full := c.atTask && decide (c.u.progSub = 4095)
  { c with
    h.pc := pc
    n.instret := if c.c.mcountinhibit.getLsbD 2 then c.n.instret else c.n.instret + 1
    u.progSub := if full then 0 else if c.atTask then c.u.progSub + 1 else c.u.progSub
    u.prog := if full then c.u.prog + 1 else c.u.prog }

/-- An error mark after a write of v to a register (R166): set by a value of the token's shape written in a handler above the
task's privilege, cleared by every other write. -/
def Core.markAfter (c : Core) (v : Word) : Bool :=
  c.h.task.isSome && c.inHandler && (decide (2 ^ 63 ≤ v.toNat) && decide (v.toNat % 2 ^ 63 < 2 ^ 16))

/-- The x registers and their error marks after a write of v to rd: x0 reads zero and discards writes (R16, R166). -/
def State.WroteX (s t : State) (rd : XReg) (v : Word) : Prop :=
  (∀ r, t.x r = if r = 0 then 0 else if r = rd then v else s.x r) ∧
  ∀ r, hasBit t.core.h.mark r = if r = rd ∧ rd ≠ 0 then s.core.markAfter v else hasBit s.core.h.mark r

/-- The instruction ends with v in rd and goes on at pc; nothing else changes but the counters. -/
def State.WritesX (s t : State) (rd : XReg) (v pc : Word) : Prop :=
  s.OnlyCore t ∧ s.WroteX t rd v ∧
  t.core = ({ s.core with h.x := t.core.h.x, h.mark := t.core.h.mark } : Core).counted pc

/-- The exception of a code is taken at the present instruction (R158, R160, R162): to S where delegated and not from M, else
to M; the pc, the cause, tval and the previous mode and interrupt enable are saved, interrupts are disabled, the reservation
is dropped, and the pc is the handler's base. The hart keeps the codes of the traps it is in (R353). -/
def State.Traps (s t : State) (code : Nat) (tval : Word) : Prop :=
  let c := s.core
  let st := c.c.mstatus
  s.OnlyCore t ∧
  if c.mode ≠ .m ∧ c.c.medeleg.getLsbD code = true then
    t.core = { c with
      t.sepc := c.h.pc, t.scause := BitVec.ofNat 64 code, t.stval := tval, h.mode := .s, h.hs := .run,
      h.pc := c.c.stvec &&& ~~~3, h.resv := none, h.traps := BitVec.ofNat 8 code :: c.h.traps,
      c.mstatus := t.core.c.mstatus } ∧
    (∀ n, t.core.c.mstatus.getLsbD n =
      if n = 1 then false else if n = 5 then st.getLsbD 1 else if n = 8 then decide (c.mode = .s) else st.getLsbD n)
  else
    t.core = { c with
      t.mepc := c.h.pc, t.mcause := BitVec.ofNat 64 code, t.mtval := tval, h.mode := .m, h.hs := .run,
      h.pc := c.c.mtvec &&& ~~~3, h.resv := none, h.traps := BitVec.ofNat 8 code :: c.h.traps,
      c.mstatus := t.core.c.mstatus } ∧
    (∀ n, t.core.c.mstatus.getLsbD n =
      if n = 3 then false else if n = 7 then st.getLsbD 3 else if n = 11 then decide (c.mode ≠ .u)
      else if n = 12 then decide (c.mode = .m) else st.getLsbD n)

/-- t differs from s in the acting hart's core and in memory alone. -/
def State.OnlyCoreMem (s t : State) : Prop :=
  { t with cores := s.cores, mem := s.mem } = s ∧ ∀ n, n ≠ s.cur → t.coreAt n = s.coreAt n

/-- A balance event of d of a job at a place: one of its partial counts changes by d (R323). -/
def State.Counts (s t : State) (place : Nat) (job : BitVec 12) (d : Int) : Prop :=
  ∀ j, s.jobAt job = some j → ∃ k, t.jobAt job = some k ∧
    ∀ p, FMap.get 0 k.counts p = FMap.get 0 j.counts p + if p = place then d else 0

/-- t differs from s in the acting hart's core, in the events that are due and in the jobs' balances alone. -/
def State.OnlyCoreJobs (s t : State) : Prop :=
  { t with cores := s.cores, agenda := s.agenda, wafer := { t.wafer with jobs := s.wafer.jobs } } = s ∧
  ∀ n, n ≠ s.cur → t.coreAt n = s.coreAt n

/-- m' is m with the n low bytes of v stored from a flat address; no tag changes. -/
def Mem.Stored (m m' : Mem) (f n v : Nat) : Prop :=
  (∀ g, m'.byte g = if f ≤ g ∧ g < f + n then BitVec.ofNat 8 (v / 2 ^ (8 * (g - f))) else m.byte g) ∧
  ∀ g, m'.tag g = m.tag g

/-- No other core reads or has reserved the line of a flat address, and no task sleeps on it, or by an
entry that cannot be read (R96, R185, R189, R290). -/
def State.unwatched (s : State) (f : Nat) : Bool :=
  (s.cores.all fun p => p.1 == s.cur || (!(p.2.r.rset.any fun q => q.1 == lineAt f) && p.2.h.resv != some (lineAt f)))
    && s.clusters.all fun p => !(p.2.wake.any fun w => w.broken || w.lines.contains (lineAt f))

/-- The same for every word of n bytes. -/
def State.unwatchedRange (s : State) (f n : Nat) : Bool := (List.range (n / 8)).all fun i => s.unwatched (f + 8 * i)

/-- No core holds a read set or a reservation, and no task sleeps. -/
def State.noWatchers (s : State) : Bool :=
  (s.cores.all fun p => p.2.r.rset.isEmpty && p.2.h.resv.isNone) && s.clusters.all fun p => p.2.wake.isEmpty

/-! ### Integer forms (R96; results published) -/

/-- The 64-bit word of an integer. -/
def wrap (n : Int) : Word := BitVec.ofInt 64 n
/-- The low 32 bits of an integer, sign-extended. -/
def wrap32 (n : Int) : Word := (BitVec.ofInt 32 n).signExtend 64
/-- A word's low 32 bits as a signed and as an unsigned number. -/
def low32 (a : Word) : Int := (a.setWidth 32).toInt
def lowU32 (a : Word) : Nat := a.toNat % 2 ^ 32

/-- Sources, destination and result of the integer forms that write rd and go on at the next instruction. -/
def intForm (i : Instr) (s : State) : Option (List XReg × XReg × Word) :=
  let S (r : XReg) : Int := (s.x r).toInt
  let U (r : XReg) : Nat := (s.x r).toNat
  let one (b : Bool) : Word := if b then 1 else 0
  match i with
  | .addi d a k => some ([a], d, wrap (S a + k.toInt))
  | .slti d a k => some ([a], d, one (decide (S a < k.toInt)))
  | .sltiu d a k => some ([a], d, one (decide (U a < (wrap k.toInt).toNat)))
  | .xori d a k => some ([a], d, s.x a ^^^ wrap k.toInt)
  | .ori d a k => some ([a], d, s.x a ||| wrap k.toInt)
  | .andi d a k => some ([a], d, s.x a &&& wrap k.toInt)
  | .slli d a n => some ([a], d, wrap (U a * 2 ^ n.toNat))
  | .srli d a n => some ([a], d, wrap (U a / 2 ^ n.toNat))
  | .srai d a n => some ([a], d, wrap (S a / 2 ^ n.toNat))
  | .addiw d a k => some ([a], d, wrap32 (S a + k.toInt))
  | .slliw d a n => some ([a], d, wrap32 (U a * 2 ^ n.toNat))
  | .srliw d a n => some ([a], d, wrap32 (lowU32 (s.x a) / 2 ^ n.toNat : Nat))
  | .sraiw d a n => some ([a], d, wrap32 (low32 (s.x a) / 2 ^ n.toNat))
  | .lui d k => some ([], d, wrap (k.toInt * 4096))
  | .auipc d k => some ([], d, s.core.h.pc + wrap (k.toInt * 4096))
  | .add d a b => some ([a, b], d, wrap (S a + S b))
  | .sub d a b => some ([a, b], d, wrap (S a - S b))
  | .sll d a b => some ([a, b], d, wrap (U a * 2 ^ (U b % 64)))
  | .slt d a b => some ([a, b], d, one (decide (S a < S b)))
  | .sltu d a b => some ([a, b], d, one (decide (U a < U b)))
  | .xor d a b => some ([a, b], d, s.x a ^^^ s.x b)
  | .srl d a b => some ([a, b], d, wrap (U a / 2 ^ (U b % 64)))
  | .sra d a b => some ([a, b], d, wrap (S a / 2 ^ (U b % 64)))
  | .or d a b => some ([a, b], d, s.x a ||| s.x b)
  | .and d a b => some ([a, b], d, s.x a &&& s.x b)
  | .addw d a b => some ([a, b], d, wrap32 (S a + S b))
  | .subw d a b => some ([a, b], d, wrap32 (S a - S b))
  | .sllw d a b => some ([a, b], d, wrap32 (U a * 2 ^ (U b % 32)))
  | .srlw d a b => some ([a, b], d, wrap32 (lowU32 (s.x a) / 2 ^ (U b % 32) : Nat))
  | .sraw d a b => some ([a, b], d, wrap32 (low32 (s.x a) / 2 ^ (U b % 32)))
  | .mul d a b => some ([a, b], d, wrap (S a * S b))
  | .mulh d a b => some ([a, b], d, wrap (S a * S b / 2 ^ 64))
  | .mulhsu d a b => some ([a, b], d, wrap (S a * U b / 2 ^ 64))
  | .mulhu d a b => some ([a, b], d, wrap (U a * U b / 2 ^ 64))
  | .div d a b => some ([a, b], d, if S b = 0 then wrap (-1) else wrap ((S a).tdiv (S b)))
  | .divu d a b => some ([a, b], d, if U b = 0 then wrap (-1) else wrap (U a / U b))
  | .rem d a b => some ([a, b], d, if S b = 0 then s.x a else wrap ((S a).tmod (S b)))
  | .remu d a b => some ([a, b], d, if U b = 0 then s.x a else wrap (U a % U b))
  | .mulw d a b => some ([a, b], d, wrap32 (S a * S b))
  | .divw d a b => some ([a, b], d,
      if low32 (s.x b) = 0 then wrap (-1) else wrap32 ((low32 (s.x a)).tdiv (low32 (s.x b))))
  | .divuw d a b => some ([a, b], d,
      if lowU32 (s.x b) = 0 then wrap (-1) else wrap32 (lowU32 (s.x a) / lowU32 (s.x b) : Nat))
  | .remw d a b => some ([a, b], d,
      if low32 (s.x b) = 0 then wrap32 (low32 (s.x a)) else wrap32 ((low32 (s.x a)).tmod (low32 (s.x b))))
  | .remuw d a b => some ([a, b], d,
      if lowU32 (s.x b) = 0 then wrap32 (lowU32 (s.x a)) else wrap32 (lowU32 (s.x a) % lowU32 (s.x b) : Nat))
  | _ => none

/-! ### Branches and jumps (R66, R96) -/

/-- Sources, link register, and the target of a jump or taken branch; none where the branch is not taken. -/
def jumpForm (i : Instr) (s : State) : Option (List XReg × XReg × Option Word) :=
  let S (r : XReg) : Int := (s.x r).toInt
  let U (r : XReg) : Nat := (s.x r).toNat
  let go (k : BitVec 12) (b : Bool) : Option Word := if b then some (s.core.h.pc + wrap (2 * k.toInt)) else none
  match i with
  | .beq a b k => some ([a, b], 0, go k (decide (U a = U b)))
  | .bne a b k => some ([a, b], 0, go k (decide (U a ≠ U b)))
  | .blt a b k => some ([a, b], 0, go k (decide (S a < S b)))
  | .bge a b k => some ([a, b], 0, go k (decide (S b ≤ S a)))
  | .bltu a b k => some ([a, b], 0, go k (decide (U a < U b)))
  | .bgeu a b k => some ([a, b], 0, go k (decide (U b ≤ U a)))
  | .jal d k => some ([], d, some (s.core.h.pc + wrap (2 * k.toInt)))
  | .jalr d a k => some ([a], d, some (wrap (((U a : Int) + k.toInt) / 2 * 2)))
  | _ => none

/-! ### Loads and stores (R96, R199, R287) -/

/-- A byte as the hart sees it: the newest of its own buffered stores that writes it, else memory (R287). -/
def seenByte (l : List SbEntry) (f : Nat) (b : Byte) : Byte :=
  match l with
  | [] => b
  | .store ps :: t =>
    seenByte t f (ps.flatten.foldl (fun b w =>
      if w.addr ≤ f ∧ f < w.addr + 8 ∧ w.mask.getLsbD (f - w.addr) = true then w.data.extractLsb' (8 * (f - w.addr)) 8 else b) b)
  | _ :: t => seenByte t f b

/-- The byte of storage as the acting hart's loads see it outside every region. -/
def State.seen (s : State) (f : Nat) : Byte := seenByte s.core.e.sb f (s.mem.byte f)

/-- The number that n bytes make, least significant first (R11). -/
def littleEndian (b : Nat → Byte) (f n : Nat) : Nat :=
  match n with
  | 0 => 0
  | k + 1 => (b f).toNat + 256 * littleEndian b (f + 1) k

/-- The byte as the acting hart's loads see it, in an open transaction with its buffered bytes (R185). -/
def State.sees (s : State) (f : Nat) : Byte :=
  let w := FMap.get {} s.core.r.wset (wordAt f)
  if s.core.inTxn = true ∧ w.mask.getLsbD (f % 8) = true then w.data.extractLsb' (8 * (f % 8)) 8 else s.seen f

/-- The full bit and the poison bit of a word as the acting hart sees them, in an open transaction with its buffered changes. -/
def State.seesFull (s : State) (f : Nat) : Bool :=
  if s.core.inTxn then (FMap.get {} s.core.r.wset (wordAt f)).full.getD (s.mem.tag f).full else (s.mem.tag f).full
def State.seesPoison (s : State) (f : Nat) : Bool :=
  if s.core.inTxn then (FMap.get {} s.core.r.wset (wordAt f)).poison.getD (s.mem.tag f).poison else (s.mem.tag f).poison

/-- The lines of the write set with one more (R185). -/
def Core.writeLines (c : Core) (line : Nat) : Nat := ((c.r.wset.map fun p => lineAt p.1) ++ [line]).eraseDups.length

/-- The read set once the line of a local address has joined it, in an open transaction (R185). -/
def State.readSet (s : State) (a : Word) : List (Nat × Word) :=
  if s.core.inTxn = true ∧ ∀ p ∈ s.core.r.rset, p.1 ≠ lineAt (s.flat a) then s.core.r.rset ++ [(lineAt (s.flat a), a &&& ~~~63)]
  else s.core.r.rset

/-- A word that is poisoned, or two of whose codeword's bits have flipped (R198, R199). -/
def Mem.broken (m : Mem) (f : Nat) : Prop :=
  ((m.tag f).poison = true ∧ (m.tag f).flips = 0) ∨ ∃ i j, i < j ∧ j < 72 ∧ (m.tag f).flips = (1#72 <<< i) ||| (1#72 <<< j)

/-- m' is m with the word of a flat address poisoned. -/
def Mem.Poisons (m m' : Mem) (f : Nat) : Prop :=
  (∀ g, m'.byte g = m.byte g) ∧ ∀ g, m'.tag g = if wordAt g = wordAt f then { m.tag g with poison := true } else m.tag g

/-- The acting hart consumes an uncorrectable error in u and so comes to t (R192): with no entry open, in a handler above the task's
privilege, or at the limit of the innermost entry, cause 30 with tval a; else, once its commands are done, that entry is rolled back
and runs again from its begin with its count one higher, the outermost transaction with its stamp. -/
def State.Consumes (u t : State) (a : Word) : Prop :=
  match u.core.r.stack with
  | [] => u.Traps t 30 a
  | e :: rest =>
    if u.core.atTask = true ∧ e.count < u.core.g.limit.toNat then
      (u.commandsDone = false → { t with cores := u.cores } = u ∧ ∀ n, t.coreAt n = u.coreAt n) ∧
      (u.commandsDone = true → (u.rollback 0 true).2 = true → t.core.h.pc = e.begin_ ∧ t.core.r.stack = rest ∧
        t.core.r.carry = some (e.count + 1, if e.txn && !rest.any Entry.txn then some e.stamp else none))
    else u.Traps t 30 a

/-- A word without poison whose codeword is valid. -/
def State.clean (s : State) (f : Nat) : Bool := !(s.mem.tag f).poison && (s.mem.tag f).flips == 0

/-- Address register, offset, destination, size in bytes and signedness of a load. -/
def loadForm (i : Instr) : Option (XReg × BitVec 12 × XReg × Nat × Bool) :=
  match i with
  | .lb d a k => some (a, k, d, 1, true)
  | .lh d a k => some (a, k, d, 2, true)
  | .lw d a k => some (a, k, d, 4, true)
  | .ld d a k => some (a, k, d, 8, true)
  | .lbu d a k => some (a, k, d, 1, false)
  | .lhu d a k => some (a, k, d, 2, false)
  | .lwu d a k => some (a, k, d, 4, false)
  | _ => none

/-- Address register, offset, data register and size in bytes of a store. -/
def storeForm (i : Instr) : Option (XReg × BitVec 12 × XReg × Nat) :=
  match i with
  | .sb b a k => some (a, k, b, 1)
  | .sh b a k => some (a, k, b, 2)
  | .sw b a k => some (a, k, b, 4)
  | .sd b a k => some (a, k, b, 8)
  | _ => none

/-- The address of a load or store. -/
def State.addr (s : State) (a : XReg) (k : BitVec 12) : Word := wrap ((s.x a).toNat + k.toInt)

/-! ### Atomic forms (R96) -/

/-- Destination, address register, operand register and size of an AMO. -/
def amoForm (i : Instr) : Option (XReg × XReg × XReg × Nat) :=
  match i with
  | .amoswapW _ _ d a b => some (d, a, b, 4)
  | .amoaddW _ _ d a b => some (d, a, b, 4)
  | .amoxorW _ _ d a b => some (d, a, b, 4)
  | .amoandW _ _ d a b => some (d, a, b, 4)
  | .amoorW _ _ d a b => some (d, a, b, 4)
  | .amominW _ _ d a b => some (d, a, b, 4)
  | .amomaxW _ _ d a b => some (d, a, b, 4)
  | .amominuW _ _ d a b => some (d, a, b, 4)
  | .amomaxuW _ _ d a b => some (d, a, b, 4)
  | .amoswapD _ _ d a b => some (d, a, b, 8)
  | .amoaddD _ _ d a b => some (d, a, b, 8)
  | .amoxorD _ _ d a b => some (d, a, b, 8)
  | .amoandD _ _ d a b => some (d, a, b, 8)
  | .amoorD _ _ d a b => some (d, a, b, 8)
  | .amominD _ _ d a b => some (d, a, b, 8)
  | .amomaxD _ _ d a b => some (d, a, b, 8)
  | .amominuD _ _ d a b => some (d, a, b, 8)
  | .amomaxuD _ _ d a b => some (d, a, b, 8)
  | _ => none

/-- The aq and rl bits of an AMO; its scope is the wafer (R96). -/
def amoOrd (i : Instr) : Ord :=
  let o (aq rl : Bool) : Ord := { aq := aq, rl := rl, scope := 3 }
  match i with
  | .amoswapW aq rl _ _ _ => o aq rl
  | .amoaddW aq rl _ _ _ => o aq rl
  | .amoxorW aq rl _ _ _ => o aq rl
  | .amoandW aq rl _ _ _ => o aq rl
  | .amoorW aq rl _ _ _ => o aq rl
  | .amominW aq rl _ _ _ => o aq rl
  | .amomaxW aq rl _ _ _ => o aq rl
  | .amominuW aq rl _ _ _ => o aq rl
  | .amomaxuW aq rl _ _ _ => o aq rl
  | .amoswapD aq rl _ _ _ => o aq rl
  | .amoaddD aq rl _ _ _ => o aq rl
  | .amoxorD aq rl _ _ _ => o aq rl
  | .amoandD aq rl _ _ _ => o aq rl
  | .amoorD aq rl _ _ _ => o aq rl
  | .amominD aq rl _ _ _ => o aq rl
  | .amomaxD aq rl _ _ _ => o aq rl
  | .amominuD aq rl _ _ _ => o aq rl
  | .amomaxuD aq rl _ _ _ => o aq rl
  | _ => Ord.plain

/-- What an AMO stores of the old value and its operand. -/
def amoNew {w : Nat} (i : Instr) (x y : BitVec w) : BitVec w :=
  match i with
  | .amoaddW .. | .amoaddD .. => BitVec.ofInt w (x.toInt + y.toInt)
  | .amoxorW .. | .amoxorD .. => x ^^^ y
  | .amoandW .. | .amoandD .. => x &&& y
  | .amoorW .. | .amoorD .. => x ||| y
  | .amominW .. | .amominD .. => if x.toInt ≤ y.toInt then x else y
  | .amomaxW .. | .amomaxD .. => if y.toInt ≤ x.toInt then x else y
  | .amominuW .. | .amominuD .. => if x.toNat ≤ y.toNat then x else y
  | .amomaxuW .. | .amomaxuD .. => if y.toNat ≤ x.toNat then x else y
  | _ => y

/-- Destination, address register and size of a load-reserve; then of a store-conditional, with its data register. -/
def lrForm (i : Instr) : Option (XReg × XReg × Nat) :=
  match i with
  | .lrW _ _ d a => some (d, a, 4)
  | .lrD _ _ d a => some (d, a, 8)
  | _ => none
def scForm (i : Instr) : Option (XReg × XReg × XReg × Nat) :=
  match i with
  | .scW _ _ d a b => some (d, a, b, 4)
  | .scD _ _ d a b => some (d, a, b, 8)
  | _ => none

/-! ### CSR forms (published) -/

/-- Sources, destination and address of a CSR form, and what it writes given the old value. -/
def csrWrites (i : Instr) (s : State) (old : Word) : Option (List XReg × XReg × BitVec 12 × Option Word) :=
  match i with
  | .csrrw d k a => some ([a], d, k, some (s.x a))
  | .csrrs d k a => some ([a], d, k, if a = 0 then none else some (old ||| s.x a))
  | .csrrc d k a => some ([a], d, k, if a = 0 then none else some (old &&& ~~~s.x a))
  | .csrrwi d k z => some ([], d, k, some (BitVec.ofNat 64 z.toNat))
  | .csrrsi d k z => some ([], d, k, if z = 0 then none else some (old ||| BitVec.ofNat 64 z.toNat))
  | .csrrci d k z => some ([], d, k, if z = 0 then none else some (old &&& ~~~BitVec.ofNat 64 z.toNat))
  | _ => none

/-- The address of a CSR form, and whether it writes. -/
def csrAccess (i : Instr) : Option (Nat × Bool) :=
  match i with
  | .csrrw _ k _ => some (k.toNat, true)
  | .csrrs _ k a => some (k.toNat, decide (a ≠ 0))
  | .csrrc _ k a => some (k.toNat, decide (a ≠ 0))
  | .csrrwi _ k _ => some (k.toNat, true)
  | .csrrsi _ k z => some (k.toNat, decide (z ≠ 0))
  | .csrrci _ k z => some (k.toNat, decide (z ≠ 0))
  | _ => none

/-- Whether an instruction's rule forbids it to the hart as it is (R21, R118, R127, R162, R349, published). -/
def forbidden (i : Instr) (s : State) : Bool :=
  let mode := s.core.h.mode
  let st := s.core.c.mstatus
  match i with
  | .mret => mode != .m
  | .sret => mode == .u || (mode == .s && st.getLsbD 22)
  | .wfi => mode == .u || (mode == .s && st.getLsbD 21 && !s.wfiPending s.cur)
  | .sfenceVma .. => mode == .u || (mode == .s && st.getLsbD 20)
  | .capMint .. => mode == .u
  | .sysFreeze => mode == .u
  | .sysRemap .. => mode == .u
  | i => match csrAccess i with
    | some (a, w) => (s.csrValue s.cur a).isNone || !s.core.csrAllowed a w
    | none => false

/-! ### Operand objects -/

/-- A 64-bit word as the acting hart's loads see it outside regions. -/
def State.seenWord (s : State) (a : Word) : Word := BitVec.ofNat 64 (littleEndian s.seen (s.flat a) 8)

/-- n words from an address, as the hart sees them. -/
def State.seenWords (s : State) (a : Word) (n : Nat) : List Word :=
  (List.range n).map fun i => s.seenWord (a + BitVec.ofNat 64 (8 * i))

/-- n words from an address aligned to m bytes lie in one local window, are clean, and meet no posted form, and no transfer
through the crossbar fails (R99, R287, R290). -/
def State.readable (s : State) (a : Word) (m n : Nat) : Bool :=
  decide (a.toNat % m = 0) && inWindow a (8 * n) && s.crc == [] && (List.range n).all fun i =>
    s.clean (s.flat (a + BitVec.ofNat 64 (8 * i))) && !s.core.postedOn (wordAt (s.flat (a + BitVec.ofNat 64 (8 * i))))

/-! ### Tasks (R37, R39, R105, R106) -/

/-- The register that a task.self, or a task.prio, names. -/
def selfReg (i : Instr) : Option XReg :=
  match i with
  | .taskSelf0 => some 0
  | .taskSelf1 => some 1
  | .taskSelf2 => some 2
  | .taskSelf3 => some 3
  | .taskSelf4 => some 4
  | .taskSelf5 => some 5
  | .taskSelf6 => some 6
  | .taskSelf7 => some 7
  | .taskSelf8 => some 8
  | .taskSelf9 => some 9
  | .taskSelf10 => some 10
  | .taskSelf11 => some 11
  | .taskSelf12 => some 12
  | .taskSelf13 => some 13
  | .taskSelf14 => some 14
  | .taskSelf15 => some 15
  | .taskSelf16 => some 16
  | .taskSelf17 => some 17
  | .taskSelf18 => some 18
  | .taskSelf19 => some 19
  | .taskSelf20 => some 20
  | .taskSelf21 => some 21
  | .taskSelf22 => some 22
  | .taskSelf23 => some 23
  | .taskSelf24 => some 24
  | .taskSelf25 => some 25
  | .taskSelf26 => some 26
  | .taskSelf27 => some 27
  | .taskSelf28 => some 28
  | .taskSelf29 => some 29
  | .taskSelf30 => some 30
  | .taskSelf31 => some 31
  | _ => none
def prioReg (i : Instr) : Option XReg :=
  match i with
  | .taskPrio0 => some 0
  | .taskPrio1 => some 1
  | .taskPrio2 => some 2
  | .taskPrio3 => some 3
  | .taskPrio4 => some 4
  | .taskPrio5 => some 5
  | .taskPrio6 => some 6
  | .taskPrio7 => some 7
  | .taskPrio8 => some 8
  | .taskPrio9 => some 9
  | .taskPrio10 => some 10
  | .taskPrio11 => some 11
  | .taskPrio12 => some 12
  | .taskPrio13 => some 13
  | .taskPrio14 => some 14
  | .taskPrio15 => some 15
  | .taskPrio16 => some 16
  | .taskPrio17 => some 17
  | .taskPrio18 => some 18
  | .taskPrio19 => some 19
  | .taskPrio20 => some 20
  | .taskPrio21 => some 21
  | .taskPrio22 => some 22
  | .taskPrio23 => some 23
  | .taskPrio24 => some 24
  | .taskPrio25 => some 25
  | .taskPrio26 => some 26
  | .taskPrio27 => some 27
  | .taskPrio28 => some 28
  | .taskPrio29 => some 29
  | .taskPrio30 => some 30
  | .taskPrio31 => some 31
  | _ => none

/-- Nothing waits for room at a core: no spilled or waiting record, no starved actor, no message in an input buffer, no woken
task and no record that a near-bank unit has fired. -/
def State.settled (s : State) (slot : Nat) : Bool :=
  let c := s.coreAt slot
  let k := s.clusterAt (slotCluster slot)
  ((List.range 4).all fun l => (levelRing c.q l).seqs.isEmpty) && c.q.waitq.isEmpty && (c.q.actors.all fun p => !p.2.starved)
    && c.m.inq.isEmpty && (k.wake.all fun w => w.slot != slot || !w.woken)
    && s.clusters.all fun p => p.2.fired.all fun r => r.2.1 != slot

/-- Whether a level's FIFO takes one more record at once (R206). -/
def Core.fifoRoom (c : Core) (l : Nat) : Bool := (levelRing c.q l).seqs.isEmpty && decide ((levelQ c.q l).length < 63)

/-- The task of the acting hart may end now (R39, R168): no entry is open, no register is pending but for held commands, its
stores have drained, and the reply its frame owes has room. -/
def Core.mayEnd (c : Core) : Bool :=
  c.r.stack.isEmpty && c.h.pend &&& ~~~c.h.hpend == 0 && c.e.sb.isEmpty && !c.replyBlocked

/-- The copy of a record in memory that task.chain, task.spawn and task.join make (R101 to R104): its fields, with join 0, the
chn bit given, and in U-mode tasks the issuing task's job. -/
def recordCopy (job : BitVec 12) (w : List Word) (chn : Bool) (r : Rec) : Prop :=
  let w0 := w.getD 0 0
  let w1 := w.getD 1 0
  let w2 := w.getD 2 0
  r.job = (if job = 0 then w0.extractLsb' 50 12 else job) ∧ r.prio = w0.extractLsb' 48 2 ∧
  r.code = w0.extractLsb' 0 48 &&& 0xFFFFFFFFFFFC ∧ r.join = 0 ∧ r.frame = w1.extractLsb' 0 48 ∧ r.chn = chn ∧
  r.top = w2.getLsbD 52 ∧ r.wake = w2.getLsbD 51 ∧ r.etag = w2.getLsbD 50 ∧ r.msg = w2.getLsbD 49 ∧
  r.act = w2.getLsbD 48 ∧ r.widp = w2.extractLsb' 0 48 ∧ r.rel = false ∧ r.chk = false

/-- Registers of a system form that a network carries: operation, capability, selector register, destination. -/
def netForm (i : Instr) (s : State) : Option (SysOp × BitVec 4 × XReg × List XReg × XReg × Word) :=
  match i with
  | .sysHalt a => some (.halt, 4, a, [a], 0, 0)
  | .sysResume a => some (.resume, 4, a, [a], 0, 0)
  | .sysInspect d a b => some (.inspect, 8, a, [a, b], d, s.x b)
  | .sysScan d a => some (.scan, 12, a, [a], d, 0)
  | .sysSig d a => some (.sig, 8, a, [a], d, 0)
  | .sysRemap a b => if s.core.h.mode = .u then none else some (.remap, 4, a, [a, b], 0, s.x b &&& 1)
  | _ => none

/-! ### Fences (R96, R245, R271, R286) -/

/-- Whether a fence lets the hart go on; none for what is no fence. -/
def fenceForm (i : Instr) (s : State) : Option Bool :=
  let drained := s.core.e.sb.isEmpty
  let performed := drained && s.core.m.nbOut == 0
  let engines := s.core.e.mxq.isEmpty && s.core.e.cpq.isEmpty && s.core.e.drq.isEmpty
    && (s.clusterAt (slotCluster s.cur)).layq.all fun l => l.slot != s.cur
  match i with
  | .fence => some performed
  | .fenceI => some drained
  | .fenceScCore => some performed
  | .fenceScCluster => some performed
  | .fenceScDie => some performed
  | .fenceScWafer => some performed
  | .fenceEngCore => some engines
  | .fenceEngCluster => some engines
  | .fenceEngDie => some engines
  | .fenceEngWafer => some engines
  | .fenceMxCore => some s.core.e.mxq.isEmpty
  | .fenceMxCluster => some s.core.e.mxq.isEmpty
  | .fenceMxDie => some s.core.e.mxq.isEmpty
  | .fenceMxWafer => some s.core.e.mxq.isEmpty
  | _ => none

/-! ### Region forms (R176 to R188) -/

/-- Registers that a mask adds: bits 1 to 31 name x registers, bit 32 + j names v register j (R177). -/
def maskNames (mask : Word) (known : List Nat) : List Nat :=
  (List.range 64).filter fun i => i != 0 && mask.getLsbD i && !known.contains i

/-- Bytes of log records that registers take (R179). -/
def recordBytes (l : List Nat) : Nat := 16 * (l.map fun i => if i < 32 then 1 else 8).sum

/-- x registers among the names of a mask. -/
def maskX (l : List Nat) : List XReg := (l.filter (· < 32)).map (BitVec.ofNat 5)

/-- The next n bytes of the undo log lie below its limit, on record boundaries (R178, R179). -/
def Core.logFits (c : Core) (n : Nat) : Bool := decide (c.r.logTop % 16 = 0) && decide (c.r.logTop + n ≤ c.g.undol.toNat)

/-- The rollback of the innermost n entries meets no uncorrectable log record (R181). -/
def State.rollsBack (s : State) (n : Nat) (regs : Bool) : Bool := (s.rollback n regs).2

/-! ### Tagged memory (R250 to R253) -/

/-- A change of the word's full bit reaches no ring, mailbox or port (R202, R343, R420). -/
def State.unheard (s : State) (f : Nat) : Bool :=
  (s.ringEdges (wordAt f)).isEmpty && s.dies.all fun p => p.2.rc.box.isNone && p.2.ports.isEmpty

/-- Address register, sources, destinations of a tagged-memory form, whether it stores, and its orders. -/
def feOperands (i : Instr) : Option (XReg × List XReg × List XReg × Bool × Ord) :=
  match i with
  | .feLd o d a => some (a, [a], [d], false, o)
  | .feLdk o d a => some (a, [a], [d], false, o)
  | .feTest o d a => some (a, [a], [d], false, o)
  | .feSt o a b => some (a, [a, b], [], true, o)
  | .feStf o a b => some (a, [a, b], [], true, o)
  | .feClr o a => some (a, [a], [], true, o)
  | _ => none

/-- Whether a tagged-memory form goes on with a full bit. -/
def feGoes (i : Instr) (full : Bool) : Bool :=
  match i with
  | .feLd .. => full
  | .feLdk .. => full
  | .feSt .. => !full
  | _ => true

/-- What a tagged-memory form that goes on leaves: destination and value written to it, stored data, and the full bit. -/
def feEffect (i : Instr) (s : State) (w : Word) (full : Bool) : XReg × Word × Option Word × Bool :=
  match i with
  | .feLd _ d _ => (d, w, none, false)
  | .feLdk _ d _ => (d, w, none, full)
  | .feTest _ d _ => (d, if full then 1 else 0, none, full)
  | .feSt _ _ b => (0, 0, some (s.x b), true)
  | .feStf _ _ b => (0, 0, some (s.x b), true)
  | .feClr .. => (0, 0, none, false)
  | _ => (0, 0, none, full)

/-- The word of a core's sample slot (R263, R264, R354): slot 2 gives the last completed quiescence wave. -/
def State.sampleWord (s : State) (i : Nat) : Word :=
  if i = 2 then
    BitVec.ofNat 64 (s.wafer.wave % 2 ^ 16 * 2 ^ 48 + (if s.core.u.waveSeen = s.wafer.wave then 0 else 2 ^ 47)
      + s.wafer.wave % 2 ^ 32)
  else FMap.get 0 s.core.u.samples i

/-! ### Edges (R255 to R262) -/

/-- Sources of a put form, its orders, whether it is edge.done, and the words it offers. -/
def putOperands (i : Instr) (s : State) : Option (XReg × List XReg × Bool × BitVec 2 × Bool × List Word) :=
  match i with
  | .edgePut rl sc a b => some (a, [a, b], rl, sc, false, [s.x b])
  | .edgePutv rl sc a b => some (a, [a], rl, sc, false,
      (List.range 32).map fun j => (s.v (b + BitVec.ofNat 5 (j / 8))).extractLsb' (64 * (j % 8)) 64)
  | .edgeDone rl sc a => some (a, [a], rl, sc, true, [])
  | _ => none

/-! ### Matrix forms (R222, R235) -/

/-- Operation, accumulators, token register and orders of a matrix form. -/
def mxForm (i : Instr) : Option (MxForm × ZReg × ZReg × XReg × Ord) :=
  match i with
  | .mxMma o d zc => some (.mma, zc, 0, d, o)
  | .mxMmac o d zc za => some (.mmac, zc, za, d, o)
  | .mxStore o d zc => some (.store, zc, 0, d, o)
  | .mxZero0 => some (.zero, 0, 0, 0, Ord.plain)
  | .mxZero1 => some (.zero, 1, 0, 0, Ord.plain)
  | .mxZero2 => some (.zero, 2, 0, 0, Ord.plain)
  | .mxZero3 => some (.zero, 3, 0, 0, Ord.plain)
  | .mxZero4 => some (.zero, 4, 0, 0, Ord.plain)
  | .mxZero5 => some (.zero, 5, 0, 0, Ord.plain)
  | .mxZero6 => some (.zero, 6, 0, 0, Ord.plain)
  | .mxZero7 => some (.zero, 7, 0, 0, Ord.plain)
  | _ => none

/-- A valid product of an operation (R232). -/
def MxOp.valid (o : MxOp) (i q j : Nat) : Prop := i ∈ o.rows ∧ q < o.kv ∧ j ∈ o.cols

/-- A byte that an operation of mx.mma or mx.mmac reads (R231, R232): a scale byte of a valid product, or, where no scale byte of
the product marks its block as zero, a byte of its elements; mx.mmac takes A from accumulators. -/
def MxOp.Reads (o : MxOp) (m : Mem) (slot : Nat) (a : Word) : Prop :=
  ∃ i q j, o.valid i q j ∧
    (scaleAddr o.cap.scla o.cap.fmta (q / 32) i = some a ∨ scaleAddr o.cap.sclb o.cap.fmtb (q / 32) j = some a ∨
      o.scaleA m slot (q / 32) i ≠ 0xFF ∧ o.scaleB m slot (q / 32) j ≠ 0xFF ∧
        (o.form = .mma ∧ a ∈ elemBytes o.cap.fmta (o.rowA i) q ∨ a ∈ elemBytes o.cap.fmtb (o.rowB q) j))

/-- The t of a row of mx.store's tile (R239): mx.sctl.t, or by the largest magnitude of the row's finite valid elements. -/
def MxOp.IsScale (o : MxOp) (c : Core) (i : Nat) (t : Int) : Prop :=
  let log (j : Nat) (l : Int) : Prop := ∃ s m e, o.zNum c i j = .fin s m e ∧ m ≠ 0 ∧ l = floorLog2 m e
  if (o.reg 9).getLsbD 8 = false then t = ((o.reg 9).toNat % 256 : Nat)
  else (t = 127 ∧ ∀ j ∈ o.cols, ∀ l, ¬ log j l) ∨
    ∃ l, (∃ j ∈ o.cols, log j l) ∧ (∀ j ∈ o.cols, ∀ k, log j k → k ≤ l) ∧
      t = max 0 (min 254 (l - (if o.cap.fmtc = 0 then 3 else 1) + 127))

/-- The code that mx.store writes of a valid element, with its flags, for its row's t (R239). -/
def MxOp.stored (o : MxOp) (c : Core) (i j : Nat) (t : Int) : Nat × Flags :=
  let z := o.zNum c i j
  let v := z.scale (127 - t)
  let signalling : Bool :=
    if o.dbl then fp64.isSNaN (c.zElem true (o.zIndex o.zc.toNat i j)) else fp32.isSNaN (c.zElem false (o.zIndex o.zc.toNat i j))
  let r := match o.cap.fmtc.toNat with
    | 0 => Taper.t8.round o.cap.top v
    | 1 => Taper.t6.round o.cap.top v
    | 3 => bf16.round rne v
    | 4 => fp16.round rne v
    | 5 => fp32.round rne v
    | _ => fp64.round rne v
  (r.1, if signalling then r.2 ||| flagNV else r.2)

/-- A byte that mx.store writes, with its value (R239, R240): of a valid element; of a packed group of four T6 codes with a valid
column, its masked columns as code 0; of a valid row's scale. -/
def MxOp.Writes (o : MxOp) (c : Core) (a : Word) (v : Nat) : Prop :=
  ∃ i t, i ∈ o.rows ∧ o.IsScale c i t ∧
    ((fmtBits o.cap.fmtc ≠ 6 ∧ ∃ j k, j ∈ o.cols ∧ k < fmtBits o.cap.fmtc / 8 ∧
        a = o.rowS i + BitVec.ofNat 64 (fmtBits o.cap.fmtc / 8 * j + k) ∧ v = (o.stored c i j t).1 / 256 ^ k % 256) ∨
     (fmtBits o.cap.fmtc = 6 ∧ ∃ g k, (∃ j ∈ o.cols, j / 4 = g) ∧ k < 3 ∧ a = o.rowS i + BitVec.ofNat 64 (3 * g + k) ∧
        v = ((List.range 4).map fun n =>
          if 4 * g + n ∈ o.cols then (o.stored c i (4 * g + n) t).1 * 64 ^ n else 0).sum / 256 ^ k % 256) ∨
     ((o.reg 9).getLsbD 8 = true ∧ a = o.reg 0xA + BitVec.ofNat 64 i ∧ v = t.toNat))

/-- The conditions of the table Matrix error codes, by their number in the order of the checks (R233). -/
def MxOp.Fails (o : MxOp) (c : Core) (m : Mem) (slot n : Nat) : Prop :=
  let k := min (fmtK o.cap.fmta) (fmtK o.cap.fmtb)
  let multiplies := o.form = .mma ∨ o.form = .mmac
  let auto := (o.reg 9).getLsbD 8
  match n with
  | 1 => (o.form = .mma ∧ ¬ (o.cap.fmta = 6 ↔ o.cap.fmtb = 6)) ∨
      (o.form = .mmac ∧ (o.cap.fmta ∉ [0, 1, 3, 4] ∨ o.cap.fmtb = 6))
  | 2 => ((o.form = .mma ∨ o.form = .store) ∧ o.cap.fmta = 6 ∧ o.cap.fmtb = 6 ∧ o.zc.getLsbD 0 = true) ∨
      (o.form = .mmac ∧ k = 64 ∧ o.za.getLsbD 0 = true)
  | 3 => o.form = .store ∧ (o.cap.fmtc = 2 ∨ (auto = true ∧ o.cap.fmtc ∉ [0, 1]) ∨ (auto = false ∧ (o.reg 9).toNat % 256 = 0xFF))
  | 4 => multiplies ∧ k + 1 ≤ (o.reg 6).toNat ∧ o.reg 6 ≠ 0x7F
  | 5 => (multiplies ∧ ∃ a, o.Reads m slot a ∧ localFlat slot a = none) ∨
      (o.form = .store ∧ ∃ a v, o.Writes c a v ∧ localFlat slot a = none)
  | _ => False

/-- The accumulator element that mx.mma and mx.mmac leave of a valid row and column, with the flags of its arithmetic: groups of
eight products into FP32 (R58), or one fused addition for each product in FP64 mode (R59), over all of K (R232). -/
def MxOp.Accumulates (o : MxOp) (c : Core) (m : Mem) (slot i j : Nat) (r : Nat × Flags) : Prop :=
  let z := o.zIndex o.zc.toNat i j
  let n := if o.dbl then 4 else o.kk / 8
  ∃ acc : Nat → Nat × Flags, acc 0 = (c.zElem o.dbl z, 0) ∧ acc n = r ∧
    ∀ g, g < n → acc (g + 1) =
      if o.dbl then
        let a := if g < o.kv then m.elemCode slot 6 (o.rowA i) g else 0
        let b := if g < o.kv then m.elemCode slot 6 (o.rowB g) j else 0
        let s := fp64.fma rne false false a b (acc g).1
        (s.1, (acc g).2 ||| s.2)
      else macStep (acc g) ((List.range 8).map fun k =>
        let q := 8 * g + k
        if q < o.kv then product (o.valA c m slot i q) (o.valB m slot q j) else .zero)

/-- rd is pending and unmarked after a form with a token register; no other register changes (R247). -/
def State.TokenPends (s t : State) (rd : XReg) : Prop :=
  t.x = s.x ∧
  (∀ r, hasBit t.core.h.pend r = (hasBit s.core.h.pend r || decide (r = rd ∧ rd ≠ 0))) ∧
  ∀ r, hasBit t.core.h.mark r = (hasBit s.core.h.mark r && !decide (r = rd ∧ rd ≠ 0))

/-- A form with a token register retires: the hart goes on with rd pending, and of its core only the engines' queues change. -/
def State.IssuesToken (s t : State) (rd : XReg) : Prop :=
  s.TokenPends t rd ∧ (∀ n, n ≠ s.cur → t.coreAt n = s.coreAt n) ∧
  t.core = ({ s.core with e := t.core.e, h.pend := t.core.h.pend, h.mark := t.core.h.mark } : Core).counted (s.core.h.pc + 4)

/-- A command's token reaches its register at a slot (R166, R247): where the task that issued it still waits for it, the
register takes v, is not pending any more, and is marked when bit 63 of v is set. -/
def Core.TokenArrives (c d : Core) (rd : XReg) (serial : Nat) (v : Word) : Prop :=
  if rd ≠ 0 ∧ hasBit c.h.pend rd = true ∧ c.serialOf = serial then
    (∀ r, d.h.getX r = if r = rd then v else c.h.getX r) ∧
    (∀ r, hasBit d.h.pend r = (hasBit c.h.pend r && decide (r ≠ rd))) ∧
    (∀ r, hasBit d.h.mark r = if r = rd then v.getLsbD 63 else hasBit c.h.mark r)
  else d.h = c.h

/-! ### Copy, layout and DRAM forms (R266, R297, R337) -/

/-- Form, token register, address registers and orders of a copy form. -/
def copyForm (i : Instr) : Option (CpForm × XReg × XReg × XReg × Ord) :=
  match i with
  | .cpGo o d a b => some (.go, d, a, b, o)
  | .cpGomx o d a b => some (.gomx, d, a, b, o)
  | .cpGath o d a b => some (.gath, d, a, b, o)
  | .cpScat o d a b => some (.scat, d, a, b, o)
  | _ => none

/-- A 40-bit two's complement step. -/
def stepOf (w : Word) : Word := (w.setWidth 40).signExtend 64

/-- A DRAM form (R338 to R340): its sources, token register and orders, whether it is dram.reqv, and of row i the DRAM-side and the
local address. -/
def dramForms (i : Instr) (s : State) : Option (List XReg × XReg × Ord × Bool × (Nat → Word) × (Nat → Word)) :=
  match i with
  | .dramReq o d a b => some ([a, b], d, o, false, fun _ => s.x a, fun _ => s.x b)
  | .dramReqv o d a v => some ([a], d, o, true, fun i => s.x a + (s.v v).extractLsb' (64 * i) 64,
      fun i => s.core.eng 0x52 + BitVec.ofNat 64 i * stepOf (s.core.eng 0x53))
  | _ => none

/-! ### Tensor shape records (R291 to R294, R298, R299), read from the bytes of a record as one number -/

def recRank (v : Nat) : Nat := v / 2 ^ 72 % 8
def recFmt (v : Nat) : BitVec 4 := BitVec.ofNat 4 (v / 2 ^ 64 % 16)
def recExt (v d : Nat) : Nat := v / 2 ^ (8 * (16 + 3 * d)) % 2 ^ 24
def recStr (v d : Nat) : Int :=
  let x : Nat := v / 2 ^ (8 * (34 + 5 * d)) % 2 ^ 40
  if x < 2 ^ 39 then x else (x : Int) - 2 ^ 40

/-- t holds the fields of a record. -/
def Tsr.Of (t : Tsr) (v : Nat) : Prop :=
  t.base.toNat = v % 2 ^ 64 ∧ t.fmt = recFmt v ∧ t.ov = v.testBit 80 ∧
  t.ext = (List.range (recRank v)).map (recExt v) ∧ t.str = (List.range (recRank v)).map (recStr v)

/-- Inner extents of the two splits, of the mapping word; 1 for a split that is not used. -/
def layInner (w : Word) (k : Nat) : Nat := 2 ^ (if k = 0 then w.toNat / 2 ^ 27 % 16 else w.toNat / 2 ^ 34 % 16)
/-- The dimension that a split names. -/
def laySplit (w : Word) (k : Nat) : Nat := if k = 0 then w.toNat / 2 ^ 24 % 8 else w.toNat / 2 ^ 31 % 8
/-- Extent of a source dimension as split k finds it. -/
def layBefore (v : Nat) (w : Word) (k d : Nat) : Nat :=
  if k = 1 ∧ d = laySplit w 0 then recExt v d / layInner w 0 else recExt v d
/-- The virtual dimensions, and the extent of each (R294). -/
def layVirtual (v : Nat) (w : Word) : List Nat :=
  List.range (recRank v) ++ (if layInner w 0 = 1 then [] else [6]) ++ if layInner w 1 = 1 then [] else [7]
def layExtent (v : Nat) (w : Word) (d : Nat) : Nat :=
  if d = 6 then layInner w 0
  else if d = 7 then layInner w 1
  else layBefore v w 1 d / if d = laySplit w 1 then layInner w 1 else 1
/-- The dimension of the destination that output dimension p is merged into. -/
def layGroup (w : Word) (p : Nat) : Nat := ((List.range p).filter fun d => !w.getLsbD (38 + d)).length

/-- The spacing test (R299): of the dimensions of more than one index, each takes a step, and each larger step takes the smaller
one's dimension whole. -/
def recSpaced (v : Nat) : Prop :=
  let wide (d : Nat) : Prop := d < recRank v ∧ 1 < recExt v d
  (∀ d, wide d → 1 ≤ (recStr v d).natAbs) ∧
  ∀ d e, wide d → wide e → d ≠ e → (recStr v d).natAbs ≤ (recStr v e).natAbs →
    (recStr v d).natAbs * recExt v d ≤ (recStr v e).natAbs

/-- The conditions of the table Issue checks for source record sv, destination record dv and mapping word w, in their order; 7 is no
failure, and check 10 has a number for each base (R298). -/
def layFails (sv dv : Nat) (w : Word) (n : Nat) : Prop :=
  let bad (v : Nat) : Prop :=
    v / 2 ^ 64 % 2 ^ 64 / 2 ^ 17 ≠ 0 ∨ v / 2 ^ 75 % 2 ^ 5 ≠ 0 ∨ v / 2 ^ 68 % 2 ^ 4 ≠ 0 ∨ 7 ≤ (recFmt v).toNat ∨
    recRank v = 0 ∨ recRank v = 7 ∨ ∃ d, d < 6 ∧ recRank v ≤ d ∧ (recExt v d ≠ 0 ∨ recStr v d ≠ 0)
  let l := layVirtual sv w
  let m (p : Nat) : Nat := w.toNat / 2 ^ (3 * p) % 8
  let e (v : Nat) : Nat := if fmtBits (recFmt v) = 6 then 1 else fmtBits (recFmt v) / 8
  match n with
  | 1 => bad sv
  | 2 => bad dv
  | 3 => w.toNat / 2 ^ 43 ≠ 0 ∨ ∃ k, k < 2 ∧ layInner w k = 1 ∧ laySplit w k ≠ 0
  | 4 => ∃ k, k < 2 ∧ layInner w k ≠ 1 ∧
      (recRank sv ≤ laySplit w k ∨ layBefore sv w k (laySplit w k) % layInner w k ≠ 0)
  | 5 => 6 < l.length
  | 6 => (∃ d ∈ l, (((List.range l.length).filter fun p => m p = d).length ≠ 1)) ∨
      (∃ p, p < 6 ∧ l.length ≤ p ∧ (m p ≠ 0 ∨ w.getLsbD (18 + p) = true)) ∨
      ∃ d, d < 5 ∧ l.length ≤ d + 1 ∧ w.getLsbD (38 + d) = true
  | 7 => (∃ d, d < recRank sv ∧ recExt sv d = 0) ∨ ∃ d, d < recRank dv ∧ recExt dv d = 0
  | 8 => recFmt dv ≠ recFmt sv
  | 9 => recRank dv ≠ layGroup w (l.length - 1) + 1 ∨ ∃ k, k < recRank dv ∧
      recExt dv k ≠ (((List.range l.length).filter fun p => layGroup w p = k).map fun p => layExtent sv w (m p)).foldl (· * ·) 1
  | 10 => sv % 2 ^ 64 % e sv ≠ 0
  | 11 => dv % 2 ^ 64 % e dv ≠ 0
  | 12 => ¬ recSpaced dv
  | 13 => sv.testBit 80 = false ∧ ¬ recSpaced sv
  | _ => False

/-- tval of cause 48 for a failing check. -/
def layTval (sa da : Word) (n : Nat) : Word :=
  if n = 3 ∨ n = 6 then 0 else if n = 2 ∨ n = 8 ∨ n = 9 ∨ n = 11 ∨ n = 12 then da else sa

/-- No page of any die is replicated. -/
def State.noReplicas (s : State) : Bool := s.dies.all fun p => p.2.pages.repl.isEmpty

/-- Nothing but memory of n bytes from a flat address, which take the bytes b gives, differs; no tag does. -/
def Mem.Copied (m m' : Mem) (f n : Nat) (b : Nat → Byte) : Prop :=
  (∀ g, m'.byte g = if f ≤ g ∧ g < f + n then b (g - f) else m.byte g) ∧ ∀ g, m'.tag g = m.tag g

/-- Parts (offset, length) of n bytes from an address: every byte lies in one of them, each within one aligned block of b bytes, and
no two in one block. -/
def tiles (b : Nat) (a : Word) (n : Nat) (l : List (Nat × Nat)) : Prop :=
  let block (k : Nat) : Nat := (a.toNat + k) / b
  (∀ p ∈ l, 0 < p.2 ∧ p.1 + p.2 ≤ n ∧ block (p.1 + p.2 - 1) = block p.1) ∧
  (∀ k, k < n → ∃ p ∈ l, p.1 ≤ k ∧ k < p.1 + p.2) ∧
  l.Nodup ∧ ∀ p ∈ l, ∀ q ∈ l, block p.1 = block q.1 → p = q

/-- Nothing but memory of n bytes from a flat address, which take the bytes b gives, differs; with fe each whole word of them is full,
and no other tag changes. -/
def Mem.Engined (m m' : Mem) (f n : Nat) (b : Nat → Byte) (fe : Bool) : Prop :=
  (∀ g, m'.byte g = if f ≤ g ∧ g < f + n then b (g - f) else m.byte g) ∧
  ∀ g, g % 8 = 0 → m'.tag g = if fe = true ∧ f ≤ g ∧ g + 8 ≤ f + n then { m.tag g with full := true } else m.tag g

/-- Whether what follows from writing a completion word stays with the word: there is none, its address is bad, or nothing
hears or watches it. -/
def State.quietFin (s : State) (slot : Nat) (fin : Word) : Bool :=
  fin == 0 || decide (fin.toNat % 8 ≠ 0) || !inWindow fin 8 || (s.unheard ((localFlat slot fin).getD 0) && s.noWatchers)

/-- A finished command hands over its token v. A completion word takes the same value and becomes full, and no other word
changes; a bad address for it drops it and becomes the token (R269, R302, R341). -/
def State.Completes (s t : State) (slot : Nat) (rd : XReg) (serial : Nat) (fin v : Word) : Prop :=
  let f := (localFlat slot fin).getD 0
  let arrives (v : Word) : Prop := (s.coreAt slot).TokenArrives (t.coreAt slot) rd serial v
  if fin = 0 then t.mem = s.mem ∧ arrives v
  else if fin.toNat % 8 ≠ 0 ∨ inWindow fin 8 = false then t.mem = s.mem ∧ arrives 0x8000000000000011
  else arrives v ∧ t.mem.word f = v ∧ t.mem.tag f = { full := true } ∧
    ∀ g, wordAt g ≠ f → t.mem.byte g = s.mem.byte g ∧ t.mem.tag g = s.mem.tag g

/-! ### Near-bank and barrier forms (R276, R277, R279, R282) -/

/-- Operation, double width, orders, destination, address register and operand register of a scalar near-bank form. -/
def nbScalar (i : Instr) : Option (NbForm × Bool × Ord × XReg × XReg × XReg) :=
  match i with
  | .nbAddD o d a b => some (.add, true, o, d, a, b)
  | .nbAddW o d a b => some (.add, false, o, d, a, b)
  | .nbAddfD o d a b => some (.addf, true, o, d, a, b)
  | .nbAddfW o d a b => some (.addf, false, o, d, a, b)
  | .nbFaddD o d a b => some (.fadd, true, o, d, a, b)
  | .nbFaddW o d a b => some (.fadd, false, o, d, a, b)
  | .nbMinD o a b => some (.minmax 0, true, o, 0, a, b)
  | .nbMinW o a b => some (.minmax 0, false, o, 0, a, b)
  | .nbMaxD o a b => some (.minmax 1, true, o, 0, a, b)
  | .nbMaxW o a b => some (.minmax 1, false, o, 0, a, b)
  | .nbMinuD o a b => some (.minmax 2, true, o, 0, a, b)
  | .nbMinuW o a b => some (.minmax 2, false, o, 0, a, b)
  | .nbMaxuD o a b => some (.minmax 3, true, o, 0, a, b)
  | .nbMaxuW o a b => some (.minmax 3, false, o, 0, a, b)
  | .nbFminD o a b => some (.minmax 4, true, o, 0, a, b)
  | .nbFminW o a b => some (.minmax 4, false, o, 0, a, b)
  | .nbFmaxD o a b => some (.minmax 5, true, o, 0, a, b)
  | .nbFmaxW o a b => some (.minmax 5, false, o, 0, a, b)
  | .nbAndD o a b => some (.logic 0, true, o, 0, a, b)
  | .nbAndW o a b => some (.logic 0, false, o, 0, a, b)
  | .nbOrD o a b => some (.logic 1, true, o, 0, a, b)
  | .nbOrW o a b => some (.logic 1, false, o, 0, a, b)
  | .nbXorD o a b => some (.logic 2, true, o, 0, a, b)
  | .nbXorW o a b => some (.logic 2, false, o, 0, a, b)
  | .nbSwapD o d a b => some (.swap, true, o, d, a, b)
  | .nbSwapW o d a b => some (.swap, false, o, d, a, b)
  | .nbCasD o d a b => some (.cas, true, o, d, a, b)
  | .nbCasW o d a b => some (.cas, false, o, d, a, b)
  | _ => none

/-- Selector, double width, orders, address registers of a line near-bank form. -/
def nbLine (i : Instr) : Option (Nat × Bool × Ord × XReg × XReg) :=
  match i with
  | .nbVaddD o a b => some (0, true, o, a, b)
  | .nbVaddW o a b => some (0, false, o, a, b)
  | .nbVfaddD o a b => some (1, true, o, a, b)
  | .nbVfaddW o a b => some (1, false, o, a, b)
  | .nbVfminD o a b => some (2, true, o, a, b)
  | .nbVfminW o a b => some (2, false, o, a, b)
  | .nbVfmaxD o a b => some (3, true, o, a, b)
  | .nbVfmaxW o a b => some (3, false, o, a, b)
  | .nbVandD o a b => some (4, true, o, a, b)
  | .nbVandW o a b => some (4, false, o, a, b)
  | .nbVorD o a b => some (5, true, o, a, b)
  | .nbVorW o a b => some (5, false, o, a, b)
  | .nbVxorD o a b => some (6, true, o, a, b)
  | .nbVxorW o a b => some (6, false, o, a, b)
  | _ => none

/-- Form, orders, destination and address register of a barrier form. -/
def barAsk (i : Instr) : Option (BarForm × Ord × XReg × XReg) :=
  match i with
  | .barArrive o d a => some (.arrive, o, d, a)
  | .barJoin o d a => some (.join, o, d, a)
  | .barLeave o a => some (.leave, o, 0, a)
  | .barPhase o d a => some (.phase, o, d, a)
  | _ => none

/-- The near-bank operation that an AMO is on cluster memory (R96). -/
def amoNb (i : Instr) : NbForm :=
  match i with
  | .amoaddW .. | .amoaddD .. => .add
  | .amoxorW .. | .amoxorD .. => .logic 2
  | .amoandW .. | .amoandD .. => .logic 0
  | .amoorW .. | .amoorD .. => .logic 1
  | .amominW .. | .amominD .. => .minmax 0
  | .amomaxW .. | .amomaxD .. => .minmax 1
  | .amominuW .. | .amominuD .. => .minmax 2
  | .amomaxuW .. | .amomaxuD .. => .minmax 3
  | _ => .swap

/-- A posted form retires into the store buffer. -/
def State.Posts (s t : State) (e : SbEntry) : Prop :=
  s.OnlyCoreDue t ∧ t.core = ({ s.core with e.sb := s.core.e.sb ++ [e] } : Core).counted (s.core.h.pc + 4) ∧
  t.agenda = s.agenda ++ [{ ev := .storeBufferDrain, arg := { place := s.cur } }]

/-- A fetching form is on its way: its hart waits for the reply, the form stands in its cluster's queue, and its turn is
due. -/
def State.Fetches (s t : State) (rd : XReg) (cl : Nat) (c : Cluster) (ev : Instr) : Prop :=
  { t with cores := s.cores, clusters := s.clusters, agenda := s.agenda } = s ∧
  (∀ n, n ≠ s.cur → t.coreAt n = s.coreAt n) ∧ (∀ n, n ≠ cl → t.clusterAt n = s.clusterAt n) ∧ t.clusterAt cl = c ∧
  t.core = { s.core with h.wait := some { rd := rd } } ∧ t.agenda = s.agenda ++ [{ ev := ev, arg := { place := cl } }]

/-- A fetching form with these orders goes to a cluster's unit at once: it stays on the die, or no clock orders it. -/
def State.reachesAtOnce (s : State) (o : Ord) (cl : Nat) : Bool :=
  slotDie s.cur == clusterDie cl || (!(o.rl && o.scope == 3) && !(o.aq && o.scope == 3) && !s.core.firstAcquire)

/-- A posted form with these orders waits for no engine command before it: it stays on the die, or no release at wafer scope asks for
it, or each such command has made its writes (R385). -/
def State.postsAtOnce (s : State) (o : Ord) (cl : Nat) : Bool :=
  slotDie s.cur == clusterDie cl || !(o.rl && o.scope == 3) || s.earlierLeft s.cur s.core.e.issued

/-- A hart's fetching form has got its reply, which is due to reach it. -/
def State.Answered (s t : State) (slot : Nat) (r : NbReply) : Prop :=
  (t.coreAt slot).h.wait = (s.coreAt slot).h.wait.map (fun w => { w with reply := some r }) ∧
  ({ ev := .nbReply, arg := { place := slot } } : Due) ∈ t.agenda

/-- A barrier object: its words as numbers (R281). -/
structure BarObj where
  phase : Nat
  mask : Nat
  lead : Nat → Nat
  arrived : Nat
  observed : Nat

/-- The object that memory holds at a flat address. -/
def barObj (m : Mem) (f : Nat) : BarObj :=
  { phase := littleEndian m.byte f 4, mask := littleEndian m.byte (f + 0x40) 2,
    lead := fun i => littleEndian m.byte (f + 0x48) 4 / 4 ^ i % 4, arrived := littleEndian m.byte (f + 0x48) 2,
    observed := littleEndian m.byte (f + 0x50) 2 }

/-- Complete of R283: as many phases as the least lead of a member. -/
def BarObj.complete (b : BarObj) : BarObj :=
  let r := (((List.range 16).filter b.mask.testBit).map b.lead).min?.getD 0
  { b with phase := (b.phase + r) % 2 ^ 32, lead := fun i => if b.mask.testBit i then b.lead i - r else b.lead i }

/-- A form of member m on a kind 0 object (R283): the object after it, and rd. -/
def BarObj.cluster (b : BarObj) (form : BarForm) (m : Nat) : BarObj × Nat :=
  let lead (v : Nat) : Nat → Nat := fun i => if i = m then v else b.lead i
  match form with
  | .arrive =>
    if b.lead m = 3 then (b, 0)
    else (({ b with lead := lead (b.lead m + 1) } : BarObj).complete, 2 ^ 32 + (b.phase + b.lead m + 1) % 2 ^ 32)
  | .join =>
    (if b.mask.testBit m then b else { b with mask := b.mask + 2 ^ m, lead := lead 0 }, 2 ^ 32 + b.phase)
  | .leave =>
    (({ b with mask := if b.mask.testBit m then b.mask - 2 ^ m else b.mask, lead := lead 0 } : BarObj).complete, 0)
  | .phase => (b, b.phase)

/-- A form on a kind 1 object (R284). -/
def BarObj.wide (b : BarObj) (form : BarForm) : BarObj × Nat :=
  let complete (b : BarObj) : BarObj :=
    if 0 < b.mask ∧ b.mask ≤ b.arrived then { b with arrived := 0, observed := 0, phase := (b.phase + 1) % 2 ^ 32 } else b
  match form with
  | .arrive =>
    if b.observed < b.mask then (b, 0) else (complete { b with arrived := b.arrived + 1 }, 2 ^ 32 + (b.phase + 1) % 2 ^ 32)
  | .join =>
    if b.mask = 65535 then (b, 0) else ({ b with mask := b.mask + 1, observed := b.observed + 1 }, 2 ^ 32 + b.phase)
  | .leave =>
    if b.mask = 0 then (b, 0)
    else (complete { b with mask := b.mask - 1, observed := min b.observed (b.mask - 1) }, 0)
  | .phase => (if b.observed < b.mask then { b with observed := b.observed + 1 } else b, b.phase)

/-! ### Vector forms (R128 to R156) -/

/-- Whether element j is active under a mask (R16, R129): k0 activates every one. -/
def State.isActive (s : State) (km : KReg) (j : Nat) : Bool := km == 0 || (s.k km).getLsbD j

/-- Element j of width n of a v register. -/
def State.lane (s : State) (r : VReg) (n j : Nat) : BitVec n := (s.v r).extractLsb' (n * j) n

/-- What a vector form writes: its x sources, mask and destination; the width of the destination's elements, how many the mask
governs and the destination element of the first; the value and flags of each. -/
structure VecOut where
  srcs : List XReg
  km : KReg
  vd : VReg
  n : Nat
  cnt : Nat
  off : Nat
  val : Nat → Nat × Flags

/-- Integer and permute forms (R135, R151). -/
def vecInt (i : Instr) (s : State) : Option VecOut :=
  let out (w : BitVec 2) (srcs : List XReg) (km : KReg) (vd : VReg) (f : (n : Nat) → Nat → Nat) : Option VecOut :=
    let n := 8 * 2 ^ w.toNat
    some { srcs := srcs, km := km, vd := vd, n := n, cnt := 512 / n, off := 0, val := fun j => (f n j, 0) }
  let two (w : BitVec 2) (km : KReg) (vd a b : VReg) (f : (n : Nat) → BitVec n → BitVec n → Int) : Option VecOut :=
    out w [] km vd fun n j => (BitVec.ofInt n (f n (s.lane a n j) (s.lane b n j))).toNat
  match i with
  | .vadd w km vd a b => two w km vd a b fun _ x y => x.toInt + y.toInt
  | .vsub w km vd a b => two w km vd a b fun _ x y => x.toInt - y.toInt
  | .vmul w km vd a b => two w km vd a b fun _ x y => x.toInt * y.toInt
  | .vmulh w km vd a b => two w km vd a b fun n x y => x.toInt * y.toInt / 2 ^ n
  | .vmin w km vd a b => two w km vd a b fun _ x y => min x.toInt y.toInt
  | .vminu w km vd a b => two w km vd a b fun _ x y => (min x.toNat y.toNat : Nat)
  | .vmax w km vd a b => two w km vd a b fun _ x y => max x.toInt y.toInt
  | .vmaxu w km vd a b => two w km vd a b fun _ x y => (max x.toNat y.toNat : Nat)
  | .vand w km vd a b => two w km vd a b fun _ x y => (x &&& y).toInt
  | .vor w km vd a b => two w km vd a b fun _ x y => (x ||| y).toInt
  | .vxor w km vd a b => two w km vd a b fun _ x y => (x ^^^ y).toInt
  | .vsll w km vd a b => two w km vd a b fun n x y => (x.toNat * 2 ^ (y.toNat % n) : Nat)
  | .vsrl w km vd a b => two w km vd a b fun n x y => (x.toNat / 2 ^ (y.toNat % n) : Nat)
  | .vsra w km vd a b => two w km vd a b fun n x y => x.toInt / 2 ^ (y.toNat % n)
  | .vperm w km vd a b => out w [] km vd fun n j =>
      if (s.lane b n j).toNat < 512 / n then (s.lane a n (s.lane b n j).toNat).toNat else 0
  | .vzip w km vd a b => out w [] km vd fun n j => if j % 2 = 0 then (s.lane a n (j / 2)).toNat else (s.lane b n (j / 2)).toNat
  | .vuzp w km vd a b => out w [] km vd fun n j =>
      if j < 256 / n then (s.lane a n (2 * j)).toNat else (s.lane b n (2 * j - 512 / n)).toNat
  | .vslup w km vd a r => out w [r] km vd fun n j =>
      if (s.x r).toNat ≤ j then (s.lane a n (j - (s.x r).toNat)).toNat else 0
  | .vsldn w km vd a r => out w [r] km vd fun n j =>
      if j + (s.x r).toNat < 512 / n then (s.lane a n (j + (s.x r).toNat)).toNat else 0
  | .vsplat w km vd r => out w [r] km vd fun _ _ => (s.x r).toNat
  | _ => none

/-- Floating-point forms, conversions and dot products (R132, R136 to R143, R156). -/
def vecFloat (i : Instr) (s : State) : Option VecOut :=
  let rm := s.core.g.frm
  let top := s.core.g.top
  let out (km : KReg) (vd : VReg) (n cnt off : Nat) (f : Nat → Nat × Flags) : Option VecOut :=
    some { srcs := [], km := km, vd := vd, n := n, cnt := cnt, off := off, val := f }
  let three (w : BitVec 2) (km : KReg) (vd a b : VReg) (f : Fmt → Nat → Nat → Nat → Nat × Flags) : Option VecOut :=
    let n := (vFmt w).width
    out km vd n (512 / n) 0 fun j => f (vFmt w) (s.lane a n j).toNat (s.lane b n j).toNat (s.lane vd n j).toNat
  let sign (f : Fmt) (x : Nat) (neg : Bool) : Nat × Flags :=
    (x % 2 ^ (f.width - 1) + (if neg then 2 ^ (f.width - 1) else 0), 0)
  match i with
  | .vfadd w km vd a b => three w km vd a b fun f x y _ => f.add rm x y
  | .vfsub w km vd a b => three w km vd a b fun f x y _ => f.sub rm x y
  | .vfmul w km vd a b => three w km vd a b fun f x y _ => f.mul rm x y
  | .vfdiv w km vd a b => three w km vd a b fun f x y _ => f.div rm x y
  | .vfsqrt w km vd a => three w km vd a a fun f x _ _ => f.sqrt rm x
  | .vfmin w km vd a b => three w km vd a b fun f x y _ => f.minmax false x y
  | .vfmax w km vd a b => three w km vd a b fun f x y _ => f.minmax true x y
  | .vfmadd w km vd a b => three w km vd a b fun f x y z => f.fma rm false false x y z
  | .vfmsub w km vd a b => three w km vd a b fun f x y z => f.fma rm false true x y z
  | .vfnmadd w km vd a b => three w km vd a b fun f x y z => f.fma rm true true x y z
  | .vfnmsub w km vd a b => three w km vd a b fun f x y z => f.fma rm true false x y z
  | .vfsgnj w km vd a b => three w km vd a b fun f x y _ => sign f x (y.testBit (f.width - 1))
  | .vfsgnjn w km vd a b => three w km vd a b fun f x y _ => sign f x (!y.testBit (f.width - 1))
  | .vfclass w km vd a => three w km vd a a fun f x _ _ => (f.classOf x, 0)
  | .vcvtf w km src vd a =>
    let m := (vFmt src).width
    let n := (vFmt w).width
    out km vd n (512 / max m n) 0 fun j => cvtF (vFmt src) (vFmt w) rm (s.lane a m j).toNat
  | .vcvti w km vd a =>
    let n := (vFmt w).width
    out km vd n (512 / n) 0 fun j => (vFmt w).ofInt rm (s.lane a n j).toInt
  | .vcvtx w km vd a =>
    let n := (vFmt w).width
    out km vd n (512 / n) 0 fun j =>
      let r := (vFmt w).toInt rm n (s.lane a n j).toNat
      ((BitVec.ofInt n r.1).toNat, r.2)
  | .vtenc w km p vd a => out km vd (if w = 0 then 8 else 6) 16 (16 * p.toNat) fun j =>
      (if w = 0 then Taper.t8 else Taper.t6).round top (fp32.decode (s.lane a 32 j).toNat)
  | .vtdec w km p vd a =>
    if w.toNat = 2 then none
    else
      let n := if w = 0 then 8 else 6
      out km vd 32 16 0 fun j =>
        ((fp32.round rne ((if w = 0 then Taper.t8 else Taper.t6).decode top (s.lane a n (16 * p.toNat + j)).toNat)).1, 0)
  | .vrepkPack km p vd a => out km vd 6 16 (16 * p.toNat) fun j => ((s.lane a 8 (16 * p.toNat + j)).toNat, 0)
  | .vrepkUnpk km p vd a => out km vd 8 16 (16 * p.toNat) fun j => ((s.lane a 6 (16 * p.toNat + j)).toNat, 0)
  | .vdot4 w km vd a b => out km vd 32 16 0 fun j =>
      let q := (List.range 4).map fun k => (s.lane a 8 (4 * j + k), s.lane b 8 (4 * j + k))
      if w = 1 then
        ((BitVec.ofInt 32 ((s.lane vd 32 j).toInt + (q.map fun p => p.1.toInt * p.2.toInt).sum)).toNat, 0)
      else dotLane top rm (s.lane vd 32 j).toNat (q.map fun p => (p.1.toNat, p.2.toNat))
  | _ => none

/-- Flags that the active elements of a form raise. -/
def State.activeFlags (s : State) (km : KReg) (cnt : Nat) (f : Nat → Flags) : Flags :=
  (List.range cnt).foldl (fun acc j => if s.isActive km j then acc ||| f j else acc) 0

/-- The register o.vd, bit by bit, after a form: active elements take their values, every other bit stays. -/
def State.VecWrites (s t : State) (o : VecOut) : Prop :=
  s.OnlyCore t ∧ (∀ r, r ≠ o.vd → t.v r = s.v r) ∧
  t.core = ({ s.core with
    h.v := t.core.h.v, g.fflags := s.core.g.fflags ||| s.activeFlags o.km o.cnt fun j => (o.val j).2 } : Core).counted
    (s.core.h.pc + 4) ∧
  ∀ b, b < 512 → (t.v o.vd).getLsbD b =
    let j := b / o.n - o.off
    if o.n * o.off ≤ b ∧ j < o.cnt ∧ s.isActive o.km j = true then (o.val j).1.testBit (b % o.n)
    else (s.v o.vd).getLsbD b

/-- Mask, destination, width and the comparison of two elements, with its flags, of a compare (R144). -/
def vecCompare (i : Instr) (s : State) : Option (KReg × KReg × Nat × (Nat → Bool × Flags)) :=
  match i with
  | .vcmpeq w km kd a b =>
    let n := 8 * 2 ^ w.toNat
    some (km, kd, n, fun j => (s.lane a n j == s.lane b n j, 0))
  | .vcmplt w km kd a b =>
    let n := 8 * 2 ^ w.toNat
    some (km, kd, n, fun j => (decide ((s.lane a n j).toInt < (s.lane b n j).toInt), 0))
  | .vcmpltu w km kd a b =>
    let n := 8 * 2 ^ w.toNat
    some (km, kd, n, fun j => (decide ((s.lane a n j).toNat < (s.lane b n j).toNat), 0))
  | .vfcmpeq w km kd a b =>
    let n := (vFmt w).width
    some (km, kd, n, fun j => (vFmt w).eqv (s.lane a n j).toNat (s.lane b n j).toNat)
  | .vfcmplt w km kd a b =>
    let n := (vFmt w).width
    some (km, kd, n, fun j => (vFmt w).ltv (s.lane a n j).toNat (s.lane b n j).toNat)
  | _ => none

/-- Sources, destination and value of a mask form (R145). -/
def maskForm (i : Instr) (s : State) : Option (List XReg × KReg × Word) :=
  match i with
  | .kand d a b => some ([], d, s.k a &&& s.k b)
  | .kor d a b => some ([], d, s.k a ||| s.k b)
  | .kxor d a b => some ([], d, s.k a ^^^ s.k b)
  | .kmv d a => some ([a], d, s.x a)
  | _ => none

/-- Address of element j of a vector memory form, by its form (R146). -/
def elemAddr (s : State) (n : Nat) (a : XReg) (k : Nat) (r : XReg) (v : VReg) (j : Nat) : Word :=
  s.x a + (if k = 0 then BitVec.ofNat 64 (n / 8 * j) else if k = 1 then s.x r * BitVec.ofNat 64 j
    else if k = 2 then BitVec.ofNat 64 (n / 8 * (s.lane v n j).toNat) else 0)

/-- Sources, width, mask, destination and addresses of a vector load; vldb reads one address for every element. -/
def vecLoad (i : Instr) (s : State) : Option (List XReg × Nat × KReg × VReg × (Nat → Word)) :=
  match i with
  | .vld w km vd a => some ([a], 8 * 2 ^ w.toNat, km, vd, elemAddr s (8 * 2 ^ w.toNat) a 0 0 0)
  | .vlds w km vd a b => some ([a, b], 8 * 2 ^ w.toNat, km, vd, elemAddr s (8 * 2 ^ w.toNat) a 1 b 0)
  | .vldx w km vd a v => some ([a], 8 * 2 ^ w.toNat, km, vd, elemAddr s (8 * 2 ^ w.toNat) a 2 0 v)
  | .vldb w km vd a => some ([a], 8 * 2 ^ w.toNat, km, vd, elemAddr s (8 * 2 ^ w.toNat) a 3 0 0)
  | _ => none

/-- Sources, width, active elements with their addresses and values of a vector store, or of kst. -/
def vecStore (i : Instr) (s : State) : Option (List XReg × Nat × List (Word × Nat)) :=
  let out (w : BitVec 2) (km : KReg) (vs : VReg) (srcs : List XReg) (f : Nat → Word) : Option (List XReg × Nat × List (Word × Nat)) :=
    let n := 8 * 2 ^ w.toNat
    some (srcs, n, ((List.range (512 / n)).filter (s.isActive km)).map fun j => (f j, (s.lane vs n j).toNat))
  match i with
  | .vst w km vs a => out w km vs [a] (elemAddr s (8 * 2 ^ w.toNat) a 0 0 0)
  | .vsts w km vs a b => out w km vs [a, b] (elemAddr s (8 * 2 ^ w.toNat) a 1 b 0)
  | .vstx w km vs a v => out w km vs [a] (elemAddr s (8 * 2 ^ w.toNat) a 2 0 v)
  | .kst k a => some ([a], 64, [(s.x a, (s.k k).toNat)])
  | _ => none

/-- n bytes at an address may be read at once: aligned, in one window, of a clean word that no posted form acts on, while no
transfer through the crossbar fails. -/
def State.mayLoad (s : State) (a : Word) (n : Nat) : Bool :=
  s.crc == [] && decide (a.toNat % n = 0) && inWindow a n && s.clean (s.flat a) && !s.core.postedOn (wordAt (s.flat a))

/-- Width, mask, destination, source, start register, operation and widening of a reduction (R152). -/
def vecReduce (i : Instr) (s : State) :
    Option (Nat × KReg × XReg × VReg × XReg × (Nat → Nat → Nat × Flags) × (Nat → Word)) :=
  match i with
  | .vredadd w km d v a =>
    let n := 8 * 2 ^ w.toNat
    some (n, km, d, v, a, fun x y => ((x + y) % 2 ^ n, 0), fun x => (BitVec.ofNat n x).signExtend 64)
  | .vfredadd w km d v a => some ((vFmt w).width, km, d, v, a, (vFmt w).add s.core.g.frm, BitVec.ofNat 64)
  | .vfredmax w km d v a => some ((vFmt w).width, km, d, v, a, (vFmt w).minmax true, BitVec.ofNat 64)
  | _ => none

/-! ### Forms inside an open entry (R98, R183, R184) -/

/-- The object of n words at an address aligned to m bytes can be read inside an entry: in a transaction none of its words is
buffered, and the read set has room for k lines more. -/
def State.readsIn (s : State) (a : Word) (m n k : Nat) : Bool :=
  s.readable a m n && (!s.core.inTxn || (decide (s.core.r.rset.length + k ≤ 64) && (List.range n).all fun i =>
    (FMap.find s.core.r.wset (wordAt (s.flat (a + BitVec.ofNat 64 (8 * i))))).isNone))

/-- The hart has gone on past a form whose effect waits in the hold buffer at the depth of the innermost entry; a token register of
the command is pending. Of the core nothing else changed but its read set and, where a form claims them, its message and actor state. -/
def State.Holds (s t : State) (op : HeldOp) (rd : XReg) : Prop :=
  let c := s.core
  s.OnlyCore t ∧
  t.core = ({ c with
    r.hold := c.r.hold ++ [{ op := op, depth := c.r.stack.length, rd := rd }], r.rset := t.core.r.rset,
    h.pend := t.core.h.pend, h.hpend := t.core.h.hpend, m := t.core.m, q := t.core.q } : Core).counted (c.h.pc + 4) ∧
  (c.inTxn = false → t.core.r.rset = c.r.rset) ∧
  (∀ r, hasBit t.core.h.pend r = (hasBit c.h.pend r || decide (r = rd ∧ rd ≠ 0))) ∧
  ∀ r, hasBit t.core.h.hpend r = (hasBit c.h.hpend r || decide (r = rd ∧ rd ≠ 0))

/-- An instruction's effect is held, with what P says of the core's message and actor state; a full hold buffer raises cause 27 with
tval 1. -/
def State.HoldsForm (s : State) (i : Instr) (op : HeldOp) (rd : XReg) (P : Core → Prop) : Prop :=
  if s.core.r.hold.length < 64 then ∃ t, exec i s = .next t ∧ s.Holds t op rd ∧ P t.core
  else ∃ t, exec i s = .next t ∧ s.Traps t 27 1

/-- Sources and destinations of a form that raises cause 49 inside an open entry: task.end and task.chain, barrier forms, system forms
in a mode that may make them, near-bank forms and cluster AMOs that fetch, and in a transaction AMOs on scratchpad, lr and sc. -/
def misused (i : Instr) (s : State) : Option (List XReg × List XReg) :=
  match i with
  | .taskEnd => some ([], [])
  | .taskChain a => some ([a], [])
  | .sysFreeze => if s.core.h.mode = .u then none else some ([], [])
  | i => match barAsk i, netForm i s, nbScalar i, amoForm i, lrForm i, scForm i with
    | some (_, _, rd, a), _, _, _, _, _ => some ([a], [rd])
    | _, some (_, _, _, srcs, rd, _), _, _, _, _ => some (srcs, [rd])
    | _, _, some (form, _, _, rd, a, b), _, _, _ =>
      if form = .cas then some ([a, b, rd], [rd]) else if rd = 0 then none else some ([a, b], [rd])
    | _, _, _, some (rd, a, b, _), _, _ =>
      let far := decide (0x1000000 ≤ (s.x a).toNat) && decide ((s.x a).toNat < 0x2000000)
      if (far && rd != 0) || (s.core.inTxn && decide ((s.x a).toNat < spSize)) then some ([a, b], [rd]) else none
    | _, _, _, _, some (rd, a, _), _ => if s.core.inTxn then some ([a], [rd]) else none
    | _, _, _, _, _, some (rd, a, b, _) => if s.core.inTxn then some ([a, b], [rd]) else none
    | _, _, _, _, _, _ => none

/-! ### Events between instructions -/

/-- What a control register reads after the event of its write of v, given its old value: its writable fields take v's bits,
and a field keeps its value for a code that the field does not hold (R22 to R33, R159, R162, R164). none: not listed. -/
def ctlRead (ev : Instr) (a : Nat) (old v : Word) : Option Word :=
  let put (mask : Word) : Option Word := some ((old &&& ~~~mask) ||| (v &&& mask))
  match ev with
  | .gvfmtWrite => if a = 0x800 ∨ a = 0x801 ∨ a = 0x802 then (if v.toNat % 16 ≤ 6 then some (v &&& 15) else some old) else none
  | .gvcodesWrite => if a = 0x80B then some (v &&& 0xFFF80) else none
  | .gvfrmWrite => if a = 0x807 then (if v.toNat % 8 ≤ 4 then some (v &&& 7) else some old) else none
  | .gvbudWrite => if a = 0x5C0 then some (BitVec.ofNat 64 (max 0x1000 (v.toNat % 2 ^ 32))) else none
  | .xtvecWrite => if a = 0x305 ∨ a = 0x105 then some ((v &&& ~~~3) ||| ((if v.getLsbD 1 then old else v) &&& 3)) else none
  | .gvundoWrite => if a = 0x809 ∨ a = 0x80A then some (v &&& 0xFFFC0) else none
  | .csrWrite =>
    if a = 0x803 ∨ a = 0x804 then some (v &&& (if v.getLsbD 24 then 0x8000000001FFFFE0 else 0x80000000000FFFE0))
    else if a = 0x805 then some (v &&& 1)
    else if a = 0x806 then some (v &&& 63)
    else if a = 0x808 then put 15
    else if a = 0x5C1 then some (v &&& 0x000FFFE0000FFFE0)
    else if a = 0x5C2 then some (v &&& 0x00FFFFFF000FFFC0)
    else if a = 0x141 ∨ a = 0x341 then some (v &&& ~~~3)
    else if a = 0x300 then put (if v.extractLsb' 11 2 = 2 then 0x7001AA else 0x7019AA)
    else if a = 0x100 then put 0x122
    else if a = 0x302 then some (v &&& 0x00030000FF0003FF)
    else if a = 0x303 ∨ a = 0x304 then some (v &&& 0x222)
    else if [0x140, 0x142, 0x143, 0x14D, 0x340, 0x342, 0x343].contains a then some v
    else none
  | _ => none

/-- The interrupt of a code is taken (R158, R159, R163, R165): to S where delegated and not from M, else to M; the pc is saved,
0 where no task runs; tval is 0; the pc is the handler's base, plus 4 × code in vectored mode. -/
def State.Interrupts (s t : State) (code : Nat) : Prop :=
  let c := s.core
  let st := c.c.mstatus
  let cause := BitVec.ofNat 64 (2 ^ 63 + code)
  let pc : Word := if c.h.hs = .idle then 0 else c.h.pc
  let at_ (v : Word) : Word := (v &&& ~~~3) + (if v &&& 3 = 1 then BitVec.ofNat 64 (4 * code) else 0)
  s.OnlyCore t ∧
  if c.mode ≠ .m ∧ c.c.mideleg.getLsbD code = true then
    t.core = { c with
      t.sepc := pc, t.scause := cause, t.stval := 0, h.mode := .s, h.hs := .run, h.pc := at_ c.c.stvec, h.resv := none,
      h.traps := BitVec.ofNat 8 code :: c.h.traps, c.mstatus := t.core.c.mstatus } ∧
    (∀ n, t.core.c.mstatus.getLsbD n =
      if n = 1 then false else if n = 5 then st.getLsbD 1 else if n = 8 then decide (c.mode = .s) else st.getLsbD n)
  else
    t.core = { c with
      t.mepc := pc, t.mcause := cause, t.mtval := 0, h.mode := .m, h.hs := .run, h.pc := at_ c.c.mtvec, h.resv := none,
      h.traps := BitVec.ofNat 8 code :: c.h.traps, c.mstatus := t.core.c.mstatus } ∧
    (∀ n, t.core.c.mstatus.getLsbD n =
      if n = 3 then false else if n = 7 then st.getLsbD 3 else if n = 11 then decide (c.mode ≠ .u)
      else if n = 12 then decide (c.mode = .m) else st.getLsbD n)

/-- The word of memory at a flat address, and n words from there. -/
def Mem.holds (m : Mem) (f : Nat) (l : List Word) : Prop := ∀ j, j < l.length → m.word (f + 8 * j) = l.getD j 0

/-- Nothing of memory but n bytes from a flat address differs. -/
def Mem.outside (m m' : Mem) (f n : Nat) : Prop := ∀ g, g < f ∨ f + n ≤ g → m'.byte g = m.byte g

/-- One result more is on its way from a system form to its issuer (R122). -/
def State.ResultSent (s t : State) (c : SysCmd) (v : Word) : Prop :=
  (t.coreAt c.issuer).m.results
      = (s.coreAt c.issuer).m.results ++ [{ rd := c.rd, serial := c.serial, value := v }] ∧
  ({ ev := .sysResultReturn, arg := { place := c.issuer } } : Due) ∈ t.agenda

/-- Sample slot i of a core holds a fresh value, its number one higher (R263). -/
def Core.Sampled (c d : Core) (i value : Nat) : Prop :=
  let old := (FMap.get 0 c.u.samples i).toNat / 2 ^ 48
  (FMap.get 0 d.u.samples i).toNat = (old + 1) % 2 ^ 16 * 2 ^ 48 + 2 ^ 47 + value % 2 ^ 47

/-- A scrubber's visit of the word at f where the die has no mailbox (R198, R200): a valid codeword stays, one flipped bit
is put right, two poison the word. -/
def Mem.Visited (m m' : Mem) (f : Nat) : Prop :=
  (∀ g, wordAt g ≠ f → m'.byte g = m.byte g ∧ m'.tag g = m.tag g) ∧
  ((m.tag f).flips = 0 → m' = m) ∧
  (∀ i, i < 72 → (m.tag f).flips = 1#72 <<< i →
    m'.word f = m.word f ^^^ (if i < 64 then 1#64 <<< i else 0) ∧ m'.tag f = { m.tag f with flips := 0 }) ∧
  ∀ i j, i < j → j < 72 → (m.tag f).flips = (1#72 <<< i) ||| (1#72 <<< j) →
    m'.word f = m.word f ∧ m'.tag f = { m.tag f with poison := true }

/-- An event is due at every die. -/
def State.dueEverywhere (t : State) (ev : Instr) : Prop :=
  ∀ d, d < dieCount → ({ ev := ev, arg := { place := d } } : Due) ∈ t.agenda

/-- t differs from s in the load's state and in the events that are due alone. -/
def State.OnlyLoad (s t : State) : Prop :=
  { t with wafer := { t.wafer with load := s.wafer.load }, agenda := s.agenda } = s

/-- A core that holds no job and that nothing keeps. -/
def Core.vacant (c : Core) : Bool :=
  c.u.job.isNone && !c.u.whold && c.u.swap.isNone && c.u.scan.isNone && !c.u.failed && c.q.fifo.isEmpty && c.q.ring.isEmpty
    && c.q.waitq.isEmpty && c.m.inq.isEmpty

/-- A frame has gone to the control node under the next number of its direction, and nothing else of the Planak ports changed
(R414). -/
def State.SendsFrame (s t : State) (f : Frame) : Prop :=
  let k := s.wafer.planak
  t.wafer.planak = { k with toNode := k.toNode ++ [{ f with seq := k.frames }], frames := k.frames + 1 }

/-- The mailbox of a die as the rules use it: the wafer runs, its core on the die, nothing queued, room for the next notice (R342,
R343, R397). -/
def State.takesNotice (s : State) (d : Nat) (b : Mailbox) : Prop :=
  s.wafer.freeze = .running ∧ d < dieCount ∧ (s.dieAt d).rc.box = some b ∧ b.queue = [] ∧ b.core < slotCount ∧ slotDie b.core = d ∧ b.base % 64 = 0 ∧
  b.base + 4096 ≤ spSize ∧ b.nextNotice < 64 ∧ (s.mem.tag (noticeSlotFlat b b.nextNotice)).full = false ∧ s.noWatchers = true

/-- A notice stands in the next slot of a mailbox, whose count and next slot go on (R343). -/
def State.Notices (t : State) (d : Nat) (b : Mailbox) (kind : Nat) (w1 w2 w3 : Word) : Prop :=
  let k := (b.count + 1) % 2 ^ 32
  (t.dieAt d).rc.box = some { b with nextNotice := (b.nextNotice + 1) % 64, count := k } ∧
  t.mem.holds (noticeSlotFlat b b.nextNotice) [BitVec.ofNat 64 (kind + 256 * (d % 8) + 4096 * (d / 8) + 2 ^ 32 * k), w1, w2, w3] ∧
  (t.mem.tag (noticeSlotFlat b b.nextNotice)).full = true

/-- The next command slot of a die's mailbox holds a command (R344). -/
def State.commands (s : State) (d : Nat) (b : Mailbox) (op : Nat) (w1 w2 w3 : Word) : Prop :=
  let f := cmdSlotFlat b b.nextCmd
  s.takesNotice d b ∧ b.nextCmd < 16 ∧ s.ringEdges f = [] ∧ (s.mem.tag f).full = true ∧
  (∀ i, i < 4 → s.clean (f + 8 * i) = true) ∧ (s.mem.word f).toNat % 256 = op ∧ s.mem.word (f + 8) = w1 ∧
  s.mem.word (f + 16) = w2 ∧ s.mem.word (f + 24) = w3

/-- A command is over: its slot is empty, the next one comes, and a notice of kind 11 tells its slot and status (R344). -/
def State.CommandEnds (t : State) (d : Nat) (b : Mailbox) (status : Nat) : Prop :=
  (t.mem.tag (cmdSlotFlat b b.nextCmd)).full = false ∧
  t.Notices d { b with nextCmd := (b.nextCmd + 1) % 16 } 11 (BitVec.ofNat 64 b.nextCmd) (BitVec.ofNat 64 status) 0

/-- Nothing of storage but the notice's slot changed. -/
def State.OnlyNotice (s t : State) (b : Mailbox) : Prop := s.mem.outside t.mem (noticeSlotFlat b b.nextNotice) 32

/-- The one packet that may move at a router, with nothing dead, no flit about to fail and no release waiting (R380). -/
def State.onlyPacket (s : State) (r : Nat) (p : Packet) : Prop :=
  r < routerCount ∧ (s.wafer.net.filter fun q => q.at_ = r ∧ q.held = false) = [p] ∧ s.wafer.links = [] ∧ s.flits = [] ∧
  ∀ d, (s.clocksAt d).relq = []

/-- A packet has gone from one router on to the next (R380); the link's monitor counts its flits (R400). -/
def State.Hops (s t : State) (p : Packet) (q port : Nat) : Prop :=
  t.cores = s.cores ∧ t.mem = s.mem ∧ t.dies = s.dies ∧
  t.wafer = { s.wafer with
    net := s.wafer.net.erase p ++ [{ p with at_ := q, inp := oppositePort port, held := false }],
    monitors := t.wafer.monitors } ∧
  (∀ k, FMap.get [] t.wafer.monitors k =
    if k = (linkAt p.at_ port).key then
      let l := (List.replicate p.flits false ++ FMap.get [] s.wafer.monitors k).take 256
      if true ∈ l then l else []
    else FMap.get [] s.wafer.monitors k) ∧
  ({ ev := .routerLookup, arg := { place := q } } : Due) ∈ t.agenda

/-- A packet has entered the input of a slot (R110, R122, R260). -/
def State.Arrives (s t : State) (p : Packet) (slot : Nat) : Prop :=
  let g : Packet := { p with dst := slot }
  let inq (u : State) (n : Nat) : List Packet := FMap.get [] (u.coreAt slot).m.inq n
  let due (ev : Instr) (k : Nat) : Prop := ({ ev := ev, arg := { place := k } } : Due) ∈ t.agenda
  t.mem = s.mem ∧ t.wafer.net = s.wafer.net.erase p ∧ (∀ a ∈ p.acks, due .releaseAcknowledgement a) ∧
  match p.body with
  | .msg _ => inq t p.cls.toNat = inq s p.cls.toNat ++ [g] ∧ (t.coreAt slot).u.prog = (s.coreAt slot).u.prog + 1 ∧
      due .messageAccept slot
  | .sys _ => inq t p.cls.toNat = inq s p.cls.toNat ++ [g] ∧ due .systemFormAtTarget slot
  | .token k => t.cores = s.cores ∧ due .tokenLanding k.edge ∧
      ∀ e, s.edgeAt k.edge = some e → e.slots ≠ 0 → t.edgeAt k.edge = some { e with arrived := e.arrived ++ [(k, p.trailer.isSome)] }

/-! ### The turn of a hart and of the machine -/

/-- n lc have passed at the acting hart since s (R20, R169, R200, R204, R263, R272, R273): cycle, unless inhibited, and time count
them, the task's count where it is charged, the stall counters of the actors that wait; every 256 lc the scrubber is due, every
16 µs the Drift sample. The cluster-memory clock, 1,500 cycles in 1 µs, follows the core of the cluster that is furthest ahead, and
every 256 of its cycles the sub-banks' scrubbers are due (that it follows that core is the model's choice, entry 123). The numbers
of lc still to come lose their first. -/
def State.Passed (s t : State) (n : Nat) (charged : Bool) : Prop :=
  let c := s.core
  let cl := slotCluster s.cur
  let micro := 600 + 50 * c.g.clk.toNat
  let scrub := (c.u.scrubLc + n) / 256
  let sample := (c.u.sampleLc + n) / (16 * micro)
  let part := c.u.memPart + 1500 * n
  let old := (s.clusterAt cl).cycles
  let new := max old (c.u.memCycles + part / micro)
  let rounds := new / 256 - old / 256
  { t with cores := s.cores, clusters := s.clusters, agenda := s.agenda, lcs := s.lcs } = s ∧ t.lcs = s.lcs.drop 1 ∧
  (∀ m, m ≠ s.cur → t.coreAt m = s.coreAt m) ∧ (∀ m, m ≠ cl → t.clusterAt m = s.clusterAt m) ∧
  t.clusterAt cl = { s.clusterAt cl with cycles := new } ∧
  t.agenda = s.agenda ++ (if scrub = 0 then [] else [{ ev := .scrubTick, arg := { place := s.cur, a := scrub } }])
    ++ (if sample = 0 then [] else [{ ev := .driftSample, arg := { place := s.cur, a := sample } }])
    ++ (if rounds = 0 then [] else [{ ev := .clusterScrubTick, arg := { place := cl, b := rounds } }]) ∧
  t.core = { c with
    n.cycle := if c.c.mcountinhibit.getLsbD 0 then c.n.cycle else c.n.cycle + BitVec.ofNat 64 n
    n.time := c.n.time + BitVec.ofNat 64 n
    h.task := c.h.task.map fun k => { k with count := k.count + if charged then n else 0 }
    q.actors := t.core.q.actors
    u.scrubLc := (c.u.scrubLc + n) % 256
    u.sampleLc := (c.u.sampleLc + n) % (16 * micro)
    u.memCycles := c.u.memCycles + part / micro
    u.memPart := part % micro } ∧
  ∀ j, t.core.actor j =
    let a := c.actor j
    if a.en && !a.busy && (a.stallCause != 0 || a.held || a.mig)
    then { a with stallCount := BitVec.ofNat 32 (min (a.stallCount.toNat + n) (2 ^ 32 - 1)) } else a

/-- The link register of a jump; a branch has none. -/
def linkRegs (i : Instr) : List XReg :=
  match i with
  | .jal d _ => [d]
  | .jalr d _ _ => [d]
  | _ => []

/-- Sources and destination of the integer, jump, load, store and AMO forms. -/
def scalarRegs (i : Instr) (s : State) : Option (List XReg × List XReg) :=
  match intForm i s, jumpForm i s, loadForm i, storeForm i, amoForm i with
  | some (srcs, rd, _), _, _, _, _ => some (srcs, [rd])
  | _, some (srcs, _, _), _, _, _ => some (srcs, linkRegs i)
  | _, _, some (a, _, rd, _), _, _ => some ([a], [rd])
  | _, _, _, some (a, _, b, _), _ => some ([a, b], [])
  | _, _, _, _, some (rd, a, b, _) => some ([a, b], [rd])
  | _, _, _, _, _ => none

/-- The wafer stands still as it stood in s0 (R397, R398): it does not run, and neither its release nor a regulator's failure is
due. -/
def State.StandsStill (s0 s : State) : Prop :=
  s.wafer.freeze ≠ .running ∧ s.cores = s0.cores ∧ s.clusters = s0.clusters ∧ s.dies = s0.dies ∧ s.mem = s0.mem ∧
  s.wafer.net = s0.wafer.net ∧ s.wafer.edges = s0.wafer.edges ∧ s.wafer.actors = s0.wafer.actors ∧
  s.wafer.jobs = s0.wafer.jobs ∧ ∀ d ∈ s.agenda, d.ev ≠ .thaw ∧ d.ev ≠ .regulatorFailure

/-- CSR addresses and the values that the spec gives them at reset (R20, R23 to R31, R33, R162). -/
def resetCsrs : List (Nat × Word) :=
  [(0x800, 0), (0x801, 0), (0x802, 5), (0x803, 0), (0x804, 0), (0x805, 0), (0x806, 0), (0x807, 0), (0x808, 3), (0x809, 0),
   (0x80A, 0), (0x80B, 0), (0xCC0, 0), (0x5C0, 0x100000), (0x5C1, 0), (0x5C2, 0), (0xC00, 0), (0xC01, 0), (0xC02, 0),
   (0x301, 0x8000000000141101), (0x302, 0), (0x303, 0), (0x306, 7), (0x106, 7), (0x14D, BitVec.allOnes 64), (0x180, 0)]

/-- Bits 6:2 of the major opcodes that the map marks illegal (R68). -/
def illegalMajors : List Nat := [1, 7, 9, 15, 16, 17, 18, 19, 20, 21, 23, 26, 29, 31]

end Sys2Proof.Machine
end

