-- ==== Sys2Proof/WellFormed.lean ====
section
/-! DEFINITION. Which instructions are well formed: those that an assigned word stands for (R74, R75). Their register numbers,
immediates and formats are exact in their types, so two checks are left. -/
namespace Sys2Proof

/-- vcvtf converts between two different formats: src = w is reserved (R75). -/
def Instr.cvtOk (i : Instr) : Bool :=
  match i with
  | .vcvtf w _ src _ _ => decide (src ≠ w)
  | _ => true

/-- vtdec has no destination format for w = 3 (R74). -/
def Instr.decOk (i : Instr) : Bool :=
  match i with
  | .vtdec w _ _ _ _ => decide (w ≠ 3)
  | _ => true

/-- Well-formed instructions of a hart and events of the machine. -/
def Instr.wf (i : Instr) : Bool := i.cvtOk && i.decOk

/-- Whether a constructor is an instruction of a hart, with a word; the others are events of the machine (95). -/
def Instr.hasWord (i : Instr) : Bool := (encode i).isSome

end Sys2Proof
end

