-- ==== Sys2Proof/Certificates/Slice0/Obligations.lean ====
section
/-! DEFINITION. The statements about the model, each with the rule of spec/ it comes from. -/
open Sys2Proof Sys2Proof.Machine

/-! ### Integer forms, branches and jumps -/

/-- R96 (table Standard forms), R16, R20, R166: an integer form that is free to run writes its result, as the published rules
give it over the integers, to rd; it goes on at the next instruction and changes nothing else.
R66, R96: a branch that is not taken goes on at the next instruction; a jump or a taken branch goes to its target and
writes the link, or, where the target is not a multiple of 4, raises cause 0 with tval = the target and no effect. -/
def Obligations.IntegerAndJumpForms : Prop :=
  (∀ i s srcs rd v, intForm i s = some (srcs, rd, v) → s.free srcs [rd] = true →
     ∃ t, exec i s = .next t ∧ s.WritesX t rd v (s.core.h.pc + 4)) ∧
  (∀ i s srcs rd target, jumpForm i s = some (srcs, rd, target) → s.free srcs [rd] = true →
     ∃ t, exec i s = .next t ∧
       match target with
       | none => s.WritesX t 0 0 (s.core.h.pc + 4)
       | some a => if a.toNat % 4 = 0 then s.WritesX t rd (s.core.h.pc + 4) a else s.Traps t 0 a)

/-! ### Loads, stores and the store buffer -/

/-- R96, R185, R199, R287: an aligned load in a local window whose word is good writes the bytes that the hart sees, its own
buffered stores and its transaction's among them, sign- or zero-extended, to rd; memory stays as it is. In a transaction the line
joins the read set, and a 65th line raises cause 27 with tval 4.
R96, R287: outside regions an aligned store in a local window retires with its bytes in the store buffer: the hart sees
them at once, memory does not change yet, and the drain becomes due.
R180, R182, R185: in an open entry such a store is logged, unless the entry has logged the word or is the outermost transaction; it
changes memory at once, or in a transaction the write set alone. Cause 27 stops it where the log is full (tval 2) or a 33rd line would
join the write set (tval 5), cause 7 where it meets the log area.
R191, R192, R199, R290: a load from a word that is poisoned, uncorrectable, or failed by the crossbar, and a store of part of such a
word in memory, consume the error. (Which transfers fail is an input, entry 121.)
R96, R147, R161: a load or store whose address is not a multiple of its size raises cause 4 or 6; an aligned one outside
the local windows raises cause 5 or 7; tval is the address, and nothing is read or written. -/
def Obligations.LoadsAndStores : Prop :=
  (∀ i s a k rd n signed, loadForm i = some (a, k, rd, n, signed) → s.free [a] [rd] = true →
     (s.addr a k).toNat % n = 0 → inWindow (s.addr a k) n = true → s.core.postedOn (wordAt (s.flat (s.addr a k))) = false →
     let f := s.flat (s.addr a k)
     let set := s.readSet (s.addr a k)
     (s.core.inTxn = true → 64 < set.length → ∃ t, exec i s = .next t ∧ s.Traps t 27 4) ∧
     ((s.core.inTxn = true → set.length ≤ 64) → (s.mem.tag f).flips = 0 → s.seesPoison f = false → s.crc = [] →
       ∃ t, exec i s = .next t ∧ s.OnlyCore t ∧
         (let v := littleEndian s.sees f n
          s.WroteX t rd (if signed then (BitVec.ofNat (8 * n) v).signExtend 64 else BitVec.ofNat 64 v)) ∧
         t.core = ({ s.core with h.x := t.core.h.x, h.mark := t.core.h.mark, r.rset := set } : Core).counted (s.core.h.pc + 4)) ∧
     ((s.core.inTxn = true → set.length ≤ 64) → s.core.e.sb = [] → FMap.find s.core.r.wset (wordAt f) = none →
       let u (m : Mem) (l : List Bool) : State := ({ s with mem := m, crc := l }).mapCore fun c => { c with r.rset := set }
       (s.mem.broken f → s.crc = [] →
         ∃ t m, exec i s = .next t ∧ s.mem.Poisons m f ∧ (u m []).Consumes t (s.addr a k &&& ~~~7)) ∧
       (∀ l, s.clean f = true → 0x1000000 ≤ (s.addr a k).toNat → s.crc = true :: l →
         ∃ t, exec i s = .next t ∧ (u s.mem l).Consumes t (s.addr a k &&& ~~~7)))) ∧
  (∀ i s a k b n, storeForm i = some (a, k, b, n) → s.free [a, b] [] = true →
     (s.addr a k).toNat % n = 0 → inWindow (s.addr a k) n = true →
     let f := s.flat (s.addr a k)
     let byte (g : Nat) : Byte := BitVec.ofNat 8 ((s.x b).toNat / 2 ^ (8 * (g - f)))
     (s.core.plain = true → (n = 8 ∨ s.clean f = true) →
       ∃ t, exec i s = .next t ∧ s.OnlyCoreDue t ∧
         t.agenda = s.agenda ++ [{ ev := .storeBufferDrain, arg := { place := s.cur, a := f / 16 } }] ∧
         t.core = ({ s.core with e.sb := t.core.e.sb } : Core).counted (s.core.h.pc + 4) ∧
         ∀ g, t.seen g = if f ≤ g ∧ g < f + n then byte g else s.seen g) ∧
     ((s.addr a k).toNat < s.core.g.undol.toNat → s.core.g.undo.toNat < (s.addr a k).toNat + n → s.core.r.stack ≠ [] →
       ∃ t, exec i s = .next t ∧ s.Traps t 7 (s.addr a k)) ∧
     (s.core.r.stack = [] → s.core.e.sb = [] → n < 8 → s.mem.broken f →
       ∃ t m, exec i s = .next t ∧ s.mem.Poisons m f ∧ ({ s with mem := m }).Consumes t (s.addr a k &&& ~~~7)) ∧
     ∀ e rest, s.core.r.stack = e :: rest → s.core.atTask = true → s.core.e.sb = [] → s.cur < slotCount →
       ((s.addr a k).toNat + n ≤ s.core.g.undo.toNat ∨ s.core.g.undol.toNat ≤ (s.addr a k).toNat) →
       let top := s.core.r.logTop
       let log := spFlat s.cur top
       let w := wordAt f
       let logs : Bool := !(e.txn && !rest.any Entry.txn) && !e.words.contains w
       let room : Prop := logs = true → top + 16 ≤ s.core.g.undol.toNat
       (s.core.inTxn = true → 32 < s.core.writeLines (lineAt f) → ∃ t, exec i s = .next t ∧ s.Traps t 27 5) ∧
       ((s.core.inTxn = true → s.core.writeLines (lineAt f) ≤ 32) →
         (¬ room → ∃ t, exec i s = .next t ∧ s.Traps t 27 2) ∧
         (room → n < 8 → s.mem.broken f → FMap.find s.core.r.wset w = none →
           ∃ t m, exec i s = .next t ∧ s.mem.Poisons m f ∧ ({ s with mem := m }).Consumes t (s.addr a k &&& ~~~7)) ∧
         (room → (s.mem.tag f).flips = 0 → (n = 8 ∨ s.seesPoison f = false) → s.crc = [] → top % 16 = 0 →
           s.core.g.undo.toNat ≤ top → s.unwatchedRange log 16 = true → (s.core.inTxn = false → s.unwatched f = true) →
           ∃ t, exec i s = .next t ∧ s.OnlyCoreMem t ∧
             t.core = ({ s.core with
               r.stack := (if logs then { e with words := e.words ++ [w] } else e) :: rest,
               r.logTop := top + (if logs then 16 else 0), r.wset := t.core.r.wset } : Core).counted (s.core.h.pc + 4) ∧
             (logs = true →
               t.mem.word log = 5#4 ++ BitVec.ofBool (s.seesPoison f) ++ BitVec.ofBool (s.seesFull f)
                 ++ (s.addr a k &&& ~~~7).extractLsb' 0 58 ∧
               t.mem.word (log + 8) = BitVec.ofNat 64 (littleEndian s.sees w 8)) ∧
             ∀ g, (logs = false ∨ g < log ∨ log + 16 ≤ g) →
               t.sees g = (if f ≤ g ∧ g < f + n then byte g else s.sees g) ∧
               (s.core.inTxn = true → t.mem.byte g = s.mem.byte g ∧ t.mem.tag g = s.mem.tag g) ∧
               (s.core.inTxn = false → t.core.r.wset = s.core.r.wset ∧
                 t.mem.tag g = if wordAt g = w then { s.mem.tag g with poison := false } else s.mem.tag g)))) ∧
  ((∀ i s a k rd n signed, loadForm i = some (a, k, rd, n, signed) → s.free [a] [rd] = true →
     ((s.addr a k).toNat % n ≠ 0 → ∃ t, exec i s = .next t ∧ s.Traps t 4 (s.addr a k)) ∧
     ((s.addr a k).toNat % n = 0 → inWindow (s.addr a k) n = false → ∃ t, exec i s = .next t ∧ s.Traps t 5 (s.addr a k))) ∧
   ∀ i s a k b n, storeForm i = some (a, k, b, n) → s.free [a, b] [] = true →
     ((s.addr a k).toNat % n ≠ 0 → ∃ t, exec i s = .next t ∧ s.Traps t 6 (s.addr a k)) ∧
     ((s.addr a k).toNat % n = 0 → inWindow (s.addr a k) n = false → ∃ t, exec i s = .next t ∧ s.Traps t 7 (s.addr a k)))

/-! ### Atomic forms -/

/-- R96: an aligned AMO on clean scratchpad, outside regions and with nothing buffered, is one act: rd takes the old value,
sign-extended, and memory the new one; no other byte and no tag changes.
R96: outside regions and with nothing buffered, lr reads as a load and reserves the line of its address; sc on a reserved
line stores, writes 0 and gives the reservation up; without it sc stores nothing, writes 1 and gives it up. -/
def Obligations.AmosAndReservations : Prop :=
  (∀ i s rd a b n, amoForm i = some (rd, a, b, n) → s.free [a, b] [rd] = true → s.core.plain = true → s.core.e.sb = [] →
     (s.x a).toNat % n = 0 → (s.x a).toNat + n ≤ spSize →
     let f := spFlat s.cur (s.x a).toNat
     s.clean f = true → s.unwatched f = true →
     let old := BitVec.ofNat (8 * n) (littleEndian s.mem.byte f n)
     ∃ t, exec i s = .next t ∧ s.OnlyCoreMem t ∧ s.WroteX t rd (old.signExtend 64) ∧
       s.mem.Stored t.mem f n (amoNew i old ((s.x b).setWidth (8 * n))).toNat ∧
       t.core = ({ s.core with h.x := t.core.h.x, h.mark := t.core.h.mark } : Core).counted (s.core.h.pc + 4)) ∧
  ((∀ i s rd a n, lrForm i = some (rd, a, n) → s.free [a] [rd] = true → s.core.plain = true → s.core.e.sb = [] → s.crc = [] →
     (s.x a).toNat % n = 0 → inWindow (s.x a) n = true → s.clean (s.flat (s.x a)) = true →
     let v := BitVec.ofNat (8 * n) (littleEndian s.mem.byte (s.flat (s.x a)) n)
     ∃ t, exec i s = .next t ∧ s.OnlyCore t ∧ s.WroteX t rd (v.signExtend 64) ∧
       t.core = ({ s.core with h.x := t.core.h.x, h.mark := t.core.h.mark, h.resv := some (lineAt (s.flat (s.x a))) } :
         Core).counted (s.core.h.pc + 4)) ∧
   ∀ i s rd a b n, scForm i = some (rd, a, b, n) → s.free [a, b] [rd] = true → s.core.plain = true → s.core.e.sb = [] →
     s.crc = [] → (s.x a).toNat % n = 0 → inWindow (s.x a) n = true → (n = 8 ∨ s.clean (s.flat (s.x a)) = true) →
     s.unwatched (s.flat (s.x a)) = true →
     ∃ t, exec i s = .next t ∧ s.OnlyCoreMem t ∧
       t.core = ({ s.core with h.x := t.core.h.x, h.mark := t.core.h.mark, h.resv := none } : Core).counted
         (s.core.h.pc + 4) ∧
       if s.core.h.resv = some (lineAt (s.flat (s.x a)))
       then s.WroteX t rd 0 ∧ s.mem.Stored t.mem (s.flat (s.x a)) n (s.x b).toNat
       else s.WroteX t rd 1 ∧ t.mem = s.mem)

/-! ### CSRs, privilege, calls and returns -/

/-- R21 to R33, R162 and the published rules: an allowed CSR form puts the old value into rd and stores what it writes; a new
time compare makes the timer event due. Where gvspill or gvfpool is written while its area is in use, it stores the value
too; what the area then holds is open (that the register takes the value there is the model's choice, entry 12; the access rules and
values of the standard CSRs that R162 does not list are those of the published architecture, entry 4). -/
def Obligations.CsrFormsReadAndWrite : Prop :=
  ∀ i s old srcs rd k new, csrWrites i s old = some (srcs, rd, k, new) → s.csrValue s.cur k.toNat = some old →
    s.core.csrAllowed k.toNat new.isSome = true → s.free srcs [rd] = true →
    (new.isSome = true → s.core.csrMisuse k.toNat = false ∧ s.core.csrStalls k.toNat = false) →
    ∃ t, exec i s = .next t ∧
      match new with
      | none => s.WritesX t rd old (s.core.h.pc + 4)
      | some v =>
        let c : Core := (s.core.counted (s.core.h.pc + 4)).csrPut k.toNat v
        if s.core.areaInUse k.toNat then
          s.WroteX t rd old ∧ t.mem = s.mem ∧ t.core = { c with h := t.core.h, q := t.core.q, m := t.core.m } ∧
          t.core.h.pc = s.core.h.pc + 4
        else
        s.OnlyCoreDue t ∧ s.WroteX t rd old ∧ t.core = ({ c with h := t.core.h } : Core) ∧
        t.core.h = { s.core.h with x := t.core.h.x, mark := t.core.h.mark, pc := s.core.h.pc + 4 } ∧
        t.agenda = s.agenda ++
          (if k.toNat = 0x14D then [{ ev := .stimerMatch, arg := { place := s.cur } }] else [])

/-! ### Tasks -/

/-- R105, R106: task.self writes gvwid to its register, and has no effect with x0; task.prio sets the running task's priority
to bits 1:0 of its register, in U mode no value below the priority it was dispatched at, and changes nothing else. -/
def Obligations.TaskSelfAndPrio : Prop :=
  (∀ i s rd, selfReg i = some rd → s.free [] [rd] = true →
    ∃ t, exec i s = .next t ∧ s.WritesX t rd s.core.g.wid (s.core.h.pc + 4)) ∧
  ∀ i s a k, prioReg i = some a → s.free [a] [] = true → s.core.h.task = some k →
    let v : BitVec 2 := (s.x a).extractLsb' 0 2
    let p : BitVec 2 := if s.core.h.mode = .u ∧ v.toNat < k.item.prio.toNat then k.item.prio else v
    ∃ t, exec i s = .next t ∧ s.OnlyCore t ∧
      t.core = ({ s.core with h.task := some { k with prio := p } } : Core).counted (s.core.h.pc + 4)

/-- R39, R100, R101, R103: task.end ends a task that may end: the hart is idle and its core looks for the next record; a
firing's actor is not busy any more (stated where it cannot fire again at once), a message's frame goes back to the pool, and the
progress counter counts the task. task.chain does the same and places the copy of its record, with chn = 1, at the head of the FIFO of
its priority. (The model's choice: both wait for the hart's buffered stores, entry 22, and for an empty reply that the frame owes,
entry 39.)
R168: task.end in a handler above the task's privilege, with the hart's commands done, ends the task too: every open entry is rolled
back, no effect stays held, and no transaction sleeps. -/
def Obligations.TasksEndAndChain : Prop :=
  (∀ (s : State) k, s.core.h.task = some k → s.core.mayEnd = true →
    ∃ t, exec .taskEnd s = .next t ∧ t.cur = s.cur ∧ t.core.h.task = none ∧ t.core.h.hs = .idle ∧ t.core.h.mode = .u ∧
      ({ ev := .taskDispatch, arg := { place := s.cur } } : Due) ∈ t.agenda ∧
      (k.item.act = false → t.mem = s.mem ∧ t.core.u.prog = (s.core.counted 0).u.prog + 1 ∧
        (∀ n, n ≠ s.cur → t.coreAt n = s.coreAt n)) ∧
      (∀ n, s.core.actorOf k.item = some n → (s.core.actor n).en = false → (t.core.actor n).busy = false) ∧
      (∀ f, k.item.msg = true → s.core.frameAt k.item.frame.toNat = some f → f ∉ t.core.m.frames)) ∧
  (∀ (s : State) k a, s.free [a] [] = true → s.core.h.task = some k → s.core.mayEnd = true → s.readable (s.x a) 32 4 = true →
    ∃ t r, exec (.taskChain a) s = .next t ∧ t.core.h.task = none ∧ t.core.h.hs = .idle ∧
      recordCopy k.item.job (s.seenWords (s.x a) 4) true r ∧
      ((levelQ t.core.q r.prio.toNat).head?).map QRec.item = some r) ∧
  ∀ (s : State) k, s.core.h.task = some k → s.core.atTask = false → s.core.r.stack ≠ [] → s.commandsDone = true →
    s.core.replyBlocked = false → s.core.e.sb = [] → (s.dropAll true).2 = true →
    ∃ t, exec .taskEnd s = .next t ∧ t.cur = s.cur ∧ t.core.h.task = none ∧ t.core.h.hs = .idle ∧ t.core.h.mode = .u ∧
      t.core.r.stack = [] ∧ t.core.r.hold = [] ∧ t.core.r.wset = [] ∧ t.core.r.rset = [] ∧
      (k.item.act = false → t.mem = (s.dropAll true).1.mem) ∧
      ∀ c w, w ∈ (t.clusterAt c).wake → w.slot = s.cur → w ∈ (s.clusterAt c).wake ∨ w.woken = true

/-- R102, R103: outside regions task.spawn appends the copy of its record, with join and chn 0, to the FIFO of its priority
while that has room, and goes on; nothing else of the hart changes.
R104: outside regions, with nothing buffered, task.join takes one from the join field of its record; the step from 1 to 0
appends the record's copy as task.spawn does, and a join at 0 stays and enqueues nothing. (The model's choice, entry 124: a step to 0
waits while four records wait for room at the core.) -/
def Obligations.SpawnAndJoin : Prop :=
  (∀ (s : State) rl sc a, s.free [a] [] = true → s.core.plain = true → s.readable (s.x a) 32 4 = true →
     (rl = true → s.relReady s.cur sc false = true) →
     s.core.fifoRoom ((s.seenWord (s.x a)).extractLsb' 48 2).toNat = true →
     ∃ t r, exec (.taskSpawn rl sc a) s = .next t ∧ s.OnlyCoreJobs t ∧
       recordCopy s.core.jobOf (s.seenWords (s.x a) 4) false r ∧
       t.core = ({ s.core with q := t.core.q } : Core).counted (s.core.h.pc + 4) ∧
       levelQ t.core.q r.prio.toNat = levelQ s.core.q r.prio.toNat ++ [{ item := r, seq := s.core.q.enq }] ∧
       t.agenda = s.agenda ++ [{ ev := .taskDispatch, arg := { place := s.cur } }]) ∧
  (∀ (s : State) a, s.free [a] [] = true → s.core.plain = true → s.core.e.sb = [] → s.readable (s.x a) 32 4 = true →
     s.unwatched (s.flat (s.x a) + 8) = true →
     let w1 := s.seenWord (s.x a + 8)
     let n := w1.extractLsb' 48 15
     (n = 1 → s.core.q.waitq.length < 4) →
     ∃ t, exec (.taskJoin a) s = .next t ∧ t.x = s.x ∧ t.core.h.pc = s.core.h.pc + 4 ∧
       s.mem.Stored t.mem (s.flat (s.x a) + 8) 8 (if n = 0 then w1 else w1 - 2 ^ 48).toNat ∧
       (n ≠ 1 → s.OnlyCoreMem t ∧ t.core = s.core.counted (s.core.h.pc + 4)) ∧
       (n = 1 → s.core.q.waitq = [] → s.jobAway s.cur (if s.core.jobOf = 0 then (s.seenWord (s.x a)).extractLsb' 50 12
           else s.core.jobOf) = false →
         s.core.fifoRoom ((s.seenWord (s.x a)).extractLsb' 48 2).toNat = true →
         ∃ r, recordCopy s.core.jobOf (s.seenWords (s.x a) 4) false r ∧
           levelQ t.core.q r.prio.toNat = levelQ s.core.q r.prio.toNat ++ [{ item := r, seq := s.core.q.enq }]))

/-- R207: the next pick takes the lowest-numbered level that holds a record; when 256 picks in a row have come from one level
and a higher-numbered level holds a record, it takes the oldest record above that level.
R18, R19, R37, R169: the dispatch of a record whose frame is readable and whose checks pass starts its task: a0 the frame,
sp the frame's end, a1 the word at widp (0 without one), a2 the flags, every other x and v register 0, k0 all ones, the flags
cleared, the mode by its job, the pc its code, the budget sampled. -/
def Obligations.PickAndDispatch : Prop :=
  (∀ (q : Sched) l, q.pickLevel = some l →
     l < 4 ∧ levelQ q l ≠ [] ∧
     let waiting (j : Nat) : Prop := j < 4 ∧ levelQ q j ≠ []
     let aged : Prop := q.run = 256 ∧ ∃ j, waiting j ∧ q.last < j
     (aged → q.last < l ∧ ∀ j, waiting j → q.last < j → (levelAge q l).getD 0 ≤ (levelAge q j).getD 0) ∧
     (¬ aged → ∀ j, waiting j → l ≤ j)) ∧
  (∀ s : State, s.arg.place < slotCount → (s.coreAt s.arg.place).mayDispatch = true → s.settled s.arg.place = true →
     ∀ l q, (s.coreAt s.arg.place).pickable.pickLevel = some l →
       ((levelQ (s.coreAt s.arg.place).q l).find? fun r => (s.coreAt s.arg.place).picks r.item) = some q →
       let u : State := { s with cur := s.arg.place }
       let fp : Word := q.item.frame.setWidth 64
       let wp : Word := q.item.widp.setWidth 64
       fp.toNat % 64 = 0 → inWindow fp 8 = true → u.clean (u.flat fp) = true →
       (wp ≠ 0 → wp.toNat % 8 = 0 ∧ inWindow wp 8 = true ∧ u.clean (u.flat wp) = true) →
       (q.item.chk = true → q.item.top = u.core.g.top) → q.item.etag = false →
       let size := (BitVec.ofNat 64 (u.mem.nat (u.flat fp) 8)).extractLsb' 0 24
       let c := (s.coreAt s.arg.place)
       ∃ t, exec .taskDispatch s = .next t ∧ t.mem = s.mem ∧ t.cur = s.cur ∧
         (∀ n, n ≠ s.arg.place → t.coreAt n = s.coreAt n) ∧
         let h := (t.coreAt s.arg.place).h
         (∀ r, h.getX r = if r = 2 then fp + (if size = 0 then 0x1000000 else size.setWidth 64)
           else if r = 10 then fp
           else if r = 11 then (if wp = 0 then 0 else BitVec.ofNat 64 (u.mem.nat (u.flat wp) 8))
           else if r = 12 then q.item.flags else 0) ∧
         (∀ r, h.getV r = 0) ∧ (∀ r, h.getK r = if r = 0 then BitVec.allOnes 64 else 0) ∧
         h.pc = q.item.code.setWidth 64 ∧ h.mode = (if q.item.job = 0 then .s else .u) ∧ h.hs = .run ∧ h.mark = 0 ∧
         h.task = some { item := q.item, prio := q.item.prio, budget := c.g.bud.toNat,
                         serial := if q.item.cont = 0 then c.h.serial + 1 else q.item.cont, acq := q.item.rel } ∧
         (t.coreAt s.arg.place).g = { c.g with fflags := 0, wid := h.getX 11 } ∧
         (t.coreAt s.arg.place).q.run = (if l = c.q.last then min (c.q.run + 1) 256 else 1) ∧
         (t.coreAt s.arg.place).q.last = l ∧
         levelQ (t.coreAt s.arg.place).q l = (levelQ c.q l).erase q)

/-! ### Messages, capabilities and system forms -/

/-- R107 to R109, R113, R119: outside regions msg.send and msg.sendl, with a well-formed header, a capability that carries the
rights they need, a free reply credit where they ask for a reply, and room in the request queue, put the message into it.
R114: outside regions msg.reply sends its bytes to the origin of the running task's reply route, and msg.fwd hands that
route on with its message; either spends the route. Without an unspent route both raise cause 26 with tval 0. (That bits 1:0 of code
and rcode count as 0 and that the top codes are those at queueing are the model's choices, entries 31 and 32.) -/
def Obligations.MessagesAndReplies : Prop :=
  (∀ i s rl sc a b long, (i = .msgSend rl sc a b ∧ long = false ∨ i = .msgSendl rl sc a b ∧ long = true) →
     s.free [a, b] [] = true → s.core.plain = true → s.readable (s.x a) 32 4 = true →
     let w := s.seenWords (s.x a) 4
     let w0 := w.getD 0 0
     let w2 := w.getD 2 0
     let w3 := w.getD 3 0
     let n := if long then (w2.extractLsb' 52 11).toNat else 8
     w2.extractLsb' 50 2 = 0 → w3.extractLsb' 50 14 = 0 →
     (long = true → 8 ≤ n ∧ n ≤ 1024 ∧ n % 8 = 0 ∧ s.readable (s.x b) 8 (n / 8) = true) →
     let prio : BitVec 2 := w2.extractLsb' 48 2
     s.capFault s.core.jobOf w0 (w.getD 1 0) (if prio = 0 then 3 else 1) = 0 →
     let dst := slotOf (w0.extractLsb' 0 8).toNat (w0.extractLsb' 8 8).toNat
     (s.core.sendq 0).length < 16 → (rl = true → s.relReady s.cur sc (slotDie dst != slotDie s.cur) = true) →
     let ask : Bool := w3.extractLsb' 0 48 != 0
     (ask = true → s.core.m.credits < frameReply s.core.g) →
     ∃ t, exec i s = .next t ∧ s.OnlyCoreJobs t ∧
       t.core = ({ s.core with m.sendq := t.core.m.sendq, m.credits := s.core.m.credits + if ask then 1 else 0 } : Core).counted
         (s.core.h.pc + 4) ∧
       (∀ vn, t.core.sendq vn = s.core.sendq vn ++ if vn = 0 then
         [{ dst := dst, job := w0.extractLsb' 32 12, rl := if rl then some sc else none,
            body := .msg {
              reply := false, job := w0.extractLsb' 32 12, code := w2.extractLsb' 0 48 &&& 0xFFFFFFFFFFFC, prio := prio,
              wid := w2.getLsbD 63, payload := (if long then s.seenWords (s.x b) (n / 8) else [s.x b]), top := s.core.g.top,
              route := if ask then some { origin := s.cur, rcode := w3.extractLsb' 0 48 &&& 0xFFFFFFFFFFFC,
                                          rprio := w3.extractLsb' 48 2, job := s.core.jobOf, top := s.core.g.top }
                else none } }] else []) ∧
       t.agenda = s.agenda ++ [{ ev := .messageInject, arg := { place := s.cur } }]) ∧
  ((∀ (s : State) rl sc a b, s.free [a, b] [] = true → s.core.plain = true →
     let n := (s.x b).toNat
     n ≤ 1024 → n % 8 = 0 → (s.x a).toNat % 8 = 0 → inWindow (s.x a) 1 = true → s.readable (s.x a) 8 (n / 8) = true →
     match s.core.routeOf with
     | none => ∃ t, exec (.msgReply rl sc a b) s = .next t ∧ s.Traps t 26 0
     | some (i, r) =>
       (s.core.sendq 1).length < 16 → (rl = true → s.relReady s.cur sc (slotDie r.origin != slotDie s.cur) = true) →
       ∃ t, exec (.msgReply rl sc a b) s = .next t ∧ s.OnlyCoreJobs t ∧ FMap.get none t.core.m.routes i = none ∧
         t.core.sendq 1 = s.core.sendq 1 ++
           [{ dst := r.origin, job := r.job, rl := if rl then some sc else none,
              body := .msg { reply := true, job := r.job, code := r.rcode, prio := r.rprio, wid := false,
                             payload := s.seenWords (s.x a) (n / 8), top := s.core.g.top } }] ∧
         t.core = ({ s.core with m.sendq := t.core.m.sendq, m.routes := t.core.m.routes } : Core).counted (s.core.h.pc + 4)) ∧
   ∀ (s : State) rl sc a b, s.free [a, b] [] = true → s.core.plain = true → s.readable (s.x a) 32 4 = true →
     let w := s.seenWords (s.x a) 4
     let w0 := w.getD 0 0
     let w2 := w.getD 2 0
     let n := (w2.extractLsb' 52 11).toNat
     let prio : BitVec 2 := w2.extractLsb' 48 2
     w2.extractLsb' 50 2 = 0 → 8 ≤ n → n ≤ 1024 → n % 8 = 0 → s.readable (s.x b) 8 (n / 8) = true →
     match s.core.routeOf with
     | none => ∃ t, exec (.msgFwd rl sc a b) s = .next t ∧ s.Traps t 26 0
     | some (i, r) =>
       s.capFault s.core.jobOf w0 (w.getD 1 0) (if prio = 0 then 3 else 1) = 0 → (s.core.sendq 0).length < 16 →
       (rl = true → s.relReady s.cur sc
         (slotDie (slotOf (w0.extractLsb' 0 8).toNat (w0.extractLsb' 8 8).toNat) != slotDie s.cur) = true) →
       ∃ t, exec (.msgFwd rl sc a b) s = .next t ∧ s.OnlyCoreJobs t ∧ FMap.get none t.core.m.routes i = none ∧
         t.core.sendq 0 = s.core.sendq 0 ++
           [{ dst := slotOf (w0.extractLsb' 0 8).toNat (w0.extractLsb' 8 8).toNat, job := w0.extractLsb' 32 12,
              rl := if rl then some sc else none,
              body := .msg { reply := false, job := w0.extractLsb' 32 12, code := w2.extractLsb' 0 48 &&& 0xFFFFFFFFFFFC,
                             prio := prio, wid := w2.getLsbD 63, payload := s.seenWords (s.x b) (n / 8), top := s.core.g.top,
                             route := some r } }] ∧
         t.core = ({ s.core with m.sendq := t.core.m.sendq, m.routes := t.core.m.routes } : Core).counted (s.core.h.pc + 4))

/-- R115 to R118, R120, R121: outside regions cap.check writes the first condition that fails: 1 the seal, 2 the generation, 3 the
job, which a task of job 0 need not match, 4 a right that rs2 asks for, else 0. cap.narrow of a valid capability writes it back with
its rights ANDed and a fresh seal, so that rights only shrink, and of an invalid one writes 0 to rd and no memory. cap.mint seals word
0 with the slot's present generation and writes it, or writes 0 to rd and nothing to memory for a slot that is not there. (The job is
the interrupted task's in a handler, 0 with no task: the model's choice, entry 125.) -/
def Obligations.CapabilitiesOnlyShrink : Prop :=
  (∀ (s : State) rd a b, s.free [a, b] [rd] = true → s.core.plain = true → s.readable (s.x a) 16 2 = true →
    let w0 := s.seenWord (s.x a)
    let w1 := s.seenWord (s.x a + 8)
    let x := (w0.extractLsb' 0 8).toNat
    let y := (w0.extractLsb' 8 8).toNat
    let job : BitVec 12 := match s.core.h.task with
      | some k => k.item.job
      | none => 0
    let sealed_ : Prop := w1 = s.sealOf w0
    let current : Prop := x ≤ 191 ∧ y ≤ 215 ∧ w0.extractLsb' 44 20 = s.genOf (slotOf x y) ∧ s.genOf (slotOf x y) ≠ 0
    let own : Prop := job = 0 ∨ w0.extractLsb' 32 12 = job
    let granted : Prop := ∀ n, n < 4 → (s.x b).getLsbD n = true → w0.getLsbD (16 + n) = true
    (∃ t v, exec (.capCheck rd a b) s = .next t ∧ s.WritesX t rd v (s.core.h.pc + 4) ∧
      (¬ sealed_ → v = 1) ∧ (sealed_ → ¬ current → v = 2) ∧ (sealed_ → current → ¬ own → v = 3) ∧
      (sealed_ → current → own → ¬ granted → v = 4) ∧ (sealed_ → current → own → granted → v = 0)) ∧
    ∃ t, exec (.capNarrow rd a b) s = .next t ∧
      (sealed_ ∧ current ∧ own →
        ∃ w : Word, s.WroteX t rd w ∧ t.core.h.pc = s.core.h.pc + 4 ∧ s.OnlyCoreDue t ∧
          t.seenWord (s.x a) = w ∧ t.seenWord (s.x a + 8) = s.sealOf w ∧
          ∀ n, w.getLsbD n = (w0.getLsbD n && (decide (n < 16 ∨ 20 ≤ n) || (s.x b).getLsbD (n - 16)))) ∧
      (¬ (sealed_ ∧ current ∧ own) → s.WritesX t rd 0 (s.core.h.pc + 4))) ∧
  ∀ (s : State) rd a b, s.core.h.mode ≠ .u → s.free [a, b] [rd] = true → s.core.plain = true → (s.x b).toNat % 16 = 0 →
    inWindow (s.x b) 16 = true →
    let w0 := s.x a
    let slot := slotOf (w0.extractLsb' 0 8).toNat (w0.extractLsb' 8 8).toNat
    ∃ t, exec (.capMint rd a b) s = .next t ∧
      if (w0.extractLsb' 0 8).toNat ≤ 191 ∧ (w0.extractLsb' 8 8).toNat ≤ 215 ∧ s.genOf slot ≠ 0 then
        ∃ w : Word, s.WroteX t rd w ∧ t.core.h.pc = s.core.h.pc + 4 ∧ s.OnlyCoreDue t ∧
          t.seenWord (s.x b) = w ∧ t.seenWord (s.x b + 8) = s.sealOf w ∧
          w = s.genOf slot ++ w0.extractLsb' 32 12 ++ 0#12 ++ w0.extractLsb' 0 20
      else s.WritesX t rd 0 (s.core.h.pc + 4)

/-- R119, R122 to R125: outside regions a system form with a valid capability of the right it needs, and room in network 3's
queue, is sent to the slot that the capability names, and its token register is pending until the result returns; so is sys.remap,
with rs2 bit 0 (R127, R368).
R126, R127: sys.freeze retires and makes the freeze net's assertion due; sys.inject of an existing kind and bit at an aligned
address that the hart may name alters the stored word: kind 0 flips one bit, kind 1 two adjacent ones, kind 2 poisons the word;
another kind or bit raises cause 2, also where a source holds an error token. (The model's choice, entry 120: the damage is no write
to the line and does not wait for the hart's stores.) -/
def Obligations.SystemFormsAtTheIssuer : Prop :=
  (∀ i s op needs a srcs rd sel, netForm i s = some (op, needs, a, srcs, rd, sel) → s.free srcs [rd] = true →
     s.core.plain = true → s.readable (s.x a) 16 2 = true →
     let w0 := s.seenWord (s.x a)
     s.capFault s.core.jobOf w0 (s.seenWord (s.x a + 8)) needs = 0 → (s.core.sendq 3).length < 16 →
     let slot := slotOf (w0.extractLsb' 0 8).toNat (w0.extractLsb' 8 8).toNat
     ∃ t, exec i s = .next t ∧ s.OnlyCoreDue t ∧ t.x = s.x ∧
       t.core = ({ s.core with m.sendq := t.core.m.sendq, h.pend := t.core.h.pend, h.mark := t.core.h.mark } : Core).counted
         (s.core.h.pc + 4) ∧
       (∀ r, hasBit t.core.h.pend r = (hasBit s.core.h.pend r || decide (r = rd ∧ rd ≠ 0))) ∧
       (∀ r, hasBit t.core.h.mark r = (hasBit s.core.h.mark r && !decide (r = rd ∧ rd ≠ 0))) ∧
       (∀ vn, t.core.sendq vn = s.core.sendq vn ++ if vn = 3 then
         [{ dst := slot, job := s.core.jobOf, rl := none,
            body := .sys { op := op, issuer := s.cur, target := slot, sel := sel, rd := rd, serial := s.core.serialOf } }]
         else []) ∧
       t.agenda = s.agenda ++ [{ ev := .messageInject, arg := { place := s.cur } }]) ∧
  ((∀ s : State, s.core.h.mode ≠ .u → s.core.plain = true →
     ∃ t, exec .sysFreeze s = .next t ∧ s.OnlyCoreDue t ∧ t.core = s.core.counted (s.core.h.pc + 4) ∧
       t.agenda = s.agenda ++ [{ ev := .freezeAssert, arg := { place := s.cur } }]) ∧
   (∀ (s : State) a b, (∀ r, r = a ∨ r = b → hasBit s.core.h.pend r = false ∧ hasBit s.core.h.hpend r = false) →
     2 < (s.x b).toNat % 256 ∨ 71 < (s.x b).toNat / 256 % 256 →
     ∃ t w, exec (.sysInject a b) s = .next t ∧ encode (.sysInject a b) = some w ∧ s.Traps t 2 (w.setWidth 64)) ∧
   ∀ (s : State) a b f, s.free [a, b] [] = true → (s.x a).toNat % 8 = 0 →
     (s.core.h.mode = .u → inWindow (s.x a) 8 = true) → s.resolve s.cur 0 (s.x a) = .at_ f →
     let kind := (s.x b).extractLsb' 0 8
     let n := ((s.x b).extractLsb' 8 8).toNat
     kind.toNat ≤ 2 → n ≤ 71 →
     ∃ t, exec (.sysInject a b) s = .next t ∧ s.OnlyCoreMem t ∧ t.core = s.core.counted (s.core.h.pc + 4) ∧
       (∀ g, wordAt g ≠ wordAt f → t.mem.byte g = s.mem.byte g ∧ t.mem.tag g = s.mem.tag g) ∧
       let flip (j : Nat) : Bool := (kind = 0 && j = n) || (kind = 1 && (j = n || j = (n + 1) % 72))
       (∀ j, j < 64 → (t.mem.word (wordAt f)).getLsbD j = ((s.mem.word (wordAt f)).getLsbD j ^^ flip j)) ∧
       (∀ j, j < 72 → (t.mem.tag f).flips.getLsbD j = ((s.mem.tag f).flips.getLsbD j ^^ flip j)) ∧
       (t.mem.tag f).full = (s.mem.tag f).full ∧ (t.mem.tag f).poison = ((s.mem.tag f).poison || kind = 2))

/-! ### Calls, returns, fences -/

/-- R96, R158, R160 and the published causes: ecall raises cause 8, 9 or 11 by the mode it is made in, with tval 0; ebreak
raises cause 3 with tval = its pc.
R165, R169 and the published rules: mret in M mode, and sret in S or M mode where TSR allows it, give back the previous mode
and interrupt enable and go on at xepc; without a task a return to 0 gives the idle hart to the core scheduler; a return to a
task after an overrun restarts its count. (That a return to 0 leaves a hart without a task idle, and that a count is restarted by
nothing but the return after its overrun, are the model's choices, entries 5 and 24.) -/
def Obligations.CallsAndReturns : Prop :=
  (∀ s : State,
     (∃ t, exec .ecall s = .next t ∧
       s.Traps t (match s.core.h.mode with | .u => 8 | .s => 9 | .m => 11) 0) ∧
     ∃ t, exec .ebreak s = .next t ∧ s.Traps t 3 s.core.h.pc) ∧
  (∀ (s : State) (m : Bool), s.core.h.hs ≠ .idle → (m = true → s.core.h.mode = .m) →
     (m = false → s.core.h.mode = .m ∨ s.core.h.mode = .s ∧ s.core.c.mstatus.getLsbD 22 = false) →
     let st := s.core.c.mstatus
     let mode : Priv := if m then (if st.getLsbD 11 then (if st.getLsbD 12 then .m else .s) else .u)
       else if st.getLsbD 8 then .s else .u
     let pc := if m then s.core.t.mepc else s.core.t.sepc
     ∃ t, exec (if m then .mret else .sret) s = .next t ∧ s.OnlyCoreDue t ∧
       t.core = { s.core with
         h := t.core.h, c.mstatus := t.core.c.mstatus, n := (s.core.counted 0).n, u := (s.core.counted 0).u } ∧
       (∀ n, t.core.c.mstatus.getLsbD n =
         if m then (if n = 3 then st.getLsbD 7 else if n = 7 then true else if n = 11 ∨ n = 12 then false else st.getLsbD n)
         else if n = 1 then st.getLsbD 5 else if n = 5 then true else if n = 8 then false else st.getLsbD n) ∧
       (s.core.h.task = none → pc = 0 →
         t.core.h = { s.core.h with mode := .u, hs := .idle, pc := 0, traps := [] } ∧
         t.agenda = s.agenda ++ (if s.core.u.preempt then [{ ev := .swapOut, arg := { place := s.cur } }] else [])
           ++ (if s.core.u.whold then [{ ev := .barchanCopySlot, arg := { place := slotDie s.cur } },
               { ev := .removalRequest, arg := { place := slotDie s.cur } }] else [])
           ++ [{ ev := .taskDispatch, arg := { place := s.cur } }]) ∧
       (s.core.h.task = none → pc ≠ 0 →
         t.core.h = { s.core.h with mode := mode, pc := pc, traps := s.core.h.traps.drop 1 } ∧ t.agenda = s.agenda) ∧
       ∀ k, s.core.h.task = some k →
         t.agenda = s.agenda ∧
         t.core.h = { s.core.h with
           mode := mode, pc := pc, traps := s.core.h.traps.drop 1,
           task := if k.overran = true ∧ (mode = .u ∨ mode = .s ∧ k.item.job = 0)
             then some { k with count := 0, overran := false } else some k })

/-- R96, R245, R271, R286: each fence retires, with no other effect, once what it waits for is done: the store buffer is empty,
and no posted form of the hart is on its way to another die; fence.eng: no engine command of the hart is left;
fence.mx: the matrix queue is empty. Until then the hart waits.
R96, R349: wfi in S or M mode, where TW allows it, retires, and the hart then waits unless an interrupt it enables is
pending; sfence.vma removes from the die's translation unit the entries of the job and address that its registers name (x0:
every one), and nothing else. -/
def Obligations.FencesAndWaits : Prop :=
  (∀ i s go, fenceForm i s = some go →
     if go then ∃ t, exec i s = .next t ∧ s.WritesX t 0 0 (s.core.h.pc + 4) else exec i s = .next s) ∧
  ((∀ s : State, s.core.h.mode ≠ .u → (s.core.h.mode = .s → s.wfiPending s.cur = false → s.core.c.mstatus.getLsbD 21 = false) →
     ∃ t, exec .wfi s = .next t ∧ s.OnlyCore t ∧
       t.core = if s.wfiPending s.cur then s.core.counted (s.core.h.pc + 4)
         else { s.core.counted (s.core.h.pc + 4) with h.hs := .wfi, h.pc := s.core.h.pc + 4 }) ∧
   ∀ (s : State) a b, s.core.h.mode ≠ .u → (s.core.h.mode = .s → s.core.c.mstatus.getLsbD 20 = false) →
     s.free [a, b] [] = true →
     ∃ t, exec (.sfenceVma a b) s = .next t ∧ t.core = s.core.counted (s.core.h.pc + 4) ∧
       { t with cores := s.cores, dies := s.dies } = s ∧ (∀ n, n ≠ s.cur → t.coreAt n = s.coreAt n) ∧
       (∀ d, d ≠ slotDie s.cur → t.dieAt d = s.dieAt d) ∧
       t.dieAt (slotDie s.cur) = { s.dieAt (slotDie s.cur) with x.tlb := (t.dieAt (slotDie s.cur)).x.tlb } ∧
       ∀ e, e ∈ (t.dieAt (slotDie s.cur)).x.tlb ↔ e ∈ (s.dieAt (slotDie s.cur)).x.tlb ∧
         ¬ ((b = 0 ∨ e.job = (s.x b).setWidth 12) ∧ (a = 0 ∨ e.covers (s.x a) = true)))

/-! ### Recovery regions and transactions -/

/-- R173 to R175, R177 to R179, R187: where the log and the stack have room, rcv.begin and txn.begin push their entry, with
the log's top as its mark, the form's own address as its begin and the carried count; they log a marker and the eight k
registers, and txn.begin the registers of its mask; the outermost transaction takes the carried stamp or the cluster's next
one, with empty read and write sets. Only log bytes of memory change.
R177, R178: rcv.preserve logs the registers of its mask that the innermost entry has not logged yet and adds them to it;
txn.else sets the innermost transaction's alternative. Every register keeps its value, and only log bytes of memory
change. -/
def Obligations.BeginPreserveElse : Prop :=
  (∀ (s : State) (txn : Bool) (a : XReg),
     let l := if txn then maskNames (s.x a) [] else []
     let c := s.core
     (txn = true → s.free (a :: maskX l) [] = true) → c.r.stack.length < 8 → c.logFits (144 + recordBytes l) = true →
     c.e.sb = [] → s.unwatchedRange (spFlat s.cur c.r.logTop) (144 + recordBytes l) = true →
     let outer := txn && !c.r.stack.any Entry.txn
     let top := c.r.logTop
     ∃ t, exec (if txn then .txnBegin a else .rcvBegin) s = .next t ∧ (∀ n, n ≠ s.cur → t.coreAt n = s.coreAt n) ∧
       t.core.h = { s.core.h with pc := s.core.h.pc + 4 } ∧
       t.core.r = { c.r with
         carry := none, logTop := top + 144 + recordBytes l,
         doomed := if outer then false else c.r.doomed, rset := if outer then [] else c.r.rset,
         wset := if outer then [] else c.r.wset,
         stack := { txn := txn, mark := top, begin_ := c.h.pc, count := (c.r.carry.map Prod.fst).getD 0, regs := l,
                    stamp := if outer then ((c.r.carry.bind Prod.snd).getD ((s.clusterAt (slotCluster s.cur)).stamp + 1))
                      else 0 } :: c.r.stack } ∧
       (t.clusterAt (slotCluster s.cur)).stamp = (s.clusterAt (slotCluster s.cur)).stamp +
         (if outer ∧ c.r.carry.bind Prod.snd = none then 1 else 0) ∧
       t.mem.word (spFlat s.cur top) = 1#4 ++ 0#12 ++ c.h.pc.setWidth 48 ∧
       t.mem.word (spFlat s.cur top + 8) = BitVec.ofNat 64 ((if txn then 1 else 0)
         + 256 * (c.r.carry.map Prod.fst).getD 0 + 4096 * (c.r.stack.length + 1)) ∧
       (∀ j, j < 8 → t.mem.word (spFlat s.cur top + 16 * (j + 1)) = 4#4 ++ BitVec.ofNat 60 j ∧
         t.mem.word (spFlat s.cur top + 16 * (j + 1) + 8) = s.k (BitVec.ofNat 3 j)) ∧
       ∀ g, g < spFlat s.cur top ∨ spFlat s.cur top + 144 + recordBytes l ≤ g → t.mem.byte g = s.mem.byte g) ∧
  ((∀ (s : State) a e rest, s.core.r.stack = e :: rest →
     let l := maskNames (s.x a) e.regs
     s.free (a :: maskX l) [] = true → s.core.logFits (recordBytes l) = true →
     let top := s.core.r.logTop
     s.unwatchedRange (spFlat s.cur top) (recordBytes l) = true →
     ∃ t, exec (.rcvPreserve a) s = .next t ∧ t.core.h = { s.core.h with pc := s.core.h.pc + 4 } ∧
       t.core.r = { s.core.r with logTop := top + recordBytes l, stack := { e with regs := e.regs ++ l } :: rest } ∧
       ∀ g, g < spFlat s.cur top ∨ spFlat s.cur top + recordBytes l ≤ g → t.mem.byte g = s.mem.byte g) ∧
   ∀ (s : State) a j, s.free [a] [] = true → s.core.r.stack.findIdx? Entry.txn = some j →
     ∃ t, exec (.txnElse a) s = .next t ∧
       if (s.x a).toNat % 4 = 0 then s.OnlyCore t ∧
         t.core = ({ s.core with r.stack := t.core.r.stack } : Core).counted (s.core.h.pc + 4) ∧
         t.core.r.stack.length = s.core.r.stack.length ∧
         ∀ n, t.core.r.stack[n]? = if n = j then s.core.r.stack[n]?.map fun e => { e with alt := s.x a }
           else s.core.r.stack[n]?
       else s.Traps t 0 (s.x a))

/-- R160, R176, R178: a region form that finds no entry of the kind it needs raises cause 49 with its own bits.
R175, R178, R181, R188, R189, R194: rcv.fail rolls the innermost region back and goes on at its begin with the same count
carried; txn.abort drops the innermost transaction and what lies above it and goes on at the next instruction; txn.retry of a
transaction with an alternative goes to it, and of an outermost one without puts the task to sleep on the lines it read. Each
waits for the hart's commands. (rollsBack: no log record is uncorrectable. The model's choices: txn.retry that goes to its alternative
clears the sets, entry 25; a handler above the task's privilege acts on the hart's one stack as well, entry 60; the wait takes in the
matrix queue, where R223 says otherwise, entry 142; cont, the task's serial number kept in the sleeping record, entry 3.) -/
def Obligations.RegionFormsThatRollBack : Prop :=
  (∀ (s : State) (i : Instr), s.core.r.closing = false →
     (i = .rcvEnd ∧ (∀ e, s.core.r.stack.head? = some e → e.txn = true) ∨
      i = .rcvFail ∧ (∀ e, s.core.r.stack.head? = some e → e.txn = true) ∨
      i = .txnEnd ∧ (∀ e, s.core.r.stack.head? = some e → e.txn = false) ∨
      (i = .txnAbort ∨ i = .txnRetry) ∧ (∀ e ∈ s.core.r.stack, e.txn = false) ∨
      ∃ a, (i = .rcvPreserve a ∧ s.core.r.stack = [] ∨ i = .txnElse a ∧ ∀ e ∈ s.core.r.stack, e.txn = false) ∧
        s.free [a] [] = true) →
     ∃ t w, exec i s = .next t ∧ encode i = some w ∧ s.Traps t 49 (w.setWidth 64)) ∧
  ((∀ (s : State) e rest, s.core.r.stack = e :: rest → e.txn = false → s.commandsDone = true → s.rollsBack 0 true = true →
     ∃ t, exec .rcvFail s = .next t ∧ t.core.h.pc = e.begin_ ∧ t.core.r.stack = rest ∧
       t.core.r.carry = some (e.count, none) ∧ t.core.r.hold = s.core.r.hold.filter fun x => x.depth < rest.length + 1) ∧
   (∀ (s : State) j e, s.core.r.stack.findIdx? Entry.txn = some j → s.core.r.stack[j]? = some e → s.commandsDone = true →
     s.rollsBack j false = true →
     ∃ t, exec .txnAbort s = .next t ∧ t.core.h.pc = s.core.h.pc + 4 ∧ t.x = s.x ∧ t.v = s.v ∧ t.k = s.k ∧
       t.core.r.stack = s.core.r.stack.drop (j + 1) ∧ t.core.r.carry = s.core.r.carry) ∧
   (∀ (s : State) e, s.core.r.stack = [e] → e.txn = true → e.alt ≠ 0 → s.commandsDone = true →
     (s.popLog (e.mark + 144) true (some e.mark) (s.core.r.logTop / 16 + 1)).2 = none →
     ∃ t, exec .txnRetry s = .next t ∧ t.core.h.pc = e.alt ∧ t.core.r.wset = [] ∧
       t.core.r.stack = [{ e with alt := 0, words := [], regs := [] }]) ∧
   ∀ (s : State) e k, s.core.r.stack = [e] → e.txn = true → e.alt = 0 → s.core.r.doomed = false → s.commandsDone = true →
     s.core.h.task = some k → s.rollsBack 0 false = true →
     max 1 s.core.r.rset.length ≤ s.wakeFree (slotCluster s.cur) →
     ∃ t w, exec .txnRetry s = .next t ∧ t.core.h.task = none ∧ t.core.h.hs = .idle ∧ t.core.r.stack = [] ∧
       w ∈ (t.clusterAt (slotCluster s.cur)).wake ∧ w.slot = s.cur ∧ w.lines = s.core.r.rset.map Prod.fst ∧
       w.item = { k.item with
         code := e.begin_.setWidth 48, prio := k.prio, join := 0, wake := true, chn := false, cont := k.serial })

/-- R178, R183, R186: the end of the last open entry empties the stack and the log. rcv.end of a nested entry hands its sets to
its parent and leaves its records in the log. txn.end of the outermost transaction, not doomed and met by no older reader,
writes its buffered bytes to memory and ends its read set. (Entries that hold no effects.) -/
def Obligations.EndsCloseAnEntry : Prop :=
  (∀ (s : State) e, s.core.r.stack = [e] → e.txn = false → s.core.r.closing = false → s.core.r.hold = [] →
    s.core.r.owed = none →
    ∃ t, exec .rcvEnd s = .next t ∧ s.OnlyCore t ∧
      t.core = ({ s.core with r.stack := [], r.logTop := s.core.g.undo.toNat } : Core).counted (s.core.h.pc + 4)) ∧
  (∀ (s : State) e p rest, s.core.r.stack = e :: p :: rest → s.core.r.closing = false →
    (e.txn = true → rest.any Entry.txn = true ∨ p.txn = true) →
    ∃ t q, exec (if e.txn then .txnEnd else .rcvEnd) s = .next t ∧ s.OnlyCore t ∧
      t.core.r.stack = q :: rest ∧ q = { p with words := q.words, regs := q.regs } ∧
      (∀ w, w ∈ q.words ↔ w ∈ p.words ∨ w ∈ e.words) ∧ (∀ w, w ∈ q.regs ↔ w ∈ p.regs ∨ w ∈ e.regs) ∧
      t.core.r.logTop = s.core.r.logTop ∧ t.core.r.rset = s.core.r.rset ∧ t.core.r.wset = s.core.r.wset ∧
      t.core.h = { s.core.h with pc := s.core.h.pc + 4 } ∧
      ∀ x ∈ t.core.r.hold, x.depth ≤ rest.length + 1 ∨ x.depth > rest.length + 2) ∧
  ∀ (s : State) e, s.core.r.stack = [e] → e.txn = true → s.core.r.closing = false → s.core.r.hold = [] →
    s.core.r.owed = none → s.core.e.sb = [] → s.core.r.doomed = false → FMap.wf {} s.core.r.wset = true →
    (∀ p ∈ s.core.r.wset, p.1 % 8 = 0 ∧ p.2.full = none ∧ s.clean p.1 = true ∧ s.unwatched p.1 = true) →
    ∃ t, exec .txnEnd s = .next t ∧ s.OnlyCoreMem t ∧
      t.core = ({ s.core with r.stack := [], r.logTop := s.core.g.undo.toNat, r.rset := [], r.wset := [] } : Core).counted
        (s.core.h.pc + 4) ∧
      ∀ g, t.mem.byte g =
        let w := FMap.get {} s.core.r.wset (wordAt g)
        if w.mask.getLsbD (g % 8) then w.data.extractLsb' (8 * (g % 8)) 8 else s.mem.byte g

/-- R180, R181: a recovery region undoes what it did: rcv.begin, then a store of a whole word to clean memory outside the log,
then rcv.fail leave the hart at the begin with its registers and every byte of memory outside the log as before. -/
def Obligations.AFailedRegionRestoresMemory : Prop :=
  ∀ (s t u : State) a b, s.core.r.stack = [] → s.core.r.hold = [] → s.core.e.sb = [] → s.commandsDone = true →
    s.cur < slotCount → s.noWatchers = true → s.core.atTask = true → s.core.logFits 160 = true → s.core.h.hpend = 0 →
    s.free [a, b] [] = true → (s.x a).toNat % 8 = 0 → inWindow (s.x a) 8 = true →
    ((s.x a).toNat + 8 ≤ s.core.g.undo.toNat ∨ s.core.g.undol.toNat ≤ (s.x a).toNat) →
    s.core.g.undo.toNat ≤ s.core.r.logTop →
    s.clean (s.flat (s.x a)) = true →
    exec .rcvBegin s = .next t → exec (.sd b a 0) t = .next u →
    ∃ v, exec .rcvFail u = .next v ∧ v.core.h.pc = s.core.h.pc ∧ v.x = s.x ∧ v.v = s.v ∧ v.k = s.k ∧
      v.core.r.stack = [] ∧ v.core.r.logTop = s.core.r.logTop ∧
      u.mem.word (s.flat (s.x a)) = s.x b ∧
      ∀ g, g < spFlat s.cur s.core.r.logTop ∨ spFlat s.cur s.core.r.logTop + 160 ≤ g → v.mem.byte g = s.mem.byte g

/-! ### Tagged memory, samples, edges -/

/-- R250 to R254, R287: outside regions, with nothing buffered, a tagged-memory form on a clean word that it may go on with acts
at once: fe.ld and fe.ldk read the word, and fe.ld empties it; fe.st and fe.stf store and fill; fe.clr empties; fe.test reads
the full bit. No other byte or tag changes. A form that may not go on puts the task to sleep on the word's line.
R264: str.sample writes the word of its sample slot to rd and clears that slot's fresh bit, with x0 as well; no other slot
and nothing else of the hart changes. (cont, the task's serial number kept in the sleeping record, is the model's own, entry 3.) -/
def Obligations.TaggedFormsAndSamples : Prop :=
  (∀ i s a srcs dsts stores o, feOperands i = some (a, srcs, dsts, stores, o) → s.free srcs dsts = true →
     s.core.plain = true → s.core.e.sb = [] → s.crc = [] → (o.rl = true → s.core.m.nbOut = 0) →
     (s.x a).toNat % 8 = 0 → inWindow (s.x a) 8 = true →
     let f := s.flat (s.x a)
     let full := (s.mem.tag f).full
     if feGoes i full then
       s.clean f = true → s.unheard f = true → s.unwatched f = true →
       let e := feEffect i s (s.mem.word f) full
       ∃ t, exec i s = .next t ∧ s.OnlyCoreMem t ∧ s.WroteX t e.1 e.2.1 ∧
         t.core = ({ s.core with h.x := t.core.h.x, h.mark := t.core.h.mark } : Core).counted (s.core.h.pc + 4) ∧
         (∀ g, t.mem.byte g = match e.2.2.1 with
           | some d => if f ≤ g ∧ g < f + 8 then d.extractLsb' (8 * (g - f)) 8 else s.mem.byte g
           | none => s.mem.byte g) ∧
         ∀ g, t.mem.tag g = if wordAt g = f then { s.mem.tag f with full := e.2.2.2 } else s.mem.tag g
     else
       ∀ k, s.core.h.task = some k → s.core.atTask = true → s.core.h.pend &&& ~~~s.core.h.hpend = 0 →
         1 ≤ s.wakeFree (slotCluster s.cur) →
         ∃ t w, exec i s = .next t ∧ t.core.h.task = none ∧ t.core.h.hs = .idle ∧ t.mem = s.mem ∧
           w ∈ (t.clusterAt (slotCluster s.cur)).wake ∧ w.slot = s.cur ∧ w.lines = [lineAt f] ∧
           w.item = { k.item with prio := k.prio, join := 0, wake := true, chn := false, cont := k.serial }) ∧
  (∀ (s : State) rd a, s.free [a] [rd] = true →
     let i := (s.x a).toNat % 8
     ∃ t, exec (.strSample rd a) s = .next t ∧ s.OnlyCore t ∧ s.WroteX t rd (s.sampleWord i) ∧
       t.core.h = { s.core.h with x := t.core.h.x, mark := t.core.h.mark, pc := s.core.h.pc + 4 } ∧
       ∀ j, j < 8 → ∀ n, (t.sampleWord j).getLsbD n = ((s.sampleWord j).getLsbD n && !decide (j = i ∧ n = 47)))

/-- R259, R323: outside regions a put of a running firing names an output edge that its firing reserved, or raises cause 7 with
tval = state + 8e; a good one, with room in the stream queue, sends a token with the edge's next number and the core's reading
of the top codes, takes a credit, counts in the balance and spends the reservation. (The tval of a put that belongs to no firing and
the reading of the top codes at queueing are the model's choices, entries 35 and 32.) -/
def Obligations.PutsSendATokenOnce : Prop :=
  ∀ i s a srcs rl sc done words, putOperands i s = some (a, srcs, rl, sc, done, words) → s.free srcs [] = true →
    s.core.plain = true →
    match s.putTarget (s.x a) with
    | none => ∃ t, exec i s = .next t ∧ s.Traps t 7 (s.putTval (s.x a))
    | some (n, k, e) =>
      let r := if e.rel then some 3 else if rl then some sc else none
      e.src = .actor s.cur n → s.holdsTokens e = false → s.streamFull s.cur = false →
      (∀ q, r = some q → s.relReady s.cur q (slotDie (s.nodeSlot e.dst) != slotDie s.cur) = true) →
      let tok : Token := { edge := k, seq := e.seq, top := s.core.g.top, done := done, rl := r,
                           payload := (List.range (e.bytes / 8)).map fun j => words.getD j 0 }
      ∃ t e', exec i s = .next t ∧ t.mem = s.mem ∧ (∀ j, j ≠ s.cur → t.coreAt j = s.coreAt j) ∧
        t.core.h = { s.core.h with pc := s.core.h.pc + 4 } ∧
        t.core.sendq 2 = s.core.sendq 2 ++ [{ dst := s.nodeSlot e.dst, job := e.job, rl := r, body := .token tok }] ∧
        t.edgeAt k = some e' ∧ e'.seq = e.seq + 1 ∧ e'.credits = e.credits - 1 ∧
        (1 ≤ e.replay → e'.window.getLast? = some tok) ∧
        (t.core.actor n).resv = (s.core.actor n).resv &&& ~~~(1#8 <<< e.se) ∧ s.Counts t s.cur e.job 1

/-! ### Engine registers and the matrix unit -/

/-- R225 to R227, R229: eng.wr writes the named engine register's own bits, eng.rd reads it, eng.swap does both, the old value
going to rd; an index that names no register reads 0 and takes nothing; no other engine register changes.
R222, R227, R228, R234, R242, R247: a matrix form with room in the queue enters it with the shadow registers and CSRs it
captures; its token register is pending; its start becomes due, and the hart goes on. -/
def Obligations.EngineRegistersAndMatrixQueue : Prop :=
  ((∀ (s : State) rd a, s.free [a] [rd] = true →
     ∃ t, exec (.engRd rd a) s = .next t ∧ s.WritesX t rd (s.core.eng ((s.x a).toNat % 256)) (s.core.h.pc + 4)) ∧
   ∀ (s : State) rd a b (swap : Bool), s.free [a, b] (if swap then [rd] else []) = true →
     let i := (s.x a).toNat % 256
     ∃ t, exec (if swap then .engSwap rd a b else .engWr a b) s = .next t ∧ s.OnlyCore t ∧
       (if swap then s.WroteX t rd (s.core.eng i) else s.WroteX t 0 0) ∧
       t.core = ({ s.core with h.x := t.core.h.x, h.mark := t.core.h.mark, e.shadow := t.core.e.shadow } : Core).counted
         (s.core.h.pc + 4) ∧
       ∀ j, t.core.eng j = if j = i then s.x b &&& engMask i else s.core.eng j) ∧
  (∀ i s form zc za rd o, mxForm i = some (form, zc, za, rd, o) → s.free [] [rd] = true → s.core.e.mxq.length < 2 →
     ∃ t op, exec i s = .next t ∧ s.OnlyCoreDue t ∧ s.IssuesToken t rd ∧
       t.core.e = { s.core.e with mxq := s.core.e.mxq ++ [op], issued := s.core.e.issued + 1 } ∧
       op.form = form ∧ op.zc = zc ∧ op.za = za ∧ op.rd = rd ∧ op.ord = o ∧ op.started = false ∧ op.fin = 0 ∧
       op.serial = s.core.serialOf ∧ op.seq = s.core.e.issued ∧
       (∀ j, j < 0x20 → op.reg j = FMap.get (engReset j) s.core.e.shadow j) ∧
       op.cap.fmta = s.core.g.fmta ∧ op.cap.fmtb = s.core.g.fmtb ∧ op.cap.fmtc = s.core.g.fmtc ∧
       op.cap.scla = s.core.g.scla ∧ op.cap.sclb = s.core.g.sclb ∧ op.cap.top = s.core.g.top ∧
       t.agenda = s.agenda ++ [{ ev := .mxOpStart, arg := { place := s.cur } }])

/-- R30, R58, R59, R61, R223, R231 to R234, R237 to R243, R246: the head of the matrix queue starts once it may: the first
failing condition of the table ends it with nothing but its token, 0x100 + the condition's number with bit 63; else it reads its
operands piece by piece, the code table at its start, and takes effect once it has read them. mx.zero clears its accumulator and
no other; mx.mma and mx.mmac give each valid element of theirs the sum of its products, and change no other; mx.store writes the
bytes of its tile and scales, piece by piece. The token counts the bytes or products; the flags reach gvfflags unless the task
has ended. An operand, table or accumulator word that is bad ends the operation with the token 0x10. (fin = 0: not the follow-on
of a copy. The model's choice, entry 41: an operation reads and writes in pieces and takes effect in between as one act.) -/
def Obligations.MatrixOperationsComplete : Prop :=
  ∀ (s : State) o rest, s.arg.place < slotCount →
    let slot := s.arg.place
    let c := s.coreAt slot
    c.e.mxq = o :: rest → o.fin = 0 → s.upsets = [] → s.order = [] →
    let due (t : State) (ev : Instr) : Prop := ({ ev := ev, arg := { place := slot } } : Due) ∈ t.agenda
    let first (m : Mem) (n : Nat) : Prop := o.Fails c m slot n ∧ ∀ k, k < n → ¬ o.Fails c m slot k
    let flags (t : State) (f : Nat → Prop) : Prop := ∀ n, n < 6 →
      ((t.coreAt slot).g.fflags.getLsbD n = true ↔ c.g.fflags.getLsbD n = true ∨ (o.gone = false ∧ f n))
    let ends (t : State) (v : Word) : Prop := (t.coreAt slot).e.mxq = rest ∧ c.TokenArrives (t.coreAt slot) o.rd o.serial v
    let nothing (t : State) : Prop := t.mem = s.mem ∧ (t.coreAt slot).e = { c.e with mxq := rest } ∧ (t.coreAt slot).g = c.g
    let m := o.view s.mem
    (o.started = false → s.mayStart slot o.seq o.ord = true →
      let entry (i : Nat) : Nat := spFlat slot c.g.codes.toNat + 8 * i
      (o.lutted = true → ∀ i, i < 16 → s.clean (entry i) = true ∧ entry i % 8 = 0) →
      ((∀ n, ¬ o.Fails c s.mem slot n) →
        ∃ t, exec .mxOpStart s = .next t ∧ t.mem = s.mem ∧
          t.coreAt slot = { c with e.mxq := { o with
            started := true,
            lut := if o.lutted then (List.range 16).map fun i => (s.mem.word (entry i), false) else [] } :: rest } ∧
          due t .mxOpComplete) ∧
      ∀ n, first s.mem n → s.mayFinish slot o.seq o.ord = true →
        ∃ t, exec .mxOpStart s = .next t ∧ nothing t ∧ ends t (2 ^ 63 + 0x100 + BitVec.ofNat 64 n)) ∧
    (o.started = true → o.out = none →
      (∀ n, first m n → s.mayFinish slot o.seq o.ord = true →
        ∃ t, exec .mxOpComplete s = .next t ∧ nothing t ∧ ends t (2 ^ 63 + 0x100 + BitVec.ofNat 64 n)) ∧
      ((∀ n, ¬ o.Fails c m slot n) →
        (o.unread s.mem slot ≠ [] → (o.unread s.mem slot).all s.clean = true →
          ∃ t b g, exec .mxOpComplete s = .next t ∧ t.mem = s.mem ∧
            t.coreAt slot = { c with e.mxq := { o with got := g } :: rest } ∧ due t .mxOpComplete ∧
            (∃ f ∈ o.unread s.mem slot, f / 16 = b) ∧
            ∀ f, FMap.find g f = if f ∈ o.unread s.mem slot ∧ f / 16 = b then some (s.mem.word f, false) else FMap.find o.got f) ∧
        (o.unread s.mem slot = [] → s.mayFinish slot o.seq o.ord = true →
          let bad : Prop := o.lutBad = true ∨ (∃ p ∈ o.got, p.2.2 = true) ∨ ∃ i ∈ o.zReads m slot, i ∈ c.e.zbad
          (o.form = .zero →
            ∃ t, exec .mxOpComplete s = .next t ∧ t.mem = s.mem ∧ ends t 0 ∧ (t.coreAt slot).g = c.g ∧
              (∀ n, (t.coreAt slot).zWord n = if n / 1024 = o.zc.toNat then 0 else c.zWord n) ∧
              ∀ i, i ∈ (t.coreAt slot).e.zbad ↔ i ∈ c.e.zbad ∧ i / 512 ≠ o.zc.toNat) ∧
          (o.form ≠ .zero → bad → ∃ t, exec .mxOpComplete s = .next t ∧ nothing t ∧ ends t 0x8000000000000010) ∧
          (o.form = .mma ∨ o.form = .mmac → ¬ bad →
            ∃ (t : State) (r : Nat → Nat → Nat × Flags), exec .mxOpComplete s = .next t ∧ t.mem = s.mem ∧
              ends t (BitVec.ofNat 64 (o.rows.length * o.cols.length * o.kv)) ∧
              (∀ i ∈ o.rows, ∀ j ∈ o.cols, o.Accumulates c m slot i j (r i j) ∧
                (t.coreAt slot).zElem o.dbl (o.zIndex o.zc.toNat i j) = (r i j).1 % (if o.dbl then 2 ^ 64 else 2 ^ 32)) ∧
              (∀ n, (∀ i ∈ o.rows, ∀ j ∈ o.cols, n ≠ o.zIndex o.zc.toNat i j ∧
                  (o.dbl = true → n ≠ o.zIndex o.zc.toNat i j + 1)) → (t.coreAt slot).zWord n = c.zWord n) ∧
              flags t fun n => (∃ i ∈ o.rows, ∃ j ∈ o.cols, (r i j).2.getLsbD n = true) ∨
                (o.form = .mmac ∧ ∃ i q j, o.valid i q j ∧ o.usesA m slot i q = true ∧
                  (o.convertA c m slot i q).2.getLsbD n = true) ∨
                (n = 5 ∧ ∃ i q j, o.valid i q j ∧ ∃ a, (scaleAddr o.cap.scla o.cap.fmta (q / 32) i = some a ∨
                  scaleAddr o.cap.sclb o.cap.fmtb (q / 32) j = some a) ∧ m.localByte slot a = 0xFF)) ∧
          (o.form = .store → ¬ bad → (∀ a v, ¬ o.Writes c a v) →
            ∃ t, exec .mxOpComplete s = .next t ∧ nothing t ∧ ends t 0) ∧
          (o.form = .store → ¬ bad → (∃ a v, o.Writes c a v) →
            (o.tileBytes ++ o.scaleWrites).Nodup →
            ∃ t ps f, exec .mxOpComplete s = .next t ∧ t.mem = s.mem ∧
              t.coreAt slot = { c with e.mxq := { o with out := some (ps, f) } :: rest } ∧ due t .mxOpComplete ∧
              (∀ a v g b, o.Writes c a v → localFlat slot a = some g → seenByte [.store ps] g b = BitVec.ofNat 8 v) ∧
              (∀ g b, (∀ a v, o.Writes c a v → localFlat slot a ≠ some g) → seenByte [.store ps] g b = b) ∧
              ∀ n, f.getLsbD n = true ↔ ∃ i j t, i ∈ o.rows ∧ j ∈ o.cols ∧ o.IsScale c i t ∧ (o.stored c i j t).2.getLsbD n = true)))) ∧
    ∀ p ps f, o.started = true → o.out = some (p :: ps, f) → o.form = .store → s.noWatchers = true →
      (∀ w ∈ p, w.addr % 8 = 0 ∧ s.clean w.addr = true) → (ps = [] → s.mayFinish slot o.seq o.ord = true) →
      ∃ t, exec .mxOpComplete s = .next t ∧ (∀ g, t.mem.byte g = seenByte [.store [p]] g (s.mem.byte g)) ∧
        (∀ g, t.mem.tag g = s.mem.tag g) ∧
        (ps ≠ [] → t.coreAt slot = { c with e.mxq := { o with out := some (ps, f) } :: rest } ∧ due t .mxOpComplete) ∧
        (ps = [] → ends t (BitVec.ofNat 64 (o.tileBytes.length + o.scaleWrites.length)) ∧
          flags t fun n => f.getLsbD n = true)

/-! ### Copy, layout and DRAM commands -/

/-- R227, R242, R247, R265 to R267, R291, R297 to R299, R337 to R340: outside regions a copy form, a lay.go whose records pass
the checks, and a DRAM request form whose addresses do, enter their queue while it has room, with the operands and engine registers
they capture; the token register is pending and the engine's turn is due. A record's address that is not aligned raises cause 4, one
outside the windows cause 5, the source's first; the first check of the table that fails raises cause 48; with an extent of 0 lay.go
completes at once with token 0. A DRAM form's address raises the cause of R339. (The model's choice: lay.go is checked once both
records can be read, entry 53; a DRAM form's addresses are checked in the order of R161, entry 144.) -/
def Obligations.EngineCommandsQueue : Prop :=
  (∀ i s form rd a b o, copyForm i = some (form, rd, a, b, o) → s.free [a, b] [rd] = true → s.core.plain = true →
    s.core.e.cpq.length < 4 →
    ∃ t c, exec i s = .next t ∧ s.OnlyCoreDue t ∧ s.IssuesToken t rd ∧
      t.core.e = { s.core.e with cpq := s.core.e.cpq ++ [c], issued := s.core.e.issued + 1 } ∧
      c.form = form ∧ c.src = s.x a ∧ c.dst = s.x b ∧ c.rd = rd ∧ c.ord = o ∧ c.serial = s.core.serialOf ∧
      c.job = s.core.jobOf ∧ c.phase = .ready ∧ c.row = 0 ∧ c.idx = none ∧ c.stage = none ∧ c.buf = [] ∧ c.err = none ∧
      c.gone = false ∧ c.seq = s.core.e.issued ∧
      c.len = (s.core.eng 0x20).toNat ∧ c.rows = (s.core.eng 0x21).toNat ∧ c.spitch = stepOf (s.core.eng 0x22) ∧
      c.dpitch = stepOf (s.core.eng 0x23) ∧ c.ibase = s.core.eng 0x24 ∧ c.fe = (s.core.eng 0x25).getLsbD 0 ∧
      c.fin = s.core.eng 0x26 ∧ c.mxop = s.core.eng 0x27 ∧
      t.agenda = s.agenda ++ [{ ev := .cpCommandRun, arg := { place := s.cur } }]) ∧
  (∀ (s : State) o rd a b, s.free [a, b] [rd] = true → s.core.plain = true →
    let sa := s.x a
    let da := s.x b
    let traps (code : Nat) (v : Word) : Prop := ∃ t, exec (.layGo o rd a b) s = .next t ∧ s.Traps t code v
    (sa.toNat % 64 ≠ 0 → traps 4 sa) ∧
    (sa.toNat % 64 = 0 → da.toNat % 64 ≠ 0 → traps 4 da) ∧
    (sa.toNat % 64 = 0 → da.toNat % 64 = 0 → inWindow sa 64 = false → traps 5 sa) ∧
    (sa.toNat % 64 = 0 → da.toNat % 64 = 0 → inWindow sa 64 = true → inWindow da 64 = false → traps 5 da) ∧
    (s.readable sa 64 8 = true → s.readable da 64 8 = true →
      let sv := littleEndian s.seen (s.flat sa) 64
      let dv := littleEndian s.seen (s.flat da) 64
      let w := s.core.eng 0x40
      let q := (s.clusterAt (slotCluster s.cur)).layq
      let first (n : Nat) : Prop := layFails sv dv w n ∧ ∀ k, k < n → ¬ layFails sv dv w k
      (∀ n, n ≠ 7 → first n → traps 48 (layTval sa da n)) ∧
      ((q.filter fun l => l.slot = s.cur).length < 2 →
        (first 7 → s.core.eng 0x41 = 0 → s.mayFinish s.cur s.core.e.issued o = true →
            (o.rl = true → s.core.e.sb = []) →
          ∃ t, exec (.layGo o rd a b) s = .next t ∧ t.mem = s.mem ∧ t.core.h.pc = s.core.h.pc + 4 ∧ t.x rd = 0 ∧
            hasBit t.core.h.pend rd = false ∧ (t.clusterAt (slotCluster s.cur)).layq = q) ∧
        ((∀ n, ¬ layFails sv dv w n) →
          ∃ t c, exec (.layGo o rd a b) s = .next t ∧ t.mem = s.mem ∧ s.IssuesToken t rd ∧
            t.core.e = { s.core.e with issued := s.core.e.issued + 1 } ∧
            t.clusterAt (slotCluster s.cur) = { s.clusterAt (slotCluster s.cur) with layq := q ++ [c] } ∧
            c.src.Of sv ∧ c.dst.Of dv ∧ c.dmw = w ∧ c.fin = s.core.eng 0x41 ∧ c.rd = rd ∧
            c.ord = o ∧ c.slot = s.cur ∧ c.seq = s.core.e.issued ∧ c.pos = 0 ∧ c.err = none ∧ c.phase = .ready ∧
            c.serial = s.core.serialOf ∧ c.job = s.core.jobOf ∧
            t.agenda = s.agenda ++ [{ ev := .layPass, arg := { place := slotCluster s.cur } }])))) ∧
  ∀ i s srcs rd o vec far near, dramForms i s = some (srcs, rd, o, vec, far, near) → s.free srcs [rd] = true →
    s.core.plain = true →
    let ctl := (s.core.eng 0x51).toNat
    let len := (s.core.eng 0x50).toNat
    let op := if vec then ctl % 2 else if ctl % 16 = 15 then 0 else ctl % 16
    let n := if vec then ctl / 256 % 8 + 1 else 1
    let size := if ctl / 16 % 2 = 1 then 4 else 8
    let align := if op < 2 then 8 else size
    let m := max 1 (if op = 14 then 2 * size else if op < 2 then len else size)
    let traps (code : Nat) (v : Word) : Prop := ∃ t, exec i s = .next t ∧ s.Traps t code v
    let aligned (f : Nat → Word) (k : Nat) : Prop := ∀ j, j < k → (f j).toNat % align = 0
    (∀ k, k < n → aligned near k → (near k).toNat % align ≠ 0 → traps (if op = 1 then 4 else 6) (near k)) ∧
    (aligned near n → ∀ k, k < n → aligned far k → (far k).toNat % align ≠ 0 → traps (if op = 0 then 4 else 6) (far k)) ∧
    (aligned near n → aligned far n →
      (∀ k, k < n → (∀ j, j < k → inWindow (near j) m = true) → inWindow (near k) m = false →
        traps (if op = 1 then 5 else 7) (near k)) ∧
      ((∀ k, k < n → inWindow (near k) m = true) → s.core.e.drq.length < 8 →
        ∃ t c, exec i s = .next t ∧ s.OnlyCoreDue t ∧ s.IssuesToken t rd ∧
          t.core.e = { s.core.e with drq := s.core.e.drq ++ [c], issued := s.core.e.issued + 1 } ∧
          c.vec = vec ∧ c.op = op ∧ dramWidth c.ctl = size ∧ c.ctl = s.core.eng 0x51 ∧ c.len = len ∧
          c.rows = (List.range n).map (fun k => (far k, near k)) ∧ c.fin = s.core.eng 0x54 ∧ c.rd = rd ∧ c.ord = o ∧
          c.serial = s.core.serialOf ∧ c.job = s.core.jobOf ∧ c.seq = s.core.e.issued ∧ c.left = none ∧ c.err = none ∧
          c.phase = .ready ∧
          t.agenda = s.agenda ++ [{ ev := .dramReqRun, arg := { place := s.cur, a := s.core.e.issued } }]))

/-- R267 to R270: the head copy command takes its list's check, then element after element: an element's index is read, then its
source piece by piece, each an aligned 16-byte block, and then its destination is written piece by piece; no other byte changes. At
the end the token counts len × rows bytes; a bad index word ends the command with the token 0x10. A finished command leaves the
queue with its completion word and token, and a cp.gomx without error hands both to its matrix operation. (Elements in the core's
windows on clean words. The model's choice: entry 40, the stores it waits for; entry 41, an event moves one piece.) -/
def Obligations.CopyCommandsRun : Prop :=
  ∀ (s : State) c rest, s.arg.place < slotCount →
    let slot := s.arg.place
    let k := s.coreAt slot
    k.e.cpq = c :: rest →
    let runs (t : State) (c' : CpCmd) (ev : Instr) : Prop :=
      exec .cpCommandRun s = .next t ∧ t.coreAt slot = { k with e.cpq := c' :: rest } ∧
      t.agenda = s.agenda ++ [{ ev := ev, arg := { place := slot } }]
    let finishes (v : Word) : Prop := ∃ t, runs t { c with phase := .finished v } .cpComplete ∧ t.mem = s.mem
    let indexed := c.form = .gath ∨ c.form = .scat
    let src (i : Nat) : Word := c.src + BitVec.ofNat 64 (if c.form = .gath then i else c.row) * c.spitch
    let dst (i : Nat) : Word := c.dst + BitVec.ofNat 64 (if c.form = .scat then i else c.row) * c.dpitch
    (c.phase = .ready → c.stage = none → (c.row = 0 → s.mayStart slot c.seq c.ord = true) →
      (c.len = 0 ∨ c.rows = 0 → finishes 0) ∧
      (c.len ≠ 0 → c.rows ≠ 0 →
        let listOk := c.ibase.toNat % 4 = 0 ∧ inWindow c.ibase (4 * c.rows) = true
        (indexed → ¬ listOk → finishes 0x8000000000000014) ∧
        ((indexed → listOk) → c.rows ≤ c.row → finishes (c.err.getD (BitVec.ofNat 64 (c.len * c.rows)))) ∧
        ((indexed → listOk) → c.row < c.rows → c.idx = none → s.landed slot c.seq = true →
          let f := (localFlat slot (c.ibase + BitVec.ofNat 64 (4 * c.row))).getD 0
          (indexed → (s.mem.tag f).poison = true → (s.mem.tag f).flips = 0 →
            ∃ t, runs t { c with phase := .finished 0x8000000000000010 } .cpComplete ∧
              ∀ g, t.mem.byte g = s.mem.byte g ∧ t.mem.tag g = s.mem.tag g) ∧
          ((indexed → s.clean f = true) →
            let i := if indexed then littleEndian s.mem.byte f 4 else c.row
            inWindow (src i) c.len = true → inWindow (dst i) c.len = true →
            ∃ t l, tiles 16 (src i) c.len l ∧ t.mem = s.mem ∧
              runs t { c with idx := some i, stage := some (false, l) } .cpCommandRun)))) ∧
    (∀ w l i, c.phase = .ready → c.stage = some (w, l) → c.idx = some i → l ≠ [] →
      inWindow (if w then dst i else src i) c.len = true → (∀ p ∈ l, 0 < p.2 ∧ p.1 + p.2 ≤ c.len) →
      ∀ h, localFlat slot (if w then dst i else src i) = some h →
      (w = false → (∀ j, j < c.len → s.clean (h + j) = true) →
        (∀ p ∈ l, ∀ j, p.1 ≤ j → j < p.1 + p.2 → FMap.find c.buf j = none) →
        ∃ t m p b, p ∈ l ∧ runs t { c with buf := b, stage := some m } .cpCommandRun ∧ t.mem = s.mem ∧
          (if l.erase p = [] then m.1 = true ∧ tiles 16 (dst i) c.len m.2 else m = (false, l.erase p)) ∧
          ∀ j, FMap.find b j = if p.1 ≤ j ∧ j < p.1 + p.2 then some (s.mem.byte (h + j), false) else FMap.find c.buf j) ∧
      ∀ b : Nat → Byte, w = true → (∀ j, j < c.len → s.clean (h + j) = true ∧ FMap.find c.buf j = some (b j, false)) →
        s.noWatchers = true → (c.fe = true → ∀ j, j < c.len → s.unheard (h + j) = true) →
        ∃ t p, p ∈ l ∧ s.mem.Engined t.mem (h + p.1) p.2 (fun j => b (p.1 + j)) c.fe ∧
          runs t (if l.erase p = [] then { c with row := c.row + 1, idx := none, stage := none, buf := [] }
            else { c with stage := some (true, l.erase p) }) .cpCommandRun) ∧
    ∀ v, c.phase = .finished v → s.mayFinish slot c.seq c.ord = true → s.landed slot c.seq = true →
      ((c.form = .gomx → v.getLsbD 63 = true) → s.quietFin slot c.fin = true →
        ∃ t, exec .cpComplete s = .next t ∧ (t.coreAt slot).e = { k.e with cpq := rest } ∧
          s.Completes t slot c.rd c.serial c.fin v) ∧
      (c.form = .gomx → v.getLsbD 63 = false → k.e.mxq.length < 2 →
        ∃ t o, exec .cpComplete s = .next t ∧ t.mem = s.mem ∧
          t.coreAt slot = { k with e.cpq := rest, e.mxq := k.e.mxq ++ [o], e.issued := k.e.issued + 1 } ∧
          o.form = (if c.mxop.getLsbD 8 then .mmac else .mma) ∧ o.zc = c.mxop.extractLsb' 0 3 ∧
          o.za = c.mxop.extractLsb' 3 3 ∧ o.ord.aq = c.mxop.getLsbD 10 ∧ o.ord.rl = c.mxop.getLsbD 9 ∧
          o.ord.scope = c.mxop.extractLsb' 11 2 ∧ o.rd = c.rd ∧ o.fin = c.fin ∧ o.cap = c.cap ∧ o.serial = c.serial ∧
          o.gone = c.gone ∧ o.seq = k.e.issued ∧ o.started = false ∧
          ({ ev := .mxOpStart, arg := { place := slot } } : Due) ∈ t.agenda)

/-- R295, R301 to R303: a pass of the layout engine gives each destination element the bytes of the source element that the
mapping names, every source read before a byte is written; no other byte changes. At the end the token is known, and a finished
command leaves the queue with its completion word and token. (Whole-byte formats; elements in the core's windows on
clean words; no upset in the staging buffer. The model's choice: entry 40, the stores it waits for; entry 41, an event is a pass.) -/
def Obligations.LayoutCommandsRun : Prop :=
  ∀ (s : State) c rest, s.arg.place < clusterCount → c.slot < slotCount →
    let cl := s.arg.place
    (s.clusterAt cl).layq = c :: rest → s.upsets = [] →
    let after (t : State) (c' : LayCmd) (ev : Instr) : Prop :=
      t.clusterAt cl = { s.clusterAt cl with layq := c' :: rest } ∧ (∀ n, t.coreAt n = s.coreAt n) ∧
      t.agenda = s.agenda ++ [{ ev := ev, arg := { place := cl } }]
    (c.phase = .ready → (c.pos = 0 → s.mayStart c.slot c.seq c.ord = true) → s.landed c.slot c.seq = true →
      (∀ e ∈ c.src.ext ++ c.dst.ext, e ≠ 0) →
      (c.dst.count ≤ c.pos →
        ∃ t, exec .layPass s = .next t ∧ t.mem = s.mem ∧
          after t { c with phase := .finished (c.err.getD c.token) } .layComplete) ∧
      (c.pos < c.dst.count → fmtBits c.src.fmt ≠ 6 → c.src.fmt = c.dst.fmt → s.noWatchers = true →
        let at_ (a : Word) : Nat := (localFlat c.slot a).getD 0
        let from_ := (List.range c.pass).flatMap fun k => c.src.bytesAt (c.srcPos (c.pos + k))
        let to_ := (List.range c.pass).flatMap fun k => c.dst.bytesAt (c.dstPos (c.pos + k))
        (∀ a ∈ from_ ++ to_, (localFlat c.slot a).isSome = true ∧ s.clean (at_ a) = true) → (to_.map at_).Nodup →
        ∃ t, exec .layPass s = .next t ∧
          (∀ j, j < to_.length → t.mem.byte ((to_.map at_).getD j 0) = s.mem.byte ((from_.map at_).getD j 0)) ∧
          (∀ g, g ∉ to_.map at_ → t.mem.byte g = s.mem.byte g) ∧ (∀ g, t.mem.tag g = s.mem.tag g) ∧
          after t { c with pos := c.pos + c.pass } .layPass)) ∧
    ∀ v, c.phase = .finished v → s.mayFinish c.slot c.seq c.ord = true → s.landed c.slot c.seq = true →
      s.quietFin c.slot c.fin = true →
      ∃ t, exec .layComplete s = .next t ∧ (t.clusterAt cl).layq = rest ∧ s.Completes t c.slot c.rd c.serial c.fin v

/-- R338, R340, R341, R427: the DRAM commands of a core start in issue order, each with its rows cut at 4 KiB boundaries at least;
a started one performs one of its pieces, but none towards a home that an earlier command has still to reach: a read or write moves
bytes between its local address and storage, an atomic puts its old value at the local address and its new one at its target; on
clean data the token counts the bytes. A finished command leaves with its completion word and token. (Pieces of commands without
wafer-scope orders; pages that are not replicated. The model's choice: entry 40, the stores it waits for; entries 41 and 42, how a
command is cut and which of its pieces may go.) -/
def Obligations.DramCommandsRun : Prop :=
  ∀ (s : State) c, s.arg.place < slotCount →
    let slot := s.arg.place
    let k := s.coreAt slot
    k.dramCmd s.arg.a = some c →
    let becomes (t : State) (c' : DramCmd) (ev : Instr) : Prop :=
      (t.coreAt slot).e = { k.e with drq := k.e.drq.map fun d => if d.seq = c.seq then c' else d } ∧
      (t.coreAt slot).h = k.h ∧ ({ ev := ev, arg := { place := slot, a := c.seq } } : Due) ∈ t.agenda
    let first : Prop := ∀ d ∈ k.e.drq, c.seq ≤ d.seq
    (c.phase = .ready →
      (c.left = none → (∀ d ∈ k.e.drq, d.seq < c.seq → d.left ≠ none) → s.mayStart slot c.seq c.ord = true →
        ∃ t l, exec .dramReqRun s = .next t ∧ t.mem = s.mem ∧ becomes t { c with left := some l } .dramReqRun ∧
          (c.atomic = true → l = [(0, 0, dramWidth c.ctl)]) ∧
          (c.atomic = false → ∀ r, let a := (c.rows.getD r (0, 0)).1
            let parts := (l.filter fun p => p.1 = r).map Prod.snd
            if r < c.rows.length then tiles 4096 a c.len parts ∨ tiles 16 a c.len parts else parts = [])) ∧
      (c.left = some [] →
        ∃ t v, exec .dramReqRun s = .next t ∧ t.mem = s.mem ∧ becomes t { c with phase := .finished v } .dramReqComplete ∧
          ((∀ e, c.err = some e → v = e.2.2) ∧
            (c.err = none → v = BitVec.ofNat 64 (if c.atomic then dramWidth c.ctl else c.rows.length * c.len)))) ∧
      (∀ h l, c.left = some l → (∀ p ∈ l, s.pieceHome slot c p = some h) → l ≠ [] →
        (∃ d ∈ k.e.drq, d.seq < c.seq ∧ ∃ p ∈ d.left.getD [], s.pieceHome slot d p = some h) → exec .dramReqRun s = .next s) ∧
      ∀ l (F G : Nat × Nat × Nat → Nat), c.left = some l → l ≠ [] → first →
        c.acq = false → (c.ord.scope = 3 → c.ord.aq = false ∧ c.ord.rl = false) →
        s.noWatchers = true → s.noReplicas = true →
        (∀ p ∈ l, let a := (c.rows.getD p.1 (0, 0)).1 + BitVec.ofNat 64 p.2.1
          let b := (c.rows.getD p.1 (0, 0)).2 + BitVec.ofNat 64 p.2.1
          s.spot slot c.job a (dramAccess c.op) = (s, .at_ (F p)) ∧ localFlat slot b = some (G p) ∧
          inWindow b (if c.op = 14 then 2 * p.2.2 else p.2.2) = true) →
        (c.atomic = false → (∀ p ∈ l, ∀ j, j < p.2.2 → s.clean (F p + j) = true ∧ s.clean (G p + j) = true) →
          (c.ctl.getLsbD 5 = true → c.op = 0 → ∀ p ∈ l, ∀ j, j < p.2.2 → s.unheard (G p + j) = true) →
          ∃ t p, p ∈ l ∧ exec .dramReqRun s = .next t ∧
            (if c.op = 0 then s.mem.Engined t.mem (G p) p.2.2 (fun j => s.mem.byte (F p + j)) (c.ctl.getLsbD 5)
              else s.mem.Engined t.mem (F p) p.2.2 (fun j => s.mem.byte (G p + j)) false) ∧
            becomes t { c with left := some (l.erase p) } .dramReqRun) ∧
        (c.atomic = true → c.vec = false → c.ctl.getLsbD 5 = false →
          let n := dramWidth c.ctl
          ∀ f g, l = [(0, 0, n)] → f = F (0, 0, n) → g = G (0, 0, n) → f % n = 0 → g % n = 0 → g + 2 * n ≤ f ∨ f + n ≤ g →
          s.clean f = true → s.clean g = true → s.clean (g + n) = true →
          let old := littleEndian s.mem.byte f n
          let x := littleEndian s.mem.byte g n
          let y := littleEndian s.mem.byte (g + n) n
          let new := (if c.op = 14 then nbNew .cas (8 * n) old y x else nbNew (dramForm c.op) (8 * n) old x 0).getD old
          ∃ t, exec .dramReqRun s = .next t ∧
            (∀ h, t.mem.byte h = if f ≤ h ∧ h < f + n then BitVec.ofNat 8 (new / 256 ^ (h - f))
              else if g ≤ h ∧ h < g + n then BitVec.ofNat 8 (old / 256 ^ (h - g)) else s.mem.byte h) ∧
            (∀ h, t.mem.tag h = s.mem.tag h) ∧
            becomes t { c with left := some [] } .dramReqRun)) ∧
    ∀ v, c.phase = .finished v → s.mayFinish slot c.seq c.ord = true → s.landed slot c.seq = true →
      s.quietFin slot c.fin = true →
      ∃ t, exec .dramReqComplete s = .next t ∧
        (t.coreAt slot).e = { k.e with drq := k.e.drq.filter fun d => d.seq ≠ c.seq } ∧
        s.Completes t slot c.rd c.serial c.fin v

/-! ### Near-bank and barrier forms -/

/-- R96, R276, R279, R282, R287: outside regions a near-bank or barrier form on aligned cluster memory of its own cluster or
its grid goes on its way: a posted one, an AMO on cluster memory without destination among them, retires into the store buffer;
a fetching one, once the buffer is empty, is in its cluster's queue while the hart waits for the reply. A misaligned
target raises cause 6 and one outside cluster memory cause 7; the operand line of nb.vop raises cause 4 or 5. (The model's choice,
entry 67: nb.vop's target before its operand among the causes of one rank.) -/
def Obligations.NearBankFormsGoTheirWay : Prop :=
  (∀ i s form dbl o rd a b, nbScalar i = some (form, dbl, o, rd, a, b) →
    s.free (if form = .cas then [a, b, rd] else [a, b]) [rd] = true → s.core.plain = true →
    let align := if form = .addf then 64 else if dbl then 8 else 4
    let fetch := form == .cas || rd != 0
    ((s.x a).toNat % align ≠ 0 → ∃ t, exec i s = .next t ∧ s.Traps t 6 (s.x a)) ∧
    ((s.x a).toNat % align = 0 →
      match s.nbPlace (s.x a) with
      | none => ∃ t, exec i s = .next t ∧ s.Traps t 7 (s.x a)
      | some (cl, off) =>
        let op : NbOp := { form := form, dbl := dbl, cluster := cl, off := off, addr := s.x a, b := s.x b, cmp := s.x rd,
                           slot := s.cur, job := s.core.jobOf, fetch := fetch, rd := rd, ord := o }
        (fetch = false → s.postsAtOnce o cl = true → ∃ t, exec i s = .next t ∧ s.Posts t (.nb op)) ∧
        (fetch = true → s.core.e.sb = [] → s.reachesAtOnce o cl = true →
          ∃ t, exec i s = .next t ∧
            s.Fetches t rd cl { s.clusterAt cl with nbq := (s.clusterAt cl).nbq ++ [op] } .nbPortOp))) ∧
  (∀ i s sel dbl o a b, nbLine i = some (sel, dbl, o, a, b) → s.free [a, b] [] = true → s.core.plain = true →
    let traps (code : Nat) (v : Word) : Prop := ∃ t, exec i s = .next t ∧ s.Traps t code v
    ((s.x a).toNat % 64 ≠ 0 → traps 6 (s.x a)) ∧
    ((s.x a).toNat % 64 = 0 → (s.x b).toNat % 64 ≠ 0 → traps 4 (s.x b)) ∧
    ((s.x a).toNat % 64 = 0 → (s.x b).toNat % 64 = 0 → s.nbPlace (s.x a) = none → traps 7 (s.x a)) ∧
    ∀ cl off, (s.x a).toNat % 64 = 0 → s.nbPlace (s.x a) = some (cl, off) →
      ((s.x b).toNat % 64 = 0 → inWindow (s.x b) 64 = false → traps 5 (s.x b)) ∧
      (s.readable (s.x b) 64 8 = true → s.postsAtOnce o cl = true → ∃ t, exec i s = .next t ∧
        s.Posts t (.nb { form := .vop sel, dbl := dbl, cluster := cl, off := off, addr := s.x a, b := 0,
                         line := s.seenWords (s.x b) 8, slot := s.cur, job := s.core.jobOf, fetch := false, ord := o }))) ∧
  (∀ i s rd a b n, amoForm i = some (rd, a, b, n) → s.free [a, b] [rd] = true → s.core.plain = true →
    (s.x a).toNat % n = 0 → 0x1000000 ≤ (s.x a).toNat → (s.x a).toNat < 0x2000000 →
    let cl := slotCluster s.cur
    ∃ t, exec i s = .next t ∧
      let op : NbOp := { form := amoNb i, dbl := n == 8, cluster := cl, off := (s.x a).toNat - 0x1000000, addr := s.x a,
                         b := s.x b, slot := s.cur, job := s.core.jobOf, fetch := rd != 0, rd := rd,
                         ord := amoOrd i }
      (rd = 0 → s.Posts t (.nb op)) ∧
      (rd ≠ 0 → s.core.e.sb = [] →
        s.Fetches t rd cl { s.clusterAt cl with nbq := (s.clusterAt cl).nbq ++ [op] } .nbPortOp)) ∧
  ∀ i s form o rd a, barAsk i = some (form, o, rd, a) → s.free [a] [rd] = true → s.core.plain = true →
    ((s.x a).toNat % 128 ≠ 0 → ∃ t, exec i s = .next t ∧ s.Traps t 6 (s.x a)) ∧
    ((s.x a).toNat % 128 = 0 →
      match s.nbPlace (s.x a) with
      | none => ∃ t, exec i s = .next t ∧ s.Traps t 7 (s.x a)
      | some (cl, off) =>
        let op : BarOp := { form := form, cluster := cl, off := off, addr := s.x a, slot := s.cur, idx := slotIdx s.cur,
                            rd := rd, ord := o }
        (form = .leave → s.postsAtOnce o cl = true → ∃ t, exec i s = .next t ∧ s.Posts t (.bar op)) ∧
        (form ≠ .leave → s.core.e.sb = [] → s.reachesAtOnce o cl = true →
          ∃ t, exec i s = .next t ∧
            s.Fetches t rd cl { s.clusterAt cl with barq := (s.clusterAt cl).barq ++ [op] } .barUnitOp))

/-- R210, R276 to R280: a cluster's port performs the operation that arrived first, of those whose units hold no fired record, as
one act on clean words: the target takes the new value, lane by lane for a line form, and a fetching form's reply brings the old
value, sign-extended; nb.addf that takes a count from non-zero to zero copies the cell's record to its target core, or, where that
does not take it, its unit holds it. On a dark cluster the reply says so and memory stays. The reply ends the hart's wait: rd takes the value, and the hart goes on. -/
def Obligations.NearBankOpsAtThePort : Prop :=
  (∀ (s : State) l op rest, s.arg.place < clusterCount → (s.clusterAt s.arg.place).nbq = l ++ op :: rest → s.crc = [] →
    let held (o : NbOp) : Prop := ∃ p ∈ (s.clusterAt s.arg.place).fired, p.1 = o.off / 64 % 256
    (∀ o ∈ l, held o) → ¬ held op →
    ((s.clusterAt op.cluster).dark = true → op.fetch = true →
      ∃ t, exec .nbPortOp s = .next t ∧ t.mem = s.mem ∧ s.Answered t op.slot (.dark op.addr)) ∧
    ((s.clusterAt op.cluster).dark = false → s.noWatchers = true → op.words.all s.clean = true →
      (∀ sel, op.form = .vop sel → op.off % 64 = 0 →
        ∃ t, exec .nbPortOp s = .next t ∧ (t.clusterAt s.arg.place).nbq = l ++ rest ∧ (∀ g, t.mem.tag g = s.mem.tag g) ∧
          (∀ j, j < 8 → t.mem.word (op.flat + 8 * j)
            = vopWord sel op.dbl (s.mem.word (op.flat + 8 * j)) (op.line.getD j 0)) ∧
          ∀ g, g < op.flat ∨ op.flat + 64 ≤ g → t.mem.byte g = s.mem.byte g) ∧
      let n := if op.dbl then 8 else 4
      let old := littleEndian s.mem.byte op.flat n
      let new := nbNew op.form (8 * n) old (op.b.toNat % 2 ^ (8 * n)) (op.cmp.toNat % 2 ^ (8 * n))
      let answers (t : State) : Prop :=
        op.fetch = true → s.Answered t op.slot (.value ((BitVec.ofNat (8 * n) old).signExtend 64))
      (∀ sel, op.form ≠ .vop sel) → op.off % n = 0 →
        let fires := op.form = .addf ∧ new = some 0 ∧ op.b.toNat % 2 ^ (8 * n) ≠ 0
        (¬ fires →
          ∃ t, exec .nbPortOp s = .next t ∧ (t.clusterAt s.arg.place).nbq = l ++ rest ∧ answers t ∧
            s.mem.Stored t.mem op.flat n (new.getD old)) ∧
        (fires → (∀ i, i < 7 → s.clean (op.flat + 8 * i) = true) → op.off % 64 = 0 →
          let slot := clusterSlot op.cluster (littleEndian s.mem.byte (op.flat + 8) 8 % 16)
          let r := Rec.ofWords (s.mem.word (op.flat + 0x20)) (s.mem.word (op.flat + 0x28)) (s.mem.word (op.flat + 0x30))
          let q : Rec := { r with
            join := 0, chn := false, wake := false, msg := false, act := false, job := if op.job = 0 then r.job else op.job }
          FMap.get 1 (s.dieAt (slotDie slot)).rc.gens slot ≠ 0 →
          ∃ t, exec .nbPortOp s = .next t ∧ answers t ∧ s.mem.Stored t.mem op.flat n 0 ∧ s.Counts t slot q.job 1 ∧
            (s.admits slot q = true → (s.coreAt slot).fifoRoom q.prio.toNat = true →
              levelQ (t.coreAt slot).q q.prio.toNat = levelQ (s.coreAt slot).q q.prio.toNat
                ++ [{ item := q, seq := (s.coreAt slot).q.enq }]) ∧
            (s.admits slot q = false →
              (t.clusterAt op.cluster).fired = (s.clusterAt op.cluster).fired ++ [(op.off / 64 % 256, slot, q)])))) ∧
  ∀ (s : State) rd r, s.arg.place < slotCount → (s.coreAt s.arg.place).h.wait = some { rd := rd, reply := some r } →
    let u : State := { s with cur := s.arg.place }
    let v := u.mapHart fun h => { h with wait := none }
    ∃ t, exec .nbReply s = .next t ∧
      match r with
      | .value w => v.WroteX { t with cur := s.arg.place } rd w ∧
        (t.coreAt s.arg.place).h.pc = u.core.h.pc + 4 ∧ (t.coreAt s.arg.place).h.wait = none
      | .dark a => v.Traps { t with cur := s.arg.place } 7 a
      | .bad a => t = { v.consume a with cur := s.cur }

/-- R283, R284: a cluster's barrier unit performs the form that arrived first as one act on clean words: a kind 0 object, of
a core of its own cluster, and a kind 1 object change as the rules give, and a fetching form's reply brings rd; no other byte
changes. An arrival by a core that is no member brings cause 7. -/
def Obligations.BarrierUnits : Prop :=
  ∀ (s : State) op rest, s.arg.place < clusterCount → (s.clusterAt s.arg.place).barq = op :: rest →
    (s.clusterAt op.cluster).dark = false → s.noWatchers = true → op.off % 128 = 0 → op.idx < 16 →
    let f := cmFlat op.cluster op.off
    ([0, 0x40, 0x48, 0x50].all fun k => s.clean (f + k)) = true →
    let b := barObj s.mem f
    let done (t : State) (c : BarObj) (rd : Nat) (n : Nat) : Prop :=
      (t.clusterAt s.arg.place).barq = rest ∧
      (op.form ≠ .leave → s.Answered t op.slot (.value (BitVec.ofNat 64 rd))) ∧ (∀ g, t.mem.tag g = s.mem.tag g) ∧
      (∀ g, (g < f ∨ f + 4 ≤ g) → (g < f + 0x40 ∨ f + 0x42 ≤ g) → (g < f + 0x48 ∨ f + 0x48 + n ≤ g) →
        (g < f + 0x50 ∨ f + 0x52 ≤ g) → t.mem.byte g = s.mem.byte g) ∧
      (barObj t.mem f).phase = c.phase ∧ (barObj t.mem f).mask = c.mask ∧ (barObj t.mem f).observed = c.observed
    if (s.mem.word f).getLsbD 63 then
      b.observed ≤ b.mask → b.arrived < 65535 →
      let r := b.wide op.form
      ∃ t, exec .barUnitOp s = .next t ∧ done t r.1 r.2 2 ∧ (barObj t.mem f).arrived = r.1.arrived
    else
      slotCluster op.slot = op.cluster →
      if op.form = .arrive ∧ b.mask.testBit op.idx = false then
        ∃ t, exec .barUnitOp s = .next t ∧ t.mem = s.mem ∧ s.Answered t op.slot (.dark op.addr)
      else
        let r := b.cluster op.form op.idx
        ∃ t, exec .barUnitOp s = .next t ∧ done t r.1 r.2 4 ∧ ∀ i, i < 16 → (barObj t.mem f).lead i = r.1.lead i

/-! ### Vector forms -/

/-- R16, R128 to R130, R135, R151: an integer or permute form gives each active element of vd its result, as the rules give it
over the integers, and leaves every other element and register.
R144, R145, R152: a compare sets bit j of kd for each active element pair that compares so, clears every other, and ORs
the flags; a mask form writes its word; a reduction combines the active elements in the tree's order, then the start
value, and writes the result to rd. -/
def Obligations.IntegerAndMaskForms : Prop :=
  (∀ i s o, vecInt i s = some o → s.free o.srcs [] = true → ∃ t, exec i s = .next t ∧ s.VecWrites t o) ∧
  ((∀ i s km kd n f, vecCompare i s = some (km, kd, n, f) →
     ∃ t, exec i s = .next t ∧ s.OnlyCore t ∧ (∀ r, r ≠ kd → t.k r = s.k r) ∧
       t.core = ({ s.core with
         h.k := t.core.h.k, g.fflags := s.core.g.fflags ||| s.activeFlags km (512 / n) fun j => (f j).2 } : Core).counted
         (s.core.h.pc + 4) ∧
       ∀ j, (t.k kd).getLsbD j = (decide (j < 512 / n) && s.isActive km j && (f j).1)) ∧
   (∀ i s srcs kd v, maskForm i s = some (srcs, kd, v) → s.free srcs [] = true →
     ∃ t, exec i s = .next t ∧ s.OnlyCore t ∧ (∀ r, t.k r = if r = kd then v else s.k r) ∧
       t.core = ({ s.core with h.k := t.core.h.k } : Core).counted (s.core.h.pc + 4)) ∧
   ∀ i s n km rd v a op ext, vecReduce i s = some (n, km, rd, v, a, op, ext) → s.free [a] [rd] = true →
     let start := (s.x a).toNat % 2 ^ n
     let l := (List.range (512 / n)).map fun j => if s.isActive km j then some (s.lane v n j).toNat else none
     let r := reduceLevels op l 7
     let e : Nat × Flags := match r.1 with
       | none => (start, 0)
       | some x => op start x
     ∃ t, exec i s = .next t ∧ s.OnlyCore t ∧ s.WroteX t rd (ext e.1) ∧
       t.core = ({ s.core with
         h.x := t.core.h.x, h.mark := t.core.h.mark, g.fflags := s.core.g.fflags ||| (r.2 ||| e.2) } : Core).counted
         (s.core.h.pc + 4))

/-- R132, R136 to R143, R153 to R156: a floating-point form, a conversion, a dot product gives each active element its result and
ORs the active elements' flags into gvfflags. vtdec.l6 converts the code table's entries that the active codes name.
vcomp24 keeps the two largest elements of each active group of four, ties to the lower one, with their places in kx.
vbaq adds two blocks, takes a fresh scale and rounds each sum. (The model's choice, entry 68: NaN elements of vcomp24 tie.) -/
def Obligations.FloatVectorForms : Prop :=
  (∀ i s o, vecFloat i s = some o → ∃ t, exec i s = .next t ∧ s.VecWrites t o) ∧
  (∀ (s : State) km p vd a, s.core.plain = true → s.core.g.codes.toNat % 128 = 0 → s.core.g.codes.toNat + 128 ≤ spSize →
    let at_ (j : Nat) : Word := s.core.g.codes.setWidth 64 + BitVec.ofNat 64 (2 * (s.lane a 6 (16 * p.toNat + j)).toNat)
    (∀ j, j < 16 → s.isActive km j = true → s.mayLoad (at_ j) 2 = true) →
    ∃ t, exec (.vtdec 2 km p vd a) s = .next t ∧
      s.VecWrites t { srcs := [], km := km, vd := vd, n := 32, cnt := 16, off := 0,
                      val := fun j => cvtF bf16 fp32 rne (littleEndian s.seen (s.flat (at_ j)) 2) }) ∧
  (∀ (s : State) w km vd kx a,
    let n := if w = 0 then 8 else if w = 3 then 32 else 16
    let key (g j : Nat) : Nat := compKey w s.core.g.top (s.lane a n (4 * g + j)).toNat
    let act (g : Nat) : Prop := ∀ j, j < 4 → s.isActive km (4 * g + j) = true
    ∃ t, exec (.vcomp24 w km vd kx a) s = .next t ∧ s.OnlyCore t ∧
      t.core = ({ s.core with h.v := t.core.h.v, h.k := t.core.h.k } : Core).counted (s.core.h.pc + 4) ∧
      (∀ r, r ≠ vd → t.v r = s.v r) ∧ (∀ r, r ≠ kx → t.k r = s.k r) ∧ (t.v vd).extractLsb' 256 256 = 0 ∧
      (∀ j, 512 / n ≤ j → (t.k kx).getLsbD j = false) ∧
      ∀ g, g < 128 / n →
        (act g → ∃ lo hi, lo < hi ∧ hi < 4 ∧
          (∀ c, c = lo ∨ c = hi → ∀ i, i < 4 → i ≠ lo → i ≠ hi → key g i < key g c ∨ (key g i = key g c ∧ c < i)) ∧
          t.lane vd n (2 * g) = s.lane a n (4 * g + lo) ∧ t.lane vd n (2 * g + 1) = s.lane a n (4 * g + hi) ∧
          ((t.k kx).extractLsb' (4 * g) 4).toNat = lo + 4 * hi) ∧
        (¬ act g → t.lane vd n (2 * g) = s.lane vd n (2 * g) ∧ t.lane vd n (2 * g + 1) = s.lane vd n (2 * g + 1) ∧
          (t.k kx).extractLsb' (4 * g) 4 = (s.k kx).extractLsb' (4 * g) 4)) ∧
  ∀ (s : State) (w : BitVec 1) km vd a b,
    let f : Taper := if w = 0 then .t8 else .t6
    let n := if w = 0 then 8 else 6
    let top := s.core.g.top
    let sums := (List.range 32).map fun i =>
      Machine.Num.add false (blockVal f top (s.v a) i) (if s.isActive km i then blockVal f top (s.v b) i else .zero)
    let sc := blockScale f sums
    let r (i : Nat) : Nat × Flags := f.round top ((sums.getD i .zero).scale (127 - (sc : Int)))
    let zb : Bool := s.lane a 8 32 == 0xFF || (s.lane b 8 32 == 0xFF && (List.range 32).any (s.isActive km))
    ∃ t, exec (.vbaq w km vd a b) s = .next t ∧ s.OnlyCore t ∧ (∀ q, q ≠ vd → t.v q = s.v q) ∧
      t.core = ({ s.core with h.v := t.core.h.v, g.fflags := t.core.g.fflags } : Core).counted (s.core.h.pc + 4) ∧
      (∀ i, t.core.g.fflags.getLsbD i = (s.core.g.fflags.getLsbD i ||
        (List.range 32).any (fun j => (r j).2.getLsbD i) || (i == 5 && zb))) ∧
      ∀ p, p < 512 → (t.v vd).getLsbD p =
        if p < 32 * n then (r (p / n)).1.testBit (p % n) else if 256 ≤ p ∧ p < 264 then sc.testBit (p - 256) else false

/-- R146 to R149, R287: outside regions a vector load gives each active element the bytes the hart sees at its address, and a
vector store, or kst, puts its active elements into the store buffer, the highest-numbered of overlapping ones last; memory
itself stays, and a drain is due for each 16-byte block. Where an active element is misaligned, or outside the windows, the lowest-numbered such one is the trap's. -/
def Obligations.VectorMemoryForms : Prop :=
  (∀ i s srcs n km vd f, vecLoad i s = some (srcs, n, km, vd, f) → s.free srcs [] = true → s.core.plain = true →
    ((∀ j, j < 512 / n → s.isActive km j = true → s.mayLoad (f j) (n / 8) = true) →
      ∃ t, exec i s = .next t ∧
        s.VecWrites t { srcs := srcs, km := km, vd := vd, n := n, cnt := 512 / n, off := 0,
                        val := fun j => (littleEndian s.seen (s.flat (f j)) (n / 8), 0) }) ∧
    ∀ j, j < 512 / n → s.isActive km j = true → (∀ k, k < j → s.isActive km k = true →
        (f k).toNat % (n / 8) = 0 ∧ inWindow (f k) (n / 8) = true) →
      ((f j).toNat % (n / 8) ≠ 0 → ∃ t, exec i s = .next t ∧ s.Traps t 4 (f j)) ∧
      ((f j).toNat % (n / 8) = 0 → inWindow (f j) (n / 8) = false → ∃ t, exec i s = .next t ∧ s.Traps t 5 (f j))) ∧
  ∀ i s srcs n l, vecStore i s = some (srcs, n, l) → s.free srcs [] = true → s.core.plain = true →
    let bad (p : Word × Nat) : Prop := p.1.toNat % (n / 8) ≠ 0 ∨ inWindow p.1 (n / 8) = false
    ((∀ p ∈ l, ¬ bad p ∧ s.clean (s.flat p.1) = true) →
      ∃ (t : State) (blocks : List Nat), exec i s = .next t ∧ s.OnlyCoreDue t ∧
        t.core = ({ s.core with e.sb := t.core.e.sb } : Core).counted (s.core.h.pc + 4) ∧
        t.agenda = s.agenda ++ blocks.map (fun b => { ev := .storeBufferDrain, arg := { place := s.cur, a := b } }) ∧
        blocks.Nodup ∧ (∀ b, b ∈ blocks ↔ ∃ p ∈ l, s.flat p.1 / 16 = b) ∧
        ∀ f, t.seen f = l.foldl (fun b p =>
          if s.flat p.1 ≤ f ∧ f < s.flat p.1 + n / 8 then BitVec.ofNat 8 (p.2 / 2 ^ (8 * (f - s.flat p.1))) else b)
          (s.seen f)) ∧
    ∀ j p, l[j]? = some p → bad p → (∀ q ∈ l.take j, ¬ bad q) →
      ∃ t, exec i s = .next t ∧
        s.Traps t (if p.1.toNat % (n / 8) ≠ 0 then 6 else 7) p.1

/-! ### Events at a hart -/

/-- R21 to R30, R33, R159, R162, R228: the event of a control register's write stores its writable fields; the register then reads
them, and nothing else of the hart changes but the register's own state. A write of a register that matrix operations capture
waits while one has not started; gvundo and gvundol keep their value while a region is open, and cause 49 is raised. (The model's
choice: the standard CSRs' fields, entry 4; any open entry counts as a region there, entry 139.) -/
def Obligations.ControlWrites : Prop :=
  ∀ (s : State) ev old new, s.arg.place < slotCount →
    let slot := s.arg.place
    s.csrValue slot s.arg.a = some old → ctlRead ev s.arg.a old s.arg.word = some new →
    if ev = .gvundoWrite ∧ (s.coreAt slot).r.stack ≠ [] then
      ∃ t, exec ev s = .next t ∧ State.Traps { s with cur := slot } { t with cur := slot } 49 s.arg.word2
    else if (s.coreAt slot).csrStalls s.arg.a then exec ev s = .next s
    else
      (s.coreAt slot).areaInUse s.arg.a = false → ∃ t, exec ev s = .next t ∧ t.csrValue slot s.arg.a = some new ∧ t.mem = s.mem ∧
        (∀ n, n ≠ slot → t.coreAt n = s.coreAt n) ∧ (t.coreAt slot).h = (s.coreAt slot).h ∧
        (t.coreAt slot).e = (s.coreAt slot).e ∧ (t.coreAt slot).q = (s.coreAt slot).q ∧ (t.coreAt slot).m = (s.coreAt slot).m

/-- R66, R67, R96, R163 to R165, R169, R170, R185, R287: between two instructions a hart takes its pending enabled interrupt, the
first of SEI, SSI, STI; a count that has reached its budget raises cause 28 once; a doomed transaction restarts with its
stamp; a word that is no instruction raises cause 2 with its bits; the timer's match ends a wfi; and of the oldest store in the
buffer the piece that the event names, or its first, reaches memory. (The model's choice: entry 2, which event comes next; entry 24,
a count past its budget raises cause 28 once; entry 66, STIMER_MATCH.) -/
def Obligations.BetweenInstructions : Prop :=
  ∀ s : State, s.arg.place < slotCount →
    let slot := s.arg.place
    let u : State := { s with cur := slot }
    let c := s.coreAt slot
    let back (t : State) : State := { t with cur := slot }
    (∀ code, c.atBoundary = true → c.overrunDue = none →
      (let pend := s.mip slot
        let m := c.enabledM pend
        let e := if m.getLsbD 9 || m.getLsbD 1 || m.getLsbD 5 then m else c.enabledS pend
        if e.getLsbD 9 then code = 9 else if e.getLsbD 1 then code = 1 else e.getLsbD 5 = true ∧ code = 5) →
      ∃ t, exec .interruptTaken s = .next t ∧ u.Interrupts (back t) code) ∧
    (∀ k, c.atBoundary = true → c.h.task = some k → c.atTask = true → c.h.hs = .run → k.overran = false →
      k.budget ≤ k.count → c.r.stack = [] →
      ∃ t, exec .budgetOverrun s = .next t ∧
        State.Traps (u.mapHart fun h => { h with task := some { k with overran := true } }) (back t) 28
          (BitVec.ofNat 64 k.budget)) ∧
    (∀ e, c.atBoundary = true → c.r.doomed = true → c.atTask = true → c.h.hs = .run → c.r.stack = [e] → e.txn = true →
      u.commandsDone = true → u.rollsBack 0 true = true →
      ∃ t, exec .doomedRestart s = .next t ∧ (t.coreAt slot).h.pc = e.begin_ ∧ (t.coreAt slot).r.stack = [] ∧
        (t.coreAt slot).r.carry = some (0, some e.stamp) ∧ (t.coreAt slot).r.wset = [] ∧ (t.coreAt slot).r.doomed = false) ∧
    (∀ m, decode (s.arg.word.setWidth 32) = .error m →
      ∃ t, exec .illegalInstruction s = .next t ∧ u.Traps (back t) 2 ((s.arg.word.setWidth 32).setWidth 64)) ∧
    (∃ t, exec .stimerMatch s = .next t ∧ t.mem = s.mem ∧ (∀ n, n ≠ slot → t.coreAt n = s.coreAt n) ∧
      (t.coreAt slot).n.time = (if c.n.time.toNat < c.c.stimecmp.toNat then c.c.stimecmp else c.n.time) ∧
      (t.mip slot).getLsbD 5 = true ∧ (c.h.hs = .wfi → c.c.mie.getLsbD 5 = true → (t.coreAt slot).h.hs = .run)) ∧
    ∀ ps rest, c.e.sb = .store ps :: rest → ps ≠ [] → s.noWatchers = true → s.crc = [] →
      (∀ l ∈ ps, ∀ w ∈ l, w.addr % 8 = 0 ∧ s.clean w.addr = true) →
      ∃ t l, l ∈ ps ∧ ((∃ m ∈ ps, pieceBlock m = s.arg.a) → pieceBlock l = s.arg.a) ∧ exec .storeBufferDrain s = .next t ∧
        t.coreAt slot = { c with e.sb := (if ps.erase l = [] then [] else [.store (ps.erase l)]) ++ rest } ∧
        (∀ n, n ≠ slot → t.coreAt n = s.coreAt n) ∧
        (∀ f, t.mem.byte f = seenByte [.store [l]] f (s.mem.byte f)) ∧ (∀ f, t.mem.tag f = s.mem.tag f) ∧
        (ps.erase l ≠ [] ∨ rest ≠ [] → ({ ev := .storeBufferDrain, arg := { place := slot } } : Due) ∈ t.agenda)

/-! ### Messages and tokens on their way -/

/-- R107, R110, R113, R212, R213, R379, R385: injection takes the head of the first queue that holds one, in the order sys,
replies, then requests and streams in turn, past heads whose target has a full input (the model's choice, entry 133); its packet
enters the network at the core's router, numbered; a relaxed write to another die counts as not acknowledged. Acceptance, replies first, puts a message's payload behind a header into the lowest free
frame of its group and its record, with the frame's address, into the FIFO of its priority. -/
def Obligations.PacketsEnterAndLeave : Prop :=
  (∀ (s : State) pre vn post m rest, s.arg.place < slotCount →
    let slot := s.arg.place
    let c := s.coreAt slot
    (if c.m.alt then [3, 1, 2, 0] else [3, 1, 0, 2]) = pre ++ vn :: post →
    let full (m : Send) (w : BitVec 2) : Prop := w ≠ 2 ∧ 4 ≤ (FMap.get [] (s.coreAt m.dst).m.inq w.toNat).length
    (∀ w ∈ pre, ∀ g l, c.sendq w = g :: l → full g w) →
    c.sendq vn = m :: rest → ¬ full m vn → (slotDie slot = slotDie m.dst ∨ m.rl ≠ some 3) →
    ∃ t p, exec .messageInject s = .next t ∧ t.mem = s.mem ∧ t.wafer.net = s.wafer.net ++ [p] ∧
      p.num = s.wafer.sent ∧ t.wafer.sent = s.wafer.sent + 1 ∧ (∀ w, (t.coreAt slot).sendq w = if w = vn then rest else c.sendq w) ∧
      (t.coreAt slot).m.alt = (if vn = 0 then true else if vn = 2 then false else c.m.alt) ∧
      p.src = slot ∧ p.dst = m.dst ∧ p.cls = vn ∧ p.job = m.job ∧ p.rl = m.rl ∧ p.body = m.body ∧ p.inp = 4 ∧
      p.at_ = s.routerOf slot ∧ p.route % 16 = slotIdx m.dst ∧ p.trailer = none ∧
      (∀ g, m.body = .msg g → vn ≠ 2 → p.route = 16 * g.prio.toNat + slotIdx m.dst) ∧
      (slotDie slot = slotDie m.dst → p.acks = [] ∧ (t.coreAt slot).m.unacked = c.m.unacked) ∧
      (slotDie slot ≠ slotDie m.dst → (∃ g, m.body = .msg g) →
        p.acks = [slot] ∧ (t.coreAt slot).m.unacked = c.m.unacked + 1) ∧
      ({ ev := .routerLookup, arg := { place := s.routerOf slot } } : Due) ∈ t.agenda) ∧
  ∀ (s : State) p rest m i (reply : Bool), s.arg.place < slotCount →
    let slot := s.arg.place
    let c := s.coreAt slot
    (reply = false → FMap.get [] c.m.inq 1 = []) → FMap.get [] c.m.inq (if reply then 1 else 0) = p :: rest →
    p.body = .msg m → m.reply = reply → s.takesJob slot m.job = true → c.fifoRoom m.prio.toNat = true →
    c.freeFrame reply = some i → s.noWatchers = true → frameBase c.g i % 64 = 0 →
    let base := frameBase c.g i
    let words := m.payload.take ((frameSize c.g - 8) / 8)
    let r : Rec := { job := m.job, prio := m.prio, code := m.code, frame := BitVec.ofNat 48 base, top := m.top,
                     etag := m.etag, msg := true, widp := if m.wid then BitVec.ofNat 48 (base + 8) else 0,
                     rel := p.trailer.isSome, chk := true }
    ∃ t, exec .messageAccept s = .next t ∧
      levelQ (t.coreAt slot).q m.prio.toNat = levelQ c.q m.prio.toNat ++ [{ item := r, seq := c.q.enq }] ∧
      FMap.get [] (t.coreAt slot).m.inq (if reply then 1 else 0) = rest ∧ (t.coreAt slot).m.frames = c.m.frames ++ [i] ∧
      FMap.get none (t.coreAt slot).m.routes i = m.route ∧
      (t.coreAt slot).m.credits = (if reply then c.m.credits - 1 else c.m.credits) ∧
      t.mem.holds (spFlat slot base) (BitVec.ofNat 64 (frameSize c.g % 2 ^ 24 + (if reply then 3 else 2) * 2 ^ 24
        + 8 * words.length * 2 ^ 40) :: words) ∧
      s.mem.outside t.mem (spFlat slot base) (8 + 8 * words.length) ∧
      ({ ev := .taskDispatch, arg := { place := slot } } : Due) ∈ t.agenda

/-- R202, R203, R255 to R257, R260, R262: a token lands in its slot of the ring, payload, header and full bit as one act (stated while
the actor cannot fire); a tagged one whose copy is still in the window is asked for again, at most twice, and the producer then
sends its copy with the release of its put; without one the token lands with its error tag, at a DRAM actor's port with its own top
bit (R52); a returned slot is a credit again and its copy leaves the window. An enabled, idle actor whose input heads are all full
and whose outputs all have credit fires, on a core whose context is not on its way (R217): it is busy, holds its outputs, counts in
the balance and has its record in the FIFO. -/
def Obligations.TokensLandAndFire : Prop :=
  (∀ (s : State) e t rel rest slot n,
    let k := s.arg.place
    s.edgeAt k = some e → e.arrived = (t, rel) :: rest → e.dst = .actor slot n → slot < slotCount → e.hasLanded t.seq = false →
    s.takesToken e = true → t.etag = false → e.ring % 8 = 0 → e.bytes % 8 = 0 →
    let i := e.slotOfSeq t.seq
    let f := spFlat slot (e.ring + i * (8 + e.bytes))
    (∀ p ∈ s.ringEdges f, let a := (s.coreAt p.2.2.1).actor p.2.2.2.1; a.en = false ∨ a.busy = true) →
    (∀ d, (s.dieAt d).rc.box = none ∧ (s.dieAt d).ports = []) → s.noWatchers = true →
    ∃ u e', exec .tokenLanding s = .next u ∧ u.edgeAt k = some e' ∧ e'.arrived = rest ∧ i ∈ e'.landed ∧
      (∀ j ∈ e.landed, j ∈ e'.landed) ∧ e'.headSlot = e.headSlot ∧ e'.headSeq = e.headSeq ∧ e'.credits = e.credits ∧
      u.mem.holds f ((BitVec.ofBool t.done ++ BitVec.ofBool false ++ BitVec.ofBool t.top ++ BitVec.ofBool e.rel ++ 0#28
        ++ t.seq : Word) :: t.payload) ∧
      (u.mem.tag f).full = true ∧ s.mem.outside u.mem f (8 + 8 * t.payload.length) ∧
      (u.coreAt slot).u.prog = (s.coreAt slot).u.prog + 1) ∧
  (∀ (s : State) e t rel rest,
    let k := s.arg.place
    s.edgeAt k = some e → e.nextArrived = some (t, rel) → rest = e.arrived.erase (t, rel) → e.slots ≠ 0 →
    e.hasLanded t.seq = false → s.takesToken e = true →
    let n := FMap.get 0 e.tries t.seq.toNat
    n < 2 → (∃ w ∈ e.window, w.seq = t.seq) →
    ∃ u, exec .taggedTokenArrival s = .next u ∧ u.mem = s.mem ∧
      u.edgeAt k = some { e with arrived := rest, tries := FMap.put 0 e.tries t.seq.toNat (n + 1) } ∧
      ({ ev := .tokenReinject, arg := { place := k, a := t.seq.toNat, words := t.payload, flag := t.top } } : Due) ∈ u.agenda) ∧
  (∀ (s : State) e w slot n, s.edgeAt s.arg.place = some e → e.src = .actor slot n →
    (e.window.find? fun x => x.seq.toNat = s.arg.a) = some w →
    ∃ u, exec .tokenReinject s = .next u ∧ u.mem = s.mem ∧ u.wafer = s.wafer ∧
      (u.coreAt slot).sendq 2 = (s.coreAt slot).sendq 2 ++
        [{ dst := s.nodeSlot e.dst, job := e.job, rl := w.rl, body := .token { w with again := true } }]) ∧
  (∀ (s : State) e n, s.edgeAt s.arg.place = some e → e.dst = .dram n → (∀ w ∈ e.window, w.seq.toNat ≠ s.arg.a) →
    ∃ u, exec .tokenReinject s = .next u ∧ u.mem = s.mem ∧ ({ ev := .dramRequestTaken, arg := { place := n } } : Due) ∈ u.agenda ∧
      FMap.get [] (u.dramActor n).ports e.dq = FMap.get [] (s.dramActor n).ports e.dq ++
        [{ edge := s.arg.place, seq := BitVec.ofNat 32 s.arg.a, job := e.job, words := s.arg.words, etag := true,
           top := s.arg.flag }]) ∧
  (∀ (s : State) e, s.edgeAt s.arg.place = some e → e.slots ≠ 0 →
    ∃ (u v : State), exec .creditReturn s = .next u ∧
      { v with wafer := { v.wafer with edges := s.wafer.edges } } = s ∧
      v.edgeAt s.arg.place = some { e with
        credits := min (e.credits + 1) e.slots, window := e.window.filter fun w => w.seq.toNat ≠ s.arg.a } ∧
      (∀ j, j ≠ s.arg.place → v.edgeAt j = s.edgeAt j) ∧
      u = match e.src with
        | .actor slot n => v.evalActor slot n
        | .dram n => v.dueAt .dramReply n
        | .host => v.due .hostTokenIn { place := 1 }) ∧
  ∀ (s : State) slot n,
    let a := (s.coreAt slot).actor n
    a.en = true → a.held = false → a.mig = false → a.busy = false → a.single = none → s.pairOf a = none →
    (∀ q, q < 8 → a.inmask.getLsbD q = true → s.headFull slot a q = true) →
    (∀ e, e < 8 → a.outmask.getLsbD e = true → s.hasCredit a e = true) →
    (s.coreAt slot).u.job.isSome = true → (s.coreAt slot).u.swap = none → s.wafer.freeze = .running →
    (s.coreAt slot).fifoRoom a.prio.toNat = true → s.noWatchers = true →
    let t := s.evalActor slot n
    let b := (t.coreAt slot).actor n
    b.busy = true ∧ b.resv = a.outmask ∧ b.en = true ∧ b.inmask = a.inmask ∧
    (∃ r, levelQ (t.coreAt slot).q a.prio.toNat
        = levelQ (s.coreAt slot).q a.prio.toNat ++ [{ item := r, seq := (s.coreAt slot).q.enq }] ∧
      r.code = a.code ∧ r.frame = a.state ∧ r.prio = a.prio ∧ r.widp = a.widp ∧ r.act = true ∧ r.chk = true ∧ r.join = 0 ∧
      r.job = (s.coreAt slot).u.job.getD 0 ∧ s.Counts t slot r.job 1) ∧
    ({ ev := .taskDispatch, arg := { place := slot } } : Due) ∈ t.agenda ∧
    ∀ g, (∀ f, localFlat slot (a.state.setWidth 64) = some f → wordAt g ≠ wordAt f) → t.mem.byte g = s.mem.byte g

/-- R331 to R336, R341: a DRAM actor takes the head request of the next port with one, whose credit returns, and sends it to the home
of its bytes; the home performs it, a read's words or an atomic's old value becoming its reply; and a reply leaves on its edge
while that has a credit. (The model's choice, entry 56: the credit returns as the actor takes the request.) -/
def Obligations.DramActorsServe : Prop :=
  (∀ (s : State) p q f h off, s.arg.place < actorCount →
    let n := s.arg.place
    (s.dramActor n).turn = some (p, q) → q.etag = false → s.dreqMalformed n q = false →
    let w := q.words.getD 1 0
    s.dreqSpot n q.edge q.job (q.words.getD 0 0) (dreqBytes w) (dramAccess (dreqOp w)) = (s, .at_ f) →
    homeOf f = .dram h off →
    let id := (s.dramActor n).nextId
    let j : DJob := { job := q.job, port := p, top := q.top, id := id, slot := q.edge, words := q.words,
                      rep := if dreqNorep w then none else some (dreqRep w), done := dreqDone w, reply := none }
    ∃ t, exec .dramRequestTaken s = .next t ∧ t.mem = s.mem ∧ (t.dramActor n).jobs = (s.dramActor n).jobs ++ [j] ∧
      FMap.get [] (t.dramActor n).ports p = (FMap.get [] (s.dramActor n).ports p).drop 1 ∧
      (t.dramActor n).nextPort = (p + 1) % 8 ∧ (t.dramActor n).nextId = id + 1 ∧ s.Counts t (dramPlace n) q.job (-1) ∧
      (t.dramActor h).pieces = (s.dramActor h).pieces ++
        [{ front := n, id := id, job := q.job, words := q.words, pa := 0, place := some f }] ∧
      ({ ev := .creditReturn, arg := { place := q.edge, a := q.seq.toNat } } : Due) ∈ t.agenda ∧
      ({ ev := .dramHomePiece, arg := { place := h } } : Due) ∈ t.agenda) ∧
  (∀ (s : State) p rest f, s.arg.place < actorCount →
    let h := s.arg.place
    (s.dramActor h).pieces = p :: rest → p.place = some f → s.noWatchers = true → s.noReplicas = true →
    let w := p.words.getD 1 0
    let n := dreqBytes w
    (∀ j, j < n → s.clean (f + j) = true) →
    let answers (t : State) (l : List Word) : Prop :=
      (t.dramActor p.front).jobs = (s.dramActor p.front).jobs.map (fun j =>
        if j.id = p.id then { j with reply := some (l, false) } else j) ∧
      ({ ev := .dramReply, arg := { place := p.front } } : Due) ∈ t.agenda
    (dreqOp w = 0 → n % 8 = 0 →
      ∃ t, exec .dramHomePiece s = .next t ∧ t.mem = s.mem ∧
        answers t ((List.range (n / 8)).map fun j => BitVec.ofNat 64 (littleEndian s.mem.byte (f + 8 * j) 8))) ∧
    (dreqOp w = 1 → n % 8 = 0 →
      ∃ t, exec .dramHomePiece s = .next t ∧ answers t [] ∧
        s.mem.Copied t.mem f n fun j => (p.words.getD (3 + j / 8) 0).extractLsb' (8 * (j % 8)) 8) ∧
    (2 ≤ dreqOp w → f % n = 0 →
      let old := littleEndian s.mem.byte f n
      let x := (p.words.getD 3 0).toNat % 2 ^ (8 * n)
      let y := (p.words.getD 4 0).toNat % 2 ^ (8 * n)
      let new := if dreqOp w = 14 then nbNew .cas (8 * n) old y x else nbNew (dramForm (dreqOp w)) (8 * n) old x 0
      ∃ t, exec .dramHomePiece s = .next t ∧ answers t [BitVec.ofNat 64 old] ∧ s.mem.Stored t.mem f n (new.getD old))) ∧
  ∀ (s : State) j l bad e k x, s.arg.place < actorCount →
    let n := s.arg.place
    (s.dramActor n).jobs = [j] → j.reply = some (l, bad) → j.rep = some e → j.done = [] →
    s.dramOut n e j.job = some (k, x) → s.edgeAt k = some x → x.credits ≠ 0 → x.rel = false → s.holdsTokens x = false →
    let tok : Token := { edge := k, seq := x.seq, payload := (List.range (x.bytes / 8)).map fun i => l.getD i 0,
                         top := j.top, done := false, etag := bad }
    ∃ t p, exec .dramReply s = .next t ∧ t.mem = s.mem ∧ (t.dramActor n).jobs = [] ∧ t.wafer.net = s.wafer.net ++ [p] ∧
      p.body = .token tok ∧ p.dst = s.nodeSlot x.dst ∧ p.job = x.job ∧
      ∃ x', t.edgeAt k = some x' ∧ x'.seq = x.seq + 1 ∧ x'.credits = x.credits - 1

/-! ### System forms at their target, upkeep, Drift -/

/-- R122 to R125: at a core that no wave holds the first form of the control input is acted on. sys.halt holds every actor, and
halts the core at once or when its task ends; sys.resume lets a halted core go on, and has no effect on another; sys.inspect,
sys.scan and sys.sig answer as their selectors and the core's state say; a scan ends with its signature kept and answers 0; a result
writes its register; and sys.remap asks its slot's region controller for a shift, or for a hole (R368). (The model's choice: a core
whose last task still runs is not halted yet, entry 65; the signatures, entry 11.) -/
def Obligations.SystemFormsAtTheirTarget : Prop :=
  (∀ (s : State) p rest cmd, s.arg.place < slotCount →
    let slot := s.arg.place
    let c := s.coreAt slot
    FMap.get [] c.m.inq 3 = p :: rest → p.body = .sys cmd → s.sysWaits slot p.body = false →
    let taken (t : State) : Prop :=
      exec .systemFormAtTarget s = .next t ∧ FMap.get [] (t.coreAt slot).m.inq 3 = rest ∧
      (rest ≠ [] → ({ ev := .systemFormAtTarget, arg := { place := slot } } : Due) ∈ t.agenda)
    let answers (v : Word) : Prop := ∃ t, taken t ∧ t.mem = s.mem ∧ s.ResultSent t cmd v
    let half (w : Word) : Word := if cmd.sel.getLsbD 20 then w >>> 32 else w &&& 0xFFFFFFFF
    let sel := cmd.sel.toNat % 2 ^ 20
    let bad : Prop := 2 ^ 21 ≤ cmd.sel.toNat ∨ (sel ≤ 2 ∧ cmd.sel.getLsbD 20 = true)
    (cmd.op = .halt →
      ∃ t, taken t ∧ t.mem = s.mem ∧ (t.coreAt slot).h = c.h ∧
        (t.coreAt slot).u.halted = (c.u.halted || c.h.task.isNone) ∧
        (t.coreAt slot).u.haltPend = (c.h.task.isSome && !c.u.halted) ∧
        ∀ n, (c.actor n).en = true → (t.coreAt slot).actor n = { c.actor n with held := true }) ∧
    (cmd.op = .resume → c.u.halted = false →
      ∃ t, taken t ∧ t.mem = s.mem ∧ (t.coreAt slot).u = c.u ∧ (t.coreAt slot).q = c.q ∧ (t.coreAt slot).h = c.h) ∧
    (cmd.op = .remap → ∀ col, s.columnOf cmd.target = some col →
      let d := slotDie cmd.target
      ∃ t, taken t ∧ t.mem = s.mem ∧ (t.coreAt slot).u = c.u ∧
        (t.dieAt d).rc.requests = (s.dieAt d).rc.requests ++
          [{ row := slotRow cmd.target, col := col, hole := cmd.sel == 1, cause := if cmd.sel = 1 then 1 else 0 }] ∧
        ({ ev := .removalRequest, arg := { place := d } } : Due) ∈ t.agenda) ∧
    (cmd.op = .resume → c.u.halted = true →
      ∃ t, taken t ∧ (t.coreAt slot).u.halted = false ∧ (t.coreAt slot).u.haltPend = false ∧
        (∀ n, ((t.coreAt slot).actor n).held = false) ∧
        ({ ev := .taskDispatch, arg := { place := slot } } : Due) ∈ t.agenda) ∧
    (cmd.op = .inspect →
      (bad → answers 0x8000000000000001) ∧
      (¬ bad →
        (sel = 0 → answers (BitVec.ofNat 64 ((if c.u.scan.isSome then 3 else if c.u.halted then 2
          else if c.h.task.isSome then 1 else 0) + (if c.u.haltPend then 4 else 0) + (if c.u.job.isSome then 8 else 0)
          + 2 ^ 16 * (c.u.job.getD 0).toNat))) ∧
        (sel = 1 → answers (BitVec.ofNat 64 (c.g.cls.toNat + 2 ^ 8 * c.g.clk.toNat))) ∧
        (sel = 2 → ∃ w, answers w ∧ ∀ l, l < 4 → (w.toNat / 2 ^ (16 * l)) % 2 ^ 16
          = min ((levelQ c.q l).length + (levelRing c.q l).seqs.length) 0x7FFF) ∧
        (0x40 ≤ sel → sel < 0x80 →
          let a := c.actor (sel - 0x40)
          (a.stallCause ≠ 2 → answers (half (a.stallCause ++ a.stallIndex ++ 0#27 ++ a.stallCount))) ∧
          ∀ e k, a.stallCause = 2 → boundEdge a.outq a.stallIndex.toNat = some e → s.consumer e = some k →
            (s.coreAt k).u.halted = true → answers (half (3#2 ++ a.stallIndex ++ 0#27 ++ a.stallCount))) ∧
        (0x100 ≤ sel → sel < 0x120 → answers (if c.u.halted = false then 0x8000000000000002
          else if c.h.task.isSome then half (c.h.getX (BitVec.ofNat 5 (sel - 0x100))) else 0)) ∧
        (0x10000 ≤ sel → sel < 0x30000 →
          let f := spFlat slot (8 * (sel - 0x10000))
          (c.u.halted = false → answers 0x8000000000000002) ∧
          (c.u.halted = true → (s.mem.tag f).flips = 0 →
            answers (half (s.mem.word f) ||| (if (s.mem.tag f).poison then 0x100000000 else 0)))) ∧
        ((2 < sel ∧ sel < 0x40) ∨ (0x80 ≤ sel ∧ sel < 0x100) ∨ (0x120 ≤ sel ∧ sel < 0x10000) ∨ 0x30000 ≤ sel →
          answers 0x8000000000000001))) ∧
    (cmd.op = .scan →
      if c.u.halted = false ∨ c.u.scan.isSome = true then answers 0x8000000000000002
      else if c.u.job.isSome then answers 0x8000000000000003
      else ∃ t, taken t ∧ t.mem = s.mem ∧ (t.coreAt slot).u.scan = some cmd ∧
        ({ ev := .scanPatternDone, arg := { place := slot } } : Due) ∈ t.agenda) ∧
    (cmd.op = .sig → answers (match c.u.scanned with
      | some w => w
      | none => 0x8000000000000005))) ∧
  (∀ (s : State) cmd, s.arg.place < slotCount → (s.coreAt s.arg.place).u.scan = some cmd →
    (∀ p ∈ (s.coreAt s.arg.place).q.actors, p.2.held = true) →
    let slot := s.arg.place
    let sig := Config.scanSignature slot s.fresh
    ∃ t, exec .scanPatternDone s = .next t ∧ t.mem = s.mem ∧ (t.coreAt slot).u.scan = none ∧
      (t.coreAt slot).u.scanned = some (sig.setWidth 64 + (if sig = Config.goldenSignature slot then 0 else 0x4000000000000000)) ∧
      s.ResultSent t cmd 0) ∧
  ∀ (s : State) r rest, s.arg.place < slotCount → (s.coreAt s.arg.place).m.results = r :: rest →
    ∃ t, exec .sysResultReturn s = .next t ∧ { t with cores := s.cores } = s ∧
      (∀ n, n ≠ s.arg.place → t.coreAt n = s.coreAt n) ∧ (t.coreAt s.arg.place).m.results = rest ∧
      (s.coreAt s.arg.place).TokenArrives (t.coreAt s.arg.place) r.rd r.serial r.value

/-- R198, R200, R214, R263, R273, R354: a scrubber visits its next word, and counts a repaired one; a clock change sets a code no
higher than the core's class and publishes it in sample slot 1.
R323 to R326, R350 to R353, R372: a quiescence wave resets an active job's idle count, counts an idle one, and after two idle
waves with no event between frees a job of balance 0, or marks it stuck. The watchdog halts a core that has stayed in class 1
and writes its scan block into the lowest free one, with a notice; without a free one its notice waits. (The model's choice: a job
whose contexts are all saved can settle, entry 87; one without progress is reported stuck once, entry 88.) -/
def Obligations.UpkeepAndWaves : Prop :=
  ((∀ s : State, s.arg.place < slotCount →
     let slot := s.arg.place
     let c := s.coreAt slot
     let f := spFlat slot (8 * c.u.scrub)
     let die := s.dieAt (slotDie slot)
     c.u.scrub < 131072 → die.rc.box = none →
     let fixed (t : State) : Prop := ∃ i, i < 72 ∧ (s.mem.tag f).flips = 1#72 <<< i ∧
       (t.coreAt slot).u.corr = (if die.rc.threshold ≤ c.u.corr + 1 then 0 else c.u.corr + 1) ∧
       c.Sampled (t.coreAt slot) 3 (min (c.u.corrLaunch + 1) (2 ^ 32 - 1))
     ∃ t, exec .scrubTick s = .next t ∧ s.mem.Visited t.mem f ∧ (∀ n, n ≠ slot → t.coreAt n = s.coreAt n) ∧
       (t.coreAt slot).u.scrub = (c.u.scrub + 1) % 131072 ∧ (t.coreAt slot).h = c.h ∧
       (1 < s.arg.a → ({ ev := .scrubTick, arg := { place := slot, a := s.arg.a - 1 } } : Due) ∈ t.agenda) ∧
       (((s.mem.tag f).flips = 0 → (t.coreAt slot).u.corr = c.u.corr) ∧
         ((∃ i, i < 72 ∧ (s.mem.tag f).flips = 1#72 <<< i) → fixed t))) ∧
   (∀ s : State, s.arg.place < clusterCount → s.arg.a < 256 →
     let cl := s.arg.place
     let c := s.clusterAt cl
     let i := FMap.get 0 c.scrubs s.arg.a
     let f := cmFlat cl (i / 8 * 16384 + s.arg.a * 64 + i % 8 * 8)
     i < 8192 → (s.dieAt (clusterDie cl)).rc.box = none →
     if c.dark then exec .clusterScrubTick s = .next s
     else ∃ t, exec .clusterScrubTick s = .next t ∧ s.mem.Visited t.mem f ∧ t.cores = s.cores ∧
       (∀ b, FMap.get 0 (t.clusterAt cl).scrubs b = if b = s.arg.a then (i + 1) % 8192 else FMap.get 0 c.scrubs b) ∧
       (s.arg.a < 255 → ({ ev := .clusterScrubTick, arg := { place := cl, a := s.arg.a + 1, b := s.arg.b } } : Due) ∈ t.agenda) ∧
       (s.arg.a = 255 → 1 < s.arg.b →
         ({ ev := .clusterScrubTick, arg := { place := cl, a := 0, b := s.arg.b - 1 } } : Due) ∈ t.agenda) ∧
       ((s.mem.tag f).flips = 0 → (t.clusterAt cl).corr = c.corr) ∧
       ((∃ j, j < 72 ∧ (s.mem.tag f).flips = 1#72 <<< j) → (t.clusterAt cl).corr = c.corr + 1)) ∧
   ∀ s : State, s.arg.place < slotCount →
     let slot := s.arg.place
     let c := s.coreAt slot
     let code := min s.arg.a c.g.cls.toNat
     ∃ t, exec .clockChange s = .next t ∧ { t with cores := s.cores } = s ∧ (∀ n, n ≠ slot → t.coreAt n = s.coreAt n) ∧
       t.coreAt slot = { c with g.clk := BitVec.ofNat 6 code, u.samples := (t.coreAt slot).u.samples } ∧
       c.Sampled (t.coreAt slot) 1 (code + 2 ^ 8 * (Config.thermalCeiling slot).toNat + 2 ^ 14 * (s.arg.b % 4)) ∧
       ∀ i, i ≠ 1 → FMap.get 0 (t.coreAt slot).u.samples i = FMap.get 0 c.u.samples i) ∧
  ((∀ (s : State) n j, n < 4096 → s.wafer.jobs = [(n, some j)] →
     (∀ d, (s.dieAt d).rc.box = none ∧ (s.dieAt d).ds = {}) →
     let job := BitVec.ofNat 12 n
     ∃ t, exec .quiescenceWave s = .next t ∧ t.wafer.wave = s.wafer.wave + 1 ∧ t.mem = s.mem ∧
       (∀ d, FMap.find s.dies d ≠ none → ∃ e, e < dieCount ∧ (t.clocksAt d).low = FMap.get 0 (s.clocksAt e).a d) ∧
       if s.jobActive job then t.jobAt job = some { j with idle := 0, events := 0, stuck := false }
       else if j.idle = 0 ∨ j.events ≠ 0 then t.jobAt job = some { j with idle := 1, events := 0, stuck := false }
       else if j.balance = 0 ∧ j.lost = false then
         t.jobAt job = none ∧ (∀ k, (t.coreAt k).u.job ≠ some job) ∧ ∀ p ∈ t.wafer.edges, p.2.job ≠ job
       else t.jobAt job = some (if j.stuck then j else { j with idle := 2, stuck := true })) ∧
   ∀ (s : State) b, s.arg.place < slotCount →
     let slot := s.arg.place
     let d := slotDie slot
     let c := s.coreAt slot
     s.takesNotice d b → (s.dieAt d).rc.scanWait = [] → s.wafer.edges = [] →
     if s.stallClass slot = 1 ∧ (s.dieAt d).rc.interval slot ≤ s.arg.a ∧ c.u.prog.toNat = s.arg.b then
       ∃ t, exec .watchdogFire s = .next t ∧ (t.coreAt slot).u.halted = (c.u.halted || c.h.task.isNone) ∧
         (t.coreAt slot).u.haltPend = (c.h.task.isSome && !c.u.halted) ∧
         (∀ n, (c.actor n).en = true → ((t.coreAt slot).actor n).held = true) ∧
         ((∀ i, i < 8 → (s.mem.tag (scanBlockFlat b i)).full = true) → t.mem = s.mem ∧ (t.dieAt d).rc.scanWait = [slot]) ∧
         ∀ i, i < 8 → (s.mem.tag (scanBlockFlat b i)).full = false →
           (∀ k, k < i → (s.mem.tag (scanBlockFlat b k)).full = true) →
           t.Notices d b 5 (slotXY slot) (BitVec.ofNat 64 i) 0 ∧ (t.mem.tag (scanBlockFlat b i)).full = true ∧
           t.mem.word (scanBlockFlat b i) = slotXY slot + BitVec.ofNat 64 (c.jobOf.toNat * 2 ^ 16 + 2 ^ 28) ∧
           t.mem.word (scanBlockFlat b i + 8) = c.h.pc ∧ t.mem.word (scanBlockFlat b i + 32) = c.h.pend.setWidth 64 ∧
           t.mem.word (scanBlockFlat b i + 56) = c.u.prog.setWidth 64
     else exec .watchdogFire s = .next s)

/-- R263, R327 to R329: a core publishes its fullest input in sample slot 0 and its die counts the samples that name one actor
above 75 %; an eighth in a row begins a migration to the best core that qualifies. Its steps: producers hold their tokens once
the firing is over; state block, full ring slots and entry are copied; edges, entries and held tokens turn to the new core; or
it is abandoned where the destination no longer qualifies. (The model's choice: ring slots that are not full stand empty at the new
core, entry 92, and the old entry keeps its fields with en = 0, entry 93.) -/
def Obligations.DriftMovesActors : Prop :=
  (∀ s : State, s.arg.place < slotCount →
    let slot := s.arg.place
    let d := slotDie slot
    let c := s.coreAt slot
    let occ := (s.busiest slot).1
    let num := (s.busiest slot).2
    let queued := ((List.range 4).map fun l => (levelQ c.q l).length + (levelRing c.q l).seqs.length).sum
    let old := FMap.get {} (s.dieAt d).drift.counts slot
    let seq : BitVec 16 := (FMap.get 0 c.u.samples 0).extractLsb' 48 16 + 1
    (∀ n q e o, (c.actor n).en = true → q < 8 → boundEdge (c.actor n).inq q = some e → s.occupancy slot e = some o → o ≤ occ) ∧
    ∃ t, exec .driftSample s = .next t ∧ t.mem = s.mem ∧
      c.Sampled (t.coreAt slot) 0 (queued % 2 ^ 16 + num * 2 ^ 16 + occ * 2 ^ 24 + c.g.cls.toNat * 2 ^ 32) ∧
      (1 < s.arg.a → ({ ev := .driftSample, arg := { place := slot, a := s.arg.a - 1 } } : Due) ∈ t.agenda) ∧
      let k := FMap.get {} (t.dieAt d).drift.counts slot
      (k.num = num ∧ k.seq = seq ∧
        k.run = (if 75 < occ then (if old.num = num ∧ seq = old.seq + 1 then old.run + 1 else 1) else 0) ∧
        (k.run < 8 → (t.dieAt d).drift.mig = (s.dieAt d).drift.mig) ∧
        ∀ dst, 8 ≤ k.run → (∀ w ∈ k.waits, w.1 ≠ num) → (s.dieAt d).drift.mig = none → c.movable num = true →
          s.rowHeld slot = false → s.destination slot num = some dst →
          (∃ m, (t.dieAt d).drift.mig = some m ∧ m.slot = slot ∧ m.num = num ∧ m.dst = dst ∧ m.state = .stopping ∧
            ((s.coreAt dst).actor m.dnum).en = false ∧ slotCluster dst = slotCluster slot ∧
            (s.coreAt dst).u.job = c.u.job ∧ c.g.cls.toNat < (s.coreAt dst).g.cls.toNat) ∧
          ((t.coreAt slot).actor num).mig = true ∧ ({ ev := .driftDrain, arg := { place := d } } : Due) ∈ t.agenda)) ∧
  (∀ (s : State) m k e, s.arg.place < dieCount →
    let d := s.arg.place
    (s.dieAt d).drift.mig = some m → s.qualifies m.slot m.num m.dst (some m.dnum) = true →
    s.edgesInto m.slot m.num = [(k, e)] → s.edgeAt k = some e →
    let slot := s.nodeSlot e.src
    let a := (s.coreAt m.slot).actor m.num
    (m.state = .stopping → a.busy = false →
      ∃ t, exec .driftDrain s = .next t ∧ t.mem = s.mem ∧ (t.dieAt d).drift.mig = some { m with state := .draining } ∧
        t.edgeAt k = some { e with heldBack := ((s.coreAt slot).sendq 2).filter (freshToken k) ++ e.heldBack } ∧
        (t.coreAt slot).sendq 2 = ((s.coreAt slot).sendq 2).filter (fun x => !freshToken k x) ∧
        ({ ev := .driftCopy, arg := { place := d } } : Due) ∈ t.agenda) ∧
    (m.state = .draining → s.onTheWay k e = false → s.noWatchers = true → e.ring % 8 = 0 → e.bytes % 8 = 0 →
      a.state.toNat % 8 = 0 → a.size % 8 = 0 → a.state.toNat + a.size ≤ spSize → e.header e.slots ≤ spSize →
      meetRange (a.state.toNat, a.size) (e.ring, e.slots * (8 + e.bytes)) = false →
      (∀ off, off < spSize → s.clean (spFlat m.slot off) = true) →
      ∃ t, exec .driftCopy s = .next t ∧ (t.dieAt d).drift.mig = some { m with state := .copying } ∧
        (t.coreAt m.dst).actor m.dnum = { a with held := (s.coreAt m.dst).u.halted } ∧
        (∀ j, j < a.size → t.mem.byte (spFlat m.dst (a.state.toNat + j)) = s.mem.byte (spFlat m.slot (a.state.toNat + j))) ∧
        (∀ i, i < e.slots →
          let h := e.header i
          (t.mem.tag (spFlat m.dst h)).full = (s.mem.tag (spFlat m.slot h)).full ∧
          ((s.mem.tag (spFlat m.slot h)).full = true →
            ∀ j, j < 8 + e.bytes → t.mem.byte (spFlat m.dst (h + j)) = s.mem.byte (spFlat m.slot (h + j)))) ∧
        ({ ev := .driftResume, arg := { place := d } } : Due) ∈ t.agenda) ∧
    (m.state = .copying → (m.dst, m.dnum) ≠ (m.slot, m.num) → s.edgesFrom m.slot m.num = [] →
      s.edgesInto m.dst m.dnum = [] → ∀ p n, e.src = .actor p n → s.noWatchers = true →
      ∃ t, exec .driftResume s = .next t ∧ (t.dieAt d).drift.mig = none ∧
        (∃ e', t.edgeAt k = some e' ∧ e'.src = e.src ∧ e'.dst = .actor m.dst m.dnum ∧ e'.heldBack = []) ∧
        ((t.coreAt m.slot).actor m.num).en = false ∧ ((t.coreAt m.dst).actor m.dnum).mig = false ∧
        (t.coreAt p).sendq 2 = (s.coreAt p).sendq 2 ++ e.heldBack.map (fun x => { x with dst := m.dst }))) ∧
  ∀ (s : State) m, s.arg.place < dieCount →
    let d := s.arg.place
    (s.dieAt d).drift.mig = some m → (m.state = .stopping ∨ m.state = .draining) →
    s.qualifies m.slot m.num m.dst (some m.dnum) = false →
    ∃ t, exec .driftAbandon s = .next t ∧ (t.dieAt d).drift.mig = none ∧ ((t.coreAt m.slot).actor m.num).mig = false

/-! ### Loading, launching, swapping -/

/-- R309, R313, R314: an image starts a load, or waits for the one under way. Each die writes its part into its shadow, checks it
and answers; when all have accepted, each makes its shadow active with the image's generation; a refusal sends its frame, and
every die discards its shadow; the commit's end sends the outcome, extends M1, and leaves the coordinator idle. (The model's choice:
reserved bits of an image are refused, entry 70, an area that does not fit and an actor outside the wafer by the reasons of entry 71;
M1 takes the image's hash, entry 72; an image during a load waits, entry 73; an uncorrectable word is status 2, entry 74.) -/
def Obligations.ConfigurationsLoad : Prop :=
  (∀ s : State,
    let l := s.wafer.load
    (l.state = .idle → ∃ t, exec .configImage s = .next t ∧ s.OnlyLoad t ∧ t.dueEverywhere .configStage ∧
      t.wafer.load = { l with state := .staging, port := s.wafer.planak.primary, image := s.arg.words, acks := [], answers := [] }) ∧
    (l.state ≠ .idle → ∃ t, exec .configImage s = .next t ∧ s.OnlyLoad t ∧ t.agenda = s.agenda ∧
      t.wafer.load = { l with later := l.later ++ [s.arg.words] })) ∧
  (∀ s : State, s.arg.place < dieCount →
    let d := s.arg.place
    let l := s.wafer.load
    let g := imgSlot l.image
    let c := s.conf d g
    l.answered d = false →
    let answers (t : State) (r : Nat) : Prop :=
      t.wafer.load = { l with answers := l.answers ++ [(d, r)] } ∧ t.cores = s.cores ∧ t.mem = s.mem ∧
      ({ ev := .loadAcknowledgement, arg := { place := s.planakDie } } : Due) ∈ t.agenda
    (l.state = .staging →
      ∃ t r, exec .configStage s = .next t ∧ answers t r ∧ (∀ k, t.conf d k = if k = g then { c with shadow := l.image } else s.conf d k) ∧
        (s.arg.flag = true → r = 1) ∧
        (∀ job j, s.arg.flag = false → s.jobAt job = some j → j.live = true → j.graph = g → j.onDie d = true → r = 2) ∧
        (s.wafer.jobs = [] → (s.dieAt d).ds.waiting = [] → r = imgRefusal l.image d s.planakDie s.arg.flag false)) ∧
    (l.state = .committing → (∀ p ∈ (s.dieAt d).ds.waiting, p.waiting = true → p.graph ≠ g) →
      ∃ t, exec .configCommit s = .next t ∧ answers t 0 ∧
        ∀ k, t.conf d k = if k = g then { gen := imgGen l.image, active := c.shadow, shadow := [] } else s.conf d k)) ∧
  (∀ (s : State) d r rest,
    let l := s.wafer.load
    let acks := l.acks ++ [d]
    let frame (status d reason : Nat) : Frame :=
      { ty := 2, words := [BitVec.ofNat 64 (imgSlot l.image + (imgGen l.image).toNat * 2 ^ 16 + status * 2 ^ 32 + d * 2 ^ 40
          + reason * 2 ^ 48)] }
    l.answers = (d, r) :: rest →
    let phase (t : State) (p : LoadState) : Prop := t.wafer.load = { l with state := p, acks := [], answers := [] }
    ∃ t, exec .loadAcknowledgement s = .next t ∧ t.mem = s.mem ∧ t.cores = s.cores ∧ t.dies = s.dies ∧
      (l.state = .staging → t.module_ = s.module_ ∧
        (r ≠ 0 → phase t .aborting ∧ t.dueEverywhere .loadAbort ∧ s.SendsFrame t (frame (if r = 1 then 2 else 1) d r)) ∧
        (r = 0 → t.wafer.planak = s.wafer.planak ∧
          if acks.length = dieCount then phase t .committing ∧ t.dueEverywhere .configCommit
          else t.wafer.load = { l with answers := rest, acks := acks })) ∧
      (l.state = .committing → acks.length = dieCount → l.later = [] →
        t.wafer.load = { l with state := .idle, image := [], acks := [], answers := [] } ∧
        s.SendsFrame t (frame 0 0 0) ∧
        FMap.get 0 t.module_.meas 1 = Config.sha3 (bytesOf (FMap.get 0 s.module_.meas 1).toNat 64
          ++ bytesOf (Config.sha3 (l.image.flatMap fun w => bytesOf w.toNat 8)).toNat 64))) ∧
  ∀ s : State, s.arg.place < dieCount →
    let d := s.arg.place
    let l := s.wafer.load
    l.state = .aborting → l.acks.contains d = false → l.later = [] →
    ∃ t, exec .loadAbort s = .next t ∧ (∀ k, t.conf d k = { s.conf d k with shadow := if k = imgSlot l.image then [] else (s.conf d k).shadow }) ∧
      t.wafer.load = if l.acks.length + 1 = dieCount then { l with state := .idle, image := [], acks := [], answers := [] }
        else { l with acks := l.acks ++ [d] }

/-- R315 to R318, R320, R321, R418: a launch packet is answered with a residency report: refused as stale or empty, kept for its
configuration, or accepted, by each die's generation. A core of the grid that is free is claimed: it holds the job, its code
and data stand in its scratchpad, and its records are in its queue. A core that a job of a larger prio number holds is asked for by
pre-emption. (The model's choice: a slot with no configuration keeps a packet of a newer generation, entry 76; each packet's report
goes back as it came, entry 77; a malformed packet has no answer, entry 78; nothing fires at the launch itself, entry 81.) -/
def Obligations.LaunchesClaimCores : Prop :=
  (∀ (s : State) ev, ev = .launchPacket ∨ (ev = .ueLaunchPacket ∧ portDie s.arg.place = true) →
    let l := s.arg.words
    let reported (t u : State) (job : BitVec 12) (status : Nat) : Prop :=
      exec ev s = .next t ∧
      ∃ r, r.length = 16 ∧ r.getD 14 0 = BitVec.ofNat 64 ((u.wafer.jobs.filter fun p => p.2.isSome).length % 2 ^ 16
          + job.toNat * 2 ^ 16 + status * 2 ^ 28) ∧
        if ev = .launchPacket then
          u.SendsFrame t { ty := 4, words := r } ∧ { t with wafer := { t.wafer with planak := u.wafer.planak } } = u
        else t = { u with wafer := { u.wafer with rud := u.wafer.rud ++ [r] } }
    ((l.getD 0 0).extractLsb' 36 12 = (0 : BitVec 12) → l.getD 1 0 = 0 → ∃ t, reported t s 0 0) ∧
    ∀ p, launchOf l = some p →
      let gen (d : Nat) : BitVec 16 := (s.conf d p.graph).gen
      ((∀ d, d < dieCount → gen d ≠ 0 ∧ gen d ≠ p.gen ∧ olderGen (gen d) p.gen = false) → ∃ t, reported t s p.job 1) ∧
      ((∀ d, d < dieCount → gen d = 0) → olderGen 0 p.gen = false → ∃ t, reported t s p.job 2) ∧
      ((∀ d, d < dieCount → gen d ≠ 0 ∧ olderGen (gen d) p.gen = true) →
        ∃ t u, reported t u p.job 3 ∧ u.cores = s.cores ∧ u.mem = s.mem ∧ u.wafer = s.wafer ∧
          ∀ d, d < dieCount → (u.dieAt d).ds = { (s.dieAt d).ds with
            waiting := (s.dieAt d).ds.waiting ++ [{ p with waiting := true, cores := [] }] }) ∧
      ∀ m slot, slot < slotCount → p.gen ≠ 0 → (∀ d, d < dieCount → gen d = p.gen ∧ (s.dieAt d).ds.waiting = [] ∧
          (s.conf d p.graph).active = m) →
        imgGrid m = [slot] → s.isHole slot = false → s.jobAt p.job = none → imgActors m = [] → imgEdges m = [] →
        let c := s.coreAt slot
        (c.vacant = true → s.wafer.edges = [] → s.noWatchers = true → (s.dieAt (slotDie slot)).ds.saved = [] →
          (∀ off, off < spSize → s.clean (spFlat slot off) = true) →
          let code := imgSec m 0
          let data := imgSec m 1
          (p.records m).length < 64 → imgCodeAt m + code.2 ≤ imgDataAt m → imgDataAt m + data.2 ≤ spSize →
          ∃ t u, reported t u p.job 0 ∧ (u.coreAt slot).u.job = some p.job ∧ (u.coreAt slot).u.jobPrio = p.prio ∧
            (∃ j, u.jobAt p.job = some j ∧ j.prio = p.prio ∧ j.graph = p.graph ∧ j.live = true ∧
              j.balance = (((p.records m).filter fun r => r.2 = slot).length : Int)) ∧
            (∀ off, off < spSize → u.mem.byte (spFlat slot off) =
              if imgCodeAt m ≤ off ∧ off < imgCodeAt m + code.2 then (imgWord m (code.1 + (off - imgCodeAt m))).setWidth 8
              else if imgDataAt m ≤ off ∧ off < imgDataAt m + data.2 then (imgWord m (data.1 + (off - imgDataAt m))).setWidth 8
              else s.mem.byte (spFlat slot off)) ∧
            ∀ r, p.records m = [(r, slot)] → levelQ (u.coreAt slot).q r.prio.toNat
              = [{ item := { r with job := p.job, rel := false, chk := false }, seq := c.q.enq }]) ∧
        ∀ job, c.u.job = some job → p.prio.toNat < c.u.jobPrio.toNat → c.u.whold = false → c.u.swap = none → c.u.failed = false →
          ∃ t u, reported t u p.job 3 ∧ (u.coreAt slot).u.job = some job ∧ (u.coreAt slot).u.preempt = true ∧
            (c.h.task = none → ({ ev := .swapOut, arg := { place := slot } } : Due) ∈ u.agenda)) ∧
  ∀ s : State, s.arg.place < dieCount →
    (launchOf s.arg.words = none → s.arg.words.getD 1 0 ≠ 0 → exec .launchPacket s = .next s) ∧
    (portDie s.arg.place = false ∨ (launchOf s.arg.words = none ∧ s.arg.words.getD 1 0 ≠ 0) →
      exec .ueLaunchPacket s = .next s)

/-- R215 to R221, R321, R322: a pre-empted core at rest begins to save its context, and a job without a save area aborts at once. The
engine writes the image up to each page boundary; at its end the core is free, the context recorded as saved; an area that is too
short aborts and the job stays. A restore reads the image likewise; at its end the core holds the job with what the image gives; an
image of another job aborts it. (The model's choice: how a reply route is packed, entry 15, which pages the job owns, entry 16, what
is kept beside the image, entries 36 and 84, and that a job has one save area on each die, entry 82.) -/
def Obligations.ContextsSwap : Prop :=
  (∀ (s : State) job, s.arg.place < slotCount →
    let slot := s.arg.place
    let c := s.coreAt slot
    let a := FMap.get {} (s.dieAt (slotDie slot)).ds.areas job.toNat
    c.u.job = some job → c.u.preempt = true → c.h.task = none → c.h.traps = [] → c.u.swap = none → c.u.whold = false →
    (a.len = 0 → (s.dieAt (slotDie slot)).rc.box = none →
      ∃ t, exec .swapOut s = .next t ∧ t.mem = s.mem ∧ t.coreAt slot = { c with u.preempt := false } ∧
        ({ ev := .taskDispatch, arg := { place := slot } } : Due) ∈ t.agenda) ∧
    (a.len ≠ 0 →
      if (s.enginesDone slot && c.e.sb.isEmpty && !s.migrating slot) = true then
        ∃ t, exec .swapOut s = .next t ∧ t.mem = s.mem ∧ (∀ n, n ≠ slot → t.coreAt n = s.coreAt n) ∧
          t.coreAt slot = { c with
            u.preempt := false, u.swap := some { save := true, job := job, addr := a.addr, len := a.len } } ∧
          ({ ev := .contextSave, arg := { place := slot } } : Due) ∈ t.agenda
      else exec .swapOut s = .next s)) ∧
  (∀ (s : State) w, s.arg.place < slotCount →
    let slot := s.arg.place
    let d := slotDie slot
    let c := s.coreAt slot
    c.u.swap = some w → w.save = true → w.paused = false → (s.dieAt d).rc.box = none →
    let image := s.saveImage slot w.job
    let n := 8 * image.length
    let va := w.addr + BitVec.ofNat 64 w.cursor
    let k := min (min (n - w.cursor) (w.len - w.cursor)) (4096 - va.toNat % 4096)
    (∀ f, w.cursor < n → w.cursor < w.len → s.dramSpot d 0 va .write = (s, .at_ f) → dramBase ≤ f → s.noReplicas = true →
      (∀ j, j < k → s.clean (f + j) = true) →
      ∃ t, exec .contextSave s = .next t ∧ (t.coreAt slot).u.swap = some { w with cursor := w.cursor + k } ∧
        (s.mem.Copied t.mem f k fun j => (image.getD ((w.cursor + j) / 8) 0).extractLsb' (8 * ((w.cursor + j) % 8)) 8) ∧
        ({ ev := .contextSave, arg := { place := slot } } : Due) ∈ t.agenda) ∧
    (n ≤ w.cursor → (∀ l, l < 4 → levelRing c.q l = {}) → (s.dieAt d).ds.waiting = [] →
      ∃ t, exec .contextSave s = .next t ∧ t.mem = s.mem ∧ (t.coreAt slot).u.job = none ∧ (t.coreAt slot).u.swap = none ∧
        (t.coreAt slot).q.actors = [] ∧ (t.coreAt slot).m.routes = [] ∧
        (∀ l, l < 4 → levelQ (t.coreAt slot).q l = (levelQ c.q l).filter fun r => r.item.job ≠ w.job) ∧
        ∃ v, (t.dieAt d).ds.saved = (s.dieAt d).ds.saved ++ [v] ∧ v.slot = slot ∧ v.job = w.job ∧ v.prio = c.u.jobPrio ∧
          v.addr = w.addr ∧ v.len = w.len ∧ v.actors = c.q.actors) ∧
    (w.cursor < n → w.len ≤ w.cursor → s.sleepersOf slot w.job = [] → s.wafer.edges = [] → c.q.waitq = [] → c.m.inq = [] →
      (∀ p ∈ c.q.actors, p.2.en = false) →
      ∃ t, exec .contextSave s = .next t ∧ t.mem = s.mem ∧ t.coreAt slot = { c with u.swap := none } ∧
        (t.dieAt d).ds = (s.dieAt d).ds ∧ ({ ev := .taskDispatch, arg := { place := slot } } : Due) ∈ t.agenda)) ∧
  ∀ (s : State) w, s.arg.place < slotCount →
    let slot := s.arg.place
    let d := slotDie slot
    let c := s.coreAt slot
    c.u.swap = some w → w.save = false → w.paused = false → (s.dieAt d).rc.box = none →
    let l := wordsOf w.image (w.image.length / 8)
    let n := (l.getD 0 0).toNat
    let va := w.addr + BitVec.ofNat 64 w.cursor
    let k := min (if 16 ≤ w.cursor then n - w.cursor else w.len - w.cursor) (4096 - va.toNat % 4096)
    let good : Prop := (l.getD 1 0).setWidth 12 = w.job ∧ n ≤ w.len
    (∀ f, (w.cursor < 16 ∨ (good ∧ w.cursor < n)) → w.cursor < w.len → s.dramSpot d 0 va .read = (s, .at_ f) →
      (∀ j, j < k → s.clean (f + j) = true) →
      ∃ t, exec .contextRestore s = .next t ∧ t.mem = s.mem ∧
        (t.coreAt slot).u.swap = some { w with
          cursor := w.cursor + k, image := w.image ++ (List.range k).map fun j => s.mem.byte (f + j) } ∧
        ({ ev := .contextRestore, arg := { place := slot } } : Due) ∈ t.agenda) ∧
    (∀ v, 16 ≤ w.cursor → good → n ≤ w.cursor → (s.dieAt d).ds.saved = [v] → v.slot = slot → v.job = w.job →
      (l.getD 1 0).toNat / 65536 = 0 → (l.drop 32).take 1536 = List.replicate 1536 0 → v.actors = [] → v.rings = [] →
      s.wafer.edges = [] → c.q.waitq = [] → c.m.inq = [] → (s.dieAt d).ds.waiting = [] →
      ∃ t, exec .contextRestore s = .next t ∧ t.mem = s.mem ∧ (t.dieAt d).ds.saved = [] ∧ (t.coreAt slot).u.job = some w.job ∧
        (t.coreAt slot).u.jobPrio = v.prio ∧ (t.coreAt slot).u.swap = none ∧ (t.coreAt slot).e.zbad = v.zbad ∧
        (∀ i, i < 8192 → FMap.get 0 (t.coreAt slot).e.z i = ((l.getD (2080 + i / 2) 0).extractLsb' (32 * (i % 2)) 32)) ∧
        (∀ i, i < 256 → FMap.get none (t.coreAt slot).m.routes i
          = routeOfWords (l.getD (1568 + 2 * i) 0) (l.getD (1569 + 2 * i) 0)) ∧
        (t.coreAt slot).g.fflags = (l.getD 25 0).setWidth 6 ∧ (t.coreAt slot).g.top = (l.getD 24 0).getLsbD 0) ∧
    (16 ≤ w.cursor → (l.getD 1 0).setWidth 12 ≠ w.job → (s.dieAt d).ds.waiting = [] →
      (∀ v ∈ (s.dieAt d).ds.saved, v.slot = slot → v.job = w.job) →
      ∃ t, exec .contextRestore s = .next t ∧ t.mem = s.mem ∧ (t.coreAt slot).u.swap = none ∧
        (t.coreAt slot).u.job = c.u.job ∧ ∀ v ∈ (t.dieAt d).ds.saved, ¬ (v.slot = slot ∧ v.job = w.job))

/-! ### Settling, the mailbox, pages, removals -/

/-- R215, R342 to R344, R348, R349, R352, R354, R419: the mailbox's next full command slot is acted on by its op, its words permitting,
and ends with its notice: a held access goes on, or ends with code 0x15; a job's root is set and its entries dropped; entries
are dropped by job and address; save areas, watchdog intervals and error thresholds are stored; a port is bound. A bad
argument gives status 2 and has no effect; any other op gives status 1. (The model's choice: a die's new watchdog interval overrides
those of its cores, entry 99.) -/
def Obligations.MailboxCommands : Prop :=
  ∀ (s : State) b op w1 w2 w3,
    let d := s.arg.place
    let x := (s.dieAt d).x
    s.commands d b op w1 w2 w3 →
    let ends (ev : Instr) (t : State) (status : Nat) : Prop :=
      exec ev s = .next t ∧ t.CommandEnds d b status ∧ s.OnlyNotice t b
    let refused (ev : Instr) : Prop :=
      ∃ t, ends ev t 2 ∧ t.cores = s.cores ∧ t.wafer = s.wafer ∧ (t.dieAt d).x = x ∧ (t.dieAt d).ds = (s.dieAt d).ds ∧
        (t.dieAt d).ports = (s.dieAt d).ports ∧ (t.dieAt d).rc.threshold = (s.dieAt d).rc.threshold ∧
        (t.dieAt d).rc.intervals = (s.dieAt d).rc.intervals
    let job : BitVec 12 := w1.setWidth 12
    (op = 1 ∨ op = 2 → (∀ f ∈ x.faults, f.id ≠ some w1.toNat) → refused (if op = 1 then .resumeFault else .endFault)) ∧
    (∀ f, x.faults = [f] → f.id = some w1.toNat → f.place < slotCount →
      let c := s.coreAt f.place
      let dropped (t : State) : Prop :=
        (t.dieAt d).x.faults = [] ∧
        (t.dieAt d).x.tlb = if op = 1 then x.tlb.filter fun e => !(e.job == f.job && e.covers f.va) else x.tlb
      (op = 1 → f.unit_ = 0 → ∀ k rest, c.e.cpq = k :: rest →
        ∃ t, ends .resumeFault t 0 ∧ dropped t ∧ (t.coreAt f.place).e.cpq = { k with phase := .ready } :: rest ∧
          ({ ev := .cpCommandRun, arg := { place := f.place } } : Due) ∈ t.agenda) ∧
      (op = 1 → f.unit_ = 3 → ∀ w, c.u.swap = some w →
        ∃ t, ends .resumeFault t 0 ∧ dropped t ∧ (t.coreAt f.place).u.swap = some { w with paused := false } ∧
          ({ ev := .contextSave, arg := { place := f.place } } : Due) ∈ t.agenda) ∧
      (op = 2 → f.unit_ = 0 → ∀ k rest, c.e.cpq = k :: rest →
        ∃ t, ends .endFault t 0 ∧ dropped t ∧
          (t.coreAt f.place).e.cpq = { k with phase := .finished 0x8000000000000015 } :: rest ∧
          ({ ev := .cpComplete, arg := { place := f.place } } : Due) ∈ t.agenda)) ∧
    (op = 3 →
      if w1.toNat < 4096 ∧ (w2 = 0 ∨ rootOk w2.toNat = true) then
        ∃ t, ends .setRoot t 0 ∧ t.cores = s.cores ∧ t.wafer = s.wafer ∧ (t.dieAt d).x.faults = x.faults ∧
          (t.dieAt d).x.tlb = x.tlb.filter (fun e => e.job != job) ∧
          ∀ j, FMap.get none (t.dieAt d).x.roots j
            = if j = job.toNat then (if w2 = 0 then none else some w2.toNat) else FMap.get none x.roots j
      else refused .setRoot) ∧
    (op = 4 →
      if w1.toNat < 4096 ∧ (w2 = 0 ∨ isSpace2 w2 = true) then
        ∃ t, ends .invalidate t 0 ∧ t.cores = s.cores ∧ t.wafer = s.wafer ∧
          (t.dieAt d).x = { x with
            tlb := x.tlb.filter fun e => !((job == 0xFFF || e.job == job) && (w2 == 0 || e.covers w2)) }
      else refused .invalidate) ∧
    (op = 5 →
      if w1.toNat < 4096 ∧ isSpace2 w2 = true ∧ w2.toNat % 64 = 0 then
        (s.dieAt d).ds.waiting = [] →
        ∃ t, ends .saveArea t 0 ∧ t.cores = s.cores ∧ t.wafer = s.wafer ∧
          ∀ j, FMap.get {} (t.dieAt d).ds.areas j
            = if j = job.toNat then { addr := w2, len := w3.toNat } else FMap.get {} (s.dieAt d).ds.areas j
      else refused .saveArea) ∧
    (op = 6 →
      let slot := slotOf (w1.toNat % 256) (w1.toNat / 256)
      let one : Prop := w1.toNat % 256 < 192 ∧ w1.toNat / 256 < 216 ∧ slotDie slot = d
      if 10 ≤ w2.toNat ∧ w2.toNat ≤ 2 ^ 20 ∧ (w1 = 0xFFFF ∨ one) then
        ∃ t, ends .watchdogInterval t 0 ∧ t.cores = s.cores ∧ t.wafer = s.wafer ∧
          ∀ k, k < slotCount → (t.dieAt d).rc.interval k
            = if w1 = 0xFFFF ∨ k = slot then w2.toNat else (s.dieAt d).rc.interval k
      else refused .watchdogInterval) ∧
    (op = 7 →
      if 1 ≤ w1.toNat ∧ w1.toNat ≤ 65536 then
        ∃ t, ends .errorThreshold t 0 ∧ t.cores = s.cores ∧ t.wafer = s.wafer ∧ (t.dieAt d).rc.threshold = w1.toNat
      else refused .errorThreshold) ∧
    (op = 10 →
      let k := w1.toNat % 2
      let owner : BitVec 12 := w1.extractLsb' 16 12
      if w1 &&& 0xFFFFFFFFF000FFFE = 0 ∧ w2.toNat < 2 ^ 50 ∧ w3.toNat < 2 ^ 24 ∧ w3.toNat % 2048 = 0 ∧ portDie d = true ∧
          s.holdsGateways owner d k = true then
        ∃ t, ends .bindPort t 0 ∧ t.cores = s.cores ∧ t.wafer = s.wafer ∧
          ∀ i, FMap.get {} (t.dieAt d).ports i =
            if i = k then { FMap.get {} (s.dieAt d).ports k with
              bound := true, job := owner, code := w2.extractLsb' 0 48 &&& 0xFFFFFFFFFFFC, prio := w2.extractLsb' 48 2,
              ring := w3.toNat }
            else FMap.get {} (s.dieAt d).ports i
      else refused .bindPort) ∧
    (op = 0 ∨ 10 < op →
      ∃ t, ends .unknownCommand t 1 ∧ t.cores = s.cores ∧ t.wafer = s.wafer ∧ (t.dieAt d).x = x)

/-- R391 to R395: a page that is replicated stands in cluster memory with its bytes, and its replica is recorded with its sequencer;
a write on its way reaches the replicas. A move holds the old page, writes it at its new home once nothing is under way at the
old one, and ends when every unit has dropped the page. (The model's choice: the old page is the one that a translation entry still
holds, else a free-valued page of the die's DRAM actor, entry 19; writes on their way go before a replica's filling, entry 94; a page
without a translation is a bad argument, entry 95; the move's command stays full to its end, entry 101.) -/
def Obligations.PagesReplicateAndMove : Prop :=
  (∀ (s : State) b w1 w2 w3 e h f,
    let d := s.arg.place
    let job : BitVec 12 := w1.setWidth 12
    let die := w1.toNat / 2 ^ 16
    let home := h / 4096 * 4096
    s.commands d b 8 w1 w2 w3 → w1.toNat = job.toNat + 2 ^ 16 * die → die < dieCount → isSpace2 w2 = true → w2.toNat % 4096 = 0 →
    (FMap.get 0 s.wafer.seqDies job.toNat = 0 ∨ FMap.get 0 s.wafer.seqDies job.toNat = die + 1) →
    (s.dieAt d).pages.repl = [] → s.wafer.replq = [] → (s.dies.all fun p => p.2.pages.moves.isEmpty) = true → w3 ≠ 0 →
    replicaFlat d w3 = some f → ((s.dieAt d).x.tlb.find? fun e => e.job == job && e.covers w2) = some e →
    leafReason e.pte job .read = none → physFlat (leafAddr e.pte e.level w2) = some h →
    (∀ i, i < 4096 → s.clean (home + i) = true ∧ s.clean (f + i) = true) →
    ∃ t, exec .replicatePage s = .next t ∧ t.CommandEnds d b 0 ∧ FMap.get 0 t.wafer.seqDies job.toNat = die + 1 ∧
      (t.dieAt d).pages.repl = [{ job := job, va := w2, seqDie := die, at_ := f, home := home }] ∧
      (∀ i, i < 4096 → t.mem.byte (f + i) = s.mem.byte (home + i)) ∧
      ∀ g, (g < f ∨ f + 4096 ≤ g) → (g < noticeSlotFlat b b.nextNotice ∨ noticeSlotFlat b b.nextNotice + 32 ≤ g) →
        t.mem.byte g = s.mem.byte g) ∧
  (∀ (s : State) w rest d x r n, s.wafer.replq = w :: rest → s.dies = [(d, x)] → x.pages.repl = [r] → r.job = w.job →
    w.bytes.map Prod.fst = (List.range n).map (fun i => r.home + i) → (∀ b ∈ w.bytes, b.2.2 = false) → n ≤ 4096 → r.home % 4096 = 0 → s.noWatchers = true →
    (∀ i, i < 4096 → s.clean (r.at_ + i) = true) → r.at_ % 8 = 0 →
    ∃ t, exec .replicaWrite s = .next t ∧ t.wafer.replq = rest ∧ t.cores = s.cores ∧
      s.mem.Copied t.mem r.at_ n fun i => (w.bytes.getD i (0, 0, false)).2.1) ∧
  (∀ (s : State) w d x r b, s.wafer.replq = [w] → s.dies = [(d, x)] → x.pages.repl = [r] → r.job = w.job → w.bytes = [b] →
    b.1 / 4096 * 4096 = r.home → s.noWatchers = true →
    let f := r.at_ + b.1 % 4096
    s.clean f = true →
    ∃ t, exec .replicaWrite s = .next t ∧ t.mem.byte f = b.2.1 ∧ (t.mem.tag (wordAt f)).poison = b.2.2) ∧
  (∀ (s : State) b w1 w2 w3,
    let d := s.arg.place
    let job : BitVec 12 := w1.setWidth 12
    s.commands d b 9 w1 w2 w3 → (s.dieAt d).pages.moves = [] →
    (∀ old, w1.toNat < 4096 → isSpace2 w2 = true → w2.toNat % 4096 = 0 → w3.toNat % 4096 = 0 →
      (w3 = 0 ∨ (w3.toNat < 2 ^ 46 ∧ physFlat w3.toNat ≠ none)) →
      (s.heldPage d job w2 w3.toNat = some old ∨ (s.heldPage d job w2 w3.toNat = none ∧ ∃ n, n < actorCount ∧ actorDie n = d ∧
        old = ((Config.freeWord s.fresh).toNat % (dramSize / 4096) * 16 + n) * 4096)) →
      ∃ t, exec .movePage s = .next t ∧ t.mem = s.mem ∧ t.cores = s.cores ∧
        (t.dieAt d).pages.moves = [{ job := job, va := w2, oldPa := old, newPa := w3.toNat, removal := w3 == 0,
                                     cmdSlot := b.nextCmd }] ∧
        ({ ev := .pageMoveCopy, arg := { place := d } } : Due) ∈ t.agenda) ∧
    ((2 ^ 12 ≤ w1.toNat ∨ isSpace2 w2 = false ∨ w2.toNat % 4096 ≠ 0 ∨ w3.toNat % 4096 ≠ 0 ∨
        (w3 ≠ 0 ∧ (2 ^ 46 ≤ w3.toNat ∨ physFlat w3.toNat = none)) ∨
        (s.heldPage d job w2 w3.toNat = none ∧ ∀ n, n < actorCount → actorDie n ≠ d)) → ∃ t, exec .movePage s = .next t ∧ t.CommandEnds d b 2 ∧ (t.dieAt d).pages.moves = [])) ∧
  (∀ (s : State) m f g, s.arg.place < dieCount →
    let d := s.arg.place
    (s.dieAt d).pages.moves = [m] → m.copied = false → physFlat m.oldPa = some f → physFlat m.newPa = some g → f % 4096 = 0 →
    g % 4096 = 0 → f ≠ g → (∀ i, i < 4096 → s.clean (f + i) = true ∧ s.clean (g + i) = true) →
    if s.piecesIn m.oldPa then exec .pageMoveCopy s = .next s
    else ∃ t, exec .pageMoveCopy s = .next t ∧ (t.dieAt d).pages.moves = [{ m with copied := true }] ∧ t.cores = s.cores ∧
      (if m.removal then t.mem = s.mem else s.mem.Copied t.mem g 4096 fun i => s.mem.byte (f + i)) ∧
      ({ ev := .pageMoveDone, arg := { place := d } } : Due) ∈ t.agenda) ∧
  ∀ (s : State) b m w1 w2 w3,
    let d := s.arg.place
    s.commands d b 9 w1 w2 w3 → (s.dieAt d).pages.moves = [m] → m.copied = true →
    if s.piecesFor m.oldPa = true ∨ (m.removal = false ∧ s.piecesIn m.newPa = true) then exec .pageMoveDone s = .next s
    else ∃ t, exec .pageMoveDone s = .next t ∧ t.CommandEnds d b 0 ∧ s.OnlyNotice t b ∧ (t.dieAt d).pages.moves = [] ∧
      t.cores = s.cores ∧ ∀ e, (t.dieAt e).x.tlb = (s.dieAt e).x.tlb.filter fun q => !(q.job == m.job && q.covers m.va)

/-- R366 to R372, R374, R375: a failed core loses its contents and asks for its removal. A request for a dead column is dropped; the
spare column, and one that no slot stands at, is marked dead; a slot with a hole asked for, or in a row whose spare is spent, is
held and, at rest, becomes a hole of generation 0; else a wave holds the slots from it on. The wave copies slot by slot from the right
and commits: the row shifts, the column is dead, the generations go up, and the slots go on. Each change of a row's word is reported;
a slot that a migration involves is held once that is over. (The model's choice: a failure loses the contents at its detection, entry
108; a request for a dead column is dropped, entry 109; a hole loses its sleepers and saved contexts, entry 111; counters go on over a
loss, entry 112.) -/
def Obligations.CoresAreRemoved : Prop :=
  (∀ (s : State), 24 ≤ s.arg.a ∨ 25 ≤ s.arg.b ∨ dieCount ≤ s.arg.place → exec .coreFailureDetected s = .fault .noSuchPlace) ∧
  (∀ (s : State), s.arg.place < dieCount → s.arg.a < 24 → s.arg.b < 25 →
    let d := s.arg.place
    let row := s.arg.a
    let w := s.rowWord d row
    let rc := (s.dieAt d).rc
    if (w.getLsbD (9 + s.arg.b) || rc.failed.contains (row, s.arg.b)) = true then exec .coreFailureDetected s = .next s
    else ∃ t, exec .coreFailureDetected s = .next t ∧ (t.dieAt d).rc.failed = rc.failed ++ [(row, s.arg.b)] ∧
      (t.dieAt d).rc.requests = rc.requests ++ [{ row := row, col := s.arg.b, hole := false, cause := 2 }] ∧
      ({ ev := .removalRequest, arg := { place := d } } : Due) ∈ t.agenda ∧
      ∀ j, rc.waves = [] → rowSlotAt w s.arg.b = some j →
        let slot := dieSlot d row j
        (t.coreAt slot).u.failed = true ∧ (t.coreAt slot).h = { mode := .u, hs := .idle } ∧ (t.coreAt slot).q = {} ∧
        ∀ off, off < spSize → t.mem.byte (spFlat slot off) = 0) ∧
  (∀ (s : State) r, s.arg.place < dieCount →
    let d := s.arg.place
    let w := s.rowWord d r.row
    let dead (p : Nat) : Bool := w.getLsbD (9 + p)
    (s.dieAt d).rc.requests = [r] → (s.dieAt d).rc.waves = [] → r.row < 24 → r.col < 25 →
    let word (t : State) (f : Nat → Bool) : Prop := ∀ i, (t.rowWord d r.row).getLsbD i = f i
    let report (t : State) : Prop := s.SendsFrame t
      { ty := 7, words := [BitVec.ofNat 64 (d % 8 + d / 8 * 2 ^ 4 + r.row * 2 ^ 8 + r.cause * 2 ^ 16 + r.col * 2 ^ 18),
          w &&& 0x7FFFFFFFFFFFFFFF, t.rowWord d r.row, 0] }
    ∃ t, exec .removalRequest s = .next t ∧
      (dead r.col = true → (t.dieAt d).rc.requests = [] ∧ (word t fun i => w.getLsbD i && i != 63) ∧ t.cores = s.cores ∧
        t.wafer = s.wafer) ∧
      (dead r.col = false → (r.col = 24 ∧ rowShift w = 24) ∨ rowSlotAt w r.col = none →
        (t.dieAt d).rc.requests = [] ∧ (word t fun i => (w.getLsbD i && i != 63) || i == 9 + r.col) ∧ t.cores = s.cores ∧
        report t) ∧
      ∀ f, dead r.col = false → ¬ (r.col = 24 ∧ rowShift w = 24) → rowSlotAt w r.col = some f →
        let slot := dieSlot d r.row f
        (r.hole = true ∨ rowShift w < 24 ∨ (∃ p, f < p ∧ p < 25 ∧ dead p = true) →
          (s.atRest slot = false → (t.dieAt d).rc.requests = [r] ∧ (s.migrating slot = false → (t.coreAt slot).u.whold = true) ∧
            word t fun i => w.getLsbD i || i == 63) ∧
          (s.atRest slot = true → s.wafer.edges = [] → (s.dieAt d).rc.box = none → (s.coreAt slot).u.failed = false →
            (t.dieAt d).rc.requests = [] ∧ (t.coreAt slot).u.failed = true ∧ t.genOf slot = 0 ∧ t.isHole slot = true ∧
            (word t fun i => (w.getLsbD i && i != 63) || i == 9 + r.col || i == 34 + f) ∧
            (∀ off, off < spSize → t.mem.byte (spFlat slot off) = 0) ∧
            (s.contextsOf slot = [] → report t))) ∧
        (r.hole = false → 24 ≤ rowShift w → (∀ p, f < p → p < 25 → dead p = false) →
          (t.dieAt d).rc.requests = [] ∧ (word t fun i => w.getLsbD i || i == 63) ∧
          (t.dieAt d).rc.waves = [{ die := d, row := r.row, col := r.col, first := f, k := 24, cause := r.cause }] ∧
          (∀ j, f ≤ j → j < 24 → s.migrating (dieSlot d r.row j) = false → (t.coreAt (dieSlot d r.row j)).u.whold = true) ∧
          ({ ev := .barchanCopySlot, arg := { place := d } } : Due) ∈ t.agenda)) ∧
  ∀ (s : State) v, s.arg.place < dieCount →
    let d := s.arg.place
    (s.dieAt d).rc.waves = [v] → v.row < 24 → v.first < 24 → v.col < 25 →
    let readable : Prop := (s.dieAt d).rc.failed.contains (v.row, v.k + 1) = false ∧
      (s.coreAt (dieSlot d v.row v.k)).u.failed = false
    (v.k = 24 → (∀ j, v.first ≤ j → j < 24 → s.atRest (dieSlot d v.row j) = true) →
      ∃ t, exec .barchanCopySlot s = .next t ∧ (t.dieAt d).rc.waves = [{ v with k := 23 }] ∧ t.mem = s.mem ∧
        ∀ n, t.coreAt n = { s.coreAt n with
          u.whold := (s.coreAt n).u.whold || ((List.range 24).any fun j => decide (v.first ≤ j) && n == dieSlot d v.row j) }) ∧
    (v.first < v.k → v.k < 24 → readable →
      ∃ t, exec .barchanCopySlot s = .next t ∧ (t.dieAt d).rc.waves = [{ v with k := v.k - 1 }] ∧ t.cores = s.cores ∧
        t.mem = s.mem ∧ ({ ev := .barchanCopySlot, arg := { place := d } } : Due) ∈ t.agenda) ∧
    (v.k = v.first → readable → v.stopped = none →
      ∃ t, exec .barchanCopySlot s = .next t ∧ (t.dieAt d).rc.waves = [] ∧
        (∀ i, (t.rowWord d v.row).getLsbD i = if i < 5 then v.first.testBit i
          else (((s.rowWord d v.row).getLsbD i && i != 63) || i == 9 + v.col)) ∧
        (∀ j, j < 24 → t.genOf (dieSlot d v.row j) = s.genOf (dieSlot d v.row j) + (if v.first ≤ j then 1 else 0)) ∧
        (∀ j, v.first ≤ j → j < 24 → (s.rowWord d v.row).getLsbD (34 + j) = false →
          (t.coreAt (dieSlot d v.row j)).u.whold = false) ∧
        ∃ w3, s.SendsFrame t
          { ty := 7, words := [BitVec.ofNat 64 (d % 8 + d / 8 * 2 ^ 4 + v.row * 2 ^ 8 + v.cause * 2 ^ 16 + v.col * 2 ^ 18),
              s.rowWord d v.row &&& 0x7FFFFFFFFFFFFFFF, t.rowWord d v.row, w3] } ∧ (v.lost = [] → w3 = 0))

/-! ### Networks, clocks, links -/

/-- R110, R122, R260, R367, R376 to R381: a router sends a packet along X, then along Y, and at its destination into the core's
input, past no earlier one of its source, destination and class; a route entry of the packet's class, number and job sends it on by
a port, copies it to ports, or holds it until every input of the entry has a head; the heads then leave as one packet whose payload is
combined word by word. (The model's choice: copies leave as one act, and the first carries the acknowledgements, entry 102; those of
absorbed heads leave with the output, entry 103; a router that no slot stands at has no entry, entry 104.) -/
def Obligations.PacketsCrossTheNetwork : Prop :=
  (∀ s : State, routerCount ≤ s.arg.place → exec .routerLookup s = .fault .noSuchPlace ∧ exec .combine s = .fault .noSuchPlace) ∧
  (∀ (s : State) p, s.onlyPacket s.arg.place p →
    let r := s.arg.place
    let q := s.routerOf p.dst
    let runs (t : State) : Prop := exec .routerLookup s = .next t
    let plain : Prop := match s.slotAtRouter r with
      | some slot => s.entryFor slot p = 0 ∨ (rtAct (s.entryFor slot p) = 3 ∧ p.key ≠ rtKey (s.entryFor slot p))
      | none => True
    let first : Prop := ∀ x ∈ s.wafer.net, x.src = p.src → x.dst = p.dst → x.cls = p.cls → x.held = false → p.num ≤ x.num
    let takes (slot : Nat) : Prop := s.isHole slot = false ∧ s.hasInput slot { p with dst := slot } = true ∧ p.trailer = none
    (plain →
      (r % 200 < q % 200 → ∃ t, runs t ∧ s.Hops t p (r + 1) 1) ∧
      (q % 200 < r % 200 → ∃ t, runs t ∧ s.Hops t p (r - 1) 3) ∧
      (r % 200 = q % 200 → r / 200 < q / 200 → q < routerCount → ∃ t, runs t ∧ s.Hops t p (r + 200) 2) ∧
      (r % 200 = q % 200 → q / 200 < r / 200 → ∃ t, runs t ∧ s.Hops t p (r - 200) 0) ∧
      (r = q → takes p.dst → first → ∃ t, runs t ∧ s.Arrives t p p.dst)) ∧
    ∀ slot, s.slotAtRouter r = some slot →
      let w := FMap.get 0 (s.coreAt slot).routeTab (p.cls.toNat * 64 + p.route)
      w.getLsbD 63 = true → w.extractLsb' 44 12 = p.job →
      (∀ port n, (rtAct w = 0 ∨ (rtAct w = 3 ∧ p.key = rtKey w)) → portsOf (rtOut w) = [port] → port < 4 →
        nextRouter r port = some n → ∃ t, runs t ∧ s.Hops t p n port) ∧
      (rtAct w = 0 → portsOf (rtOut w) = [4] → p.cls = 0 ∨ slot = p.dst → takes slot → first → ∃ t, runs t ∧ s.Arrives t p slot) ∧
      (rtAct w = 1 → p.cls = 0 → (rtIn w).testBit p.inp = true →
        ∃ t, runs t ∧ t.wafer = { s.wafer with net := s.wafer.net.erase p ++ [{ p with held := true }] } ∧ t.cores = s.cores ∧
          ({ ev := .combine, arg := { place := r, a := p.route } } : Due) ∈ t.agenda) ∧
      ∀ a b n m, rtAct w = 2 → portsOf (rtOut w) = [a, b] → b < 4 → nextRouter r a = some n → nextRouter r b = some m →
        ∃ t, runs t ∧ t.cores = s.cores ∧ t.mem = s.mem ∧
          s.Counts t slot p.job 1 ∧
          t.wafer.net = s.wafer.net.erase p ++
            [{ p with at_ := n, inp := oppositePort a, held := false },
             { p with
                at_ := m, inp := oppositePort b, held := false, acks := [],
                body := match p.body with
                  | .msg g => .msg { g with route := none }
                  | x => x }]) ∧
  ∀ (s : State) slot p q g h port n,
    let r := s.arg.place
    let w := FMap.get 0 (s.coreAt slot).routeTab (s.arg.a % 64)
    let head (i : Nat) (p : Packet) : Prop := (s.wafer.net.find? fun x =>
      x.at_ == r && x.held && x.inp == i && x.route == s.arg.a && x.job == w.extractLsb' 44 12) = some p
    r < routerCount → s.slotAtRouter r = some slot → w.getLsbD 63 = true → s.wafer.links = [] → s.flits = [] →
    (∀ a b, portsOf (rtIn w) = [a, b] → head a p → head b q →
      p.body = .msg g → q.body = .msg h → p.trailer = none → q.trailer = none → p.rl = none → q.rl = none → h.route = none →
      g.payload.length = h.payload.length → portsOf (rtOut w) = [port] → port < 4 → nextRouter r port = some n →
      ∃ t l, exec .combine s = .next t ∧ t.cores = s.cores ∧ t.mem = s.mem ∧ l.length = g.payload.length ∧
        s.Counts t slot q.job (-1) ∧
        t.wafer.net = (s.wafer.net.erase p).erase q ++ [{ p with
          at_ := n, inp := oppositePort port, held := false, acks := p.acks ++ q.acks,
          body := .msg { g with payload := l, etag := g.etag || h.etag } }] ∧
        ∀ i, i < l.length →
          let x := g.payload.getD i 0
          let y := h.payload.getD i 0
          let z := l.getD i 0
          (rtOp w = 0 → z.extractLsb' 0 32 = x.extractLsb' 0 32 + y.extractLsb' 0 32 ∧
            z.extractLsb' 32 32 = x.extractLsb' 32 32 + y.extractLsb' 32 32) ∧
          (rtOp w = 1 → z = x + y) ∧
          (rtOp w = 3 → z = BitVec.ofNat 64 (fp64.add rne x.toNat y.toNat).1) ∧
          (rtOp w = 4 → z = if y.toInt < x.toInt then y else x) ∧
          (rtOp w = 5 → z = if x.toInt < y.toInt then y else x)) ∧
    ∀ a, a ∈ portsOf (rtIn w) → (∀ p, ¬ head a p) → exec .combine s = .next s

/-- R384 to R389: a release-class write waits at its destination die until that die's applied vector covers its clock; applied, it
has its effect, its clock joins the die's, and every die is told. A notice of a release raises the contiguous number of its die. An
acquire-class read waits at its serving die likewise. An acknowledgement lowers the count of writes on their way. -/
def Obligations.ClocksOrderReleases : Prop :=
  (∀ (s : State) w, s.arg.place < dieCount →
    let d := s.arg.place
    let k := s.clocksAt d
    k.relq = [w] →
    let joined (t : State) : Prop := ∀ e, e < dieCount → FMap.get 0 (t.clocksAt d).h e =
      if precedes (FMap.get 0 k.h e) (FMap.get 0 w.trailer.clock e) = true then FMap.get 0 w.trailer.clock e else FMap.get 0 k.h e
    let told (t : State) : Prop := (t.clocksAt d).relq = [] ∧ ∀ r ∈ w.trailer.rels, ∀ e, e < dieCount →
      ({ ev := .appliedNotice, arg := { place := e, a := r.1, b := r.2.toNat } } : Due) ∈ t.agenda
    (s.canApply d w = false → exec .releaseWriteApply s = .next s) ∧
    (∀ p, s.canApply d w = true → w.body = .packet p → p.trailer = some w.trailer →
      slotDie p.dst = d → s.isHole p.dst = false → s.wafer.net = [] →
      (s.dies.all fun q => q.1 == d || q.2.clk.relq.isEmpty) = true →
      ∃ t, exec .releaseWriteApply s = .next t ∧ joined t ∧ told t ∧ s.Arrives t p p.dst) ∧
    (∀ slot seq job l n f fe, s.canApply d w = true → w.body = .engine slot seq job l fe →
      (l.map fun x => (x.1, x.2.2)) = (List.range n).map (fun i => (f + i, false)) → dramBase ≤ f → s.noReplicas = true →
      s.wafer.replq = [] → (∀ i, i < n → s.clean (f + i) = true) →
      ∃ t, exec .releaseWriteApply s = .next t ∧ joined t ∧ told t ∧
        s.mem.Copied t.mem f n fun i => (l.getD i (0, 0, false)).2.1)) ∧
  (∀ s : State, s.arg.place < dieCount → s.arg.a < dieCount →
    let d := s.arg.place
    let k := s.clocksAt d
    let a := s.arg.a
    let n : BitVec 32 := BitVec.ofNat 32 s.arg.b
    let old := FMap.get 0 k.a a
    if precedes old n = false then exec .appliedNotice s = .next s
    else ∃ t, exec .appliedNotice s = .next t ∧ t.cores = s.cores ∧ t.mem = s.mem ∧ t.wafer = s.wafer ∧
      (∀ e, e ≠ d → t.dieAt e = s.dieAt e) ∧ (∀ e, e ≠ a → FMap.get 0 (t.clocksAt d).a e = FMap.get 0 k.a e) ∧
      (n = old + 1 → k.above_ a = [] → FMap.get 0 (t.clocksAt d).a a = n ∧ (t.clocksAt d).above_ a = []) ∧
      (n = old + 1 → k.above_ a = [old + 2] → FMap.get 0 (t.clocksAt d).a a = old + 2 ∧ (t.clocksAt d).above_ a = []) ∧
      (n ≠ old + 1 → k.above_ a = [] → FMap.get 0 (t.clocksAt d).a a = old ∧ (t.clocksAt d).above_ a = [n]) ∧
      (k.relq ≠ [] → ({ ev := .releaseWriteApply, arg := { place := d } } : Due) ∈ t.agenda) ∧
      (k.acqq ≠ [] → ({ ev := .acquireServe, arg := { place := d } } : Due) ∈ t.agenda)) ∧
  (∀ (s : State) w, s.arg.place < dieCount →
    let k := s.clocksAt s.arg.place
    k.acqq = [w] →
    let covered : Prop := ∀ e, e < dieCount → precedes (k.known e []) (FMap.get 0 w.clock e) = false
    (¬ covered → exec .acquireServe s = .next s) ∧
    (∀ slot c rest, covered → w.body = .cp slot → (s.coreAt slot).e.cpq = c :: rest → c.phase = .acquire →
      ∃ t, exec .acquireServe s = .next t ∧ t.mem = s.mem ∧ (t.clocksAt s.arg.place).acqq = [] ∧
        (t.coreAt slot).e.cpq = { c with phase := .ready } :: rest ∧
        ({ ev := .cpCommandRun, arg := { place := slot } } : Due) ∈ t.agenda)) ∧
  ∀ s : State, s.arg.place < slotCount →
    let slot := s.arg.place
    let c := s.coreAt slot
    ∃ t, exec .releaseAcknowledgement s = .next t ∧ { t with cores := s.cores, agenda := s.agenda } = s ∧
      (∀ n, n ≠ slot → t.coreAt n = s.coreAt n) ∧ t.coreAt slot = { c with m.unacked := c.m.unacked - 1 } ∧
      (c.m.unacked ≤ 1 → c.m.sendq ≠ [] → ({ ev := .messageInject, arg := { place := slot } } : Due) ∈ t.agenda) ∧
      (c.m.unacked ≤ 1 → c.e.sb ≠ [] → ({ ev := .storeBufferDrain, arg := { place := slot } } : Due) ∈ t.agenda)

/-- R383, R400 to R402: an end declares its link dead for one of the reasons that it can find itself, once; each router that has the
update forwards it over its live links, and does four rounds: it routes around the link, until when a packet waits; nothing stands
half across; its producers send again every token of their windows whose path crossed it; and the controller of each end posts a
notice (that an end's own controller posts it is the model's choice, entry 105). -/
def Obligations.LinksFailInRounds : Prop :=
  let rounds (s t : State) (i r n : Nat) : Prop :=
    { t with wafer := { t.wafer with links := s.wafer.links }, agenda := s.agenda } = s ∧
    t.wafer.links.length = s.wafer.links.length ∧
    ∀ j u, s.wafer.links[j]? = some u → ∃ w, t.wafer.links[j]? = some w ∧ w.link = u.link ∧
      ∀ q, w.round q = if j = i ∧ q = r then n else u.round q
  let soon (t : State) (ev : Instr) (r i : Nat) : Prop := ({ ev := ev, arg := { place := r, a := i } } : Due) ∈ t.agenda
  let flooded (t : State) (r i : Nat) : Prop :=
    ∀ p q, p < 4 → nextRouter r p = some q → t.linkDead r p = false → soon t .linkStateUpdate q i
  (∀ s : State,
    let r := s.arg.place
    let port := if s.arg.flag then 2 else 1
    let l := linkAt r port
    let found : Prop := (s.arg.a = 0 ∧ 16 ≤ (FMap.get [] s.wafer.monitors l.key).count true) ∨ s.arg.a = 1
    if routerCount ≤ r ∨ nextRouter r port = none then exec .deadLinkDeclare s = .fault .noSuchPlace
    else if s.linkDead r port = true ∨ ¬ found then exec .deadLinkDeclare s = .next s
    else ∃ (t : State) (u : LinkUpdate), exec .deadLinkDeclare s = .next t ∧
      { t with wafer := { t.wafer with links := s.wafer.links }, agenda := s.agenda } = s ∧
      t.wafer.links = s.wafer.links ++ [u] ∧ u.link = { l with reason := s.arg.a } ∧
      (∀ q, u.round q = if q = r then 1 else 0) ∧ soon t .linkRound r s.wafer.links.length ∧ flooded t r s.wafer.links.length) ∧
  (∀ (s : State) u,
    let r := s.arg.place
    let i := s.arg.a
    let reached : Prop := ∃ p q, p < 4 ∧ nextRouter r p = some q ∧ s.linkDead r p = false ∧ u.round q ≠ 0
    s.wafer.links[i]? = some u → r < routerCount →
    (u.round r ≠ 0 ∨ ¬ reached → exec .linkStateUpdate s = .next s) ∧
    (u.round r = 0 → reached →
      ∃ t, exec .linkStateUpdate s = .next t ∧ rounds s t i r 1 ∧ soon t .linkRound r i ∧ flooded t r i)) ∧
  (∀ (s : State) u,
    let r := s.arg.place
    let i := s.arg.a
    let n := u.round r
    let round (t : State) : Prop := exec .linkRound s = .next t ∧ (n < 4 → soon t .linkRound r i) ∧
      ∃ w, t.wafer.links[i]? = some w ∧ w.link = u.link ∧ ∀ q, w.round q = if q = r then n + 1 else u.round q
    s.wafer.links[i]? = some u → r < routerCount →
    (n = 0 ∨ 5 ≤ n → exec .linkRound s = .next s) ∧
    (n = 1 → ∃ t, round t ∧ rounds s t i r 2 ∧ soon t .routerLookup r 0) ∧
    (n = 2 → ∃ t, round t ∧ rounds s t i r 3) ∧
    (∀ k e slot a, n = 3 → s.wafer.edges = [(k, e)] → e.src = .actor slot a →
      ∃ t, round t ∧ t.mem = s.mem ∧ (t.coreAt slot).sendq 2 = (s.coreAt slot).sendq 2 ++
        if s.routerOf slot = r ∧ s.pathCrosses (s.edgePacket k e) u.link 500 = true then
          e.window.map fun w =>
            { dst := s.nodeSlot e.dst, job := e.job, rl := w.rl, body := .token { w with again := true } }
        else []) ∧
    let end_ : Prop := ∃ p q, p < 4 ∧ nextRouter r p = some q ∧ u.link.same (linkAt r p) = true
    (n = 4 → ¬ end_ → ∃ t, round t ∧ rounds s t i r 5) ∧
    ∀ b, n = 4 → end_ → s.takesNotice (routerDie r) b →
      ∃ t, round t ∧ t.Notices (routerDie r) b 12
        (BitVec.ofNat 64 (u.link.px + u.link.py * 2 ^ 8 + (if u.link.south then 2 ^ 16 else 0))) (BitVec.ofNat 64 (u.link.reason % 4)) 0) ∧
  ∀ (s : State) p port u,
    let r := s.arg.place
    r < routerCount → (s.wafer.net.filter fun q => q.at_ = r ∧ q.held = false) = [p] → s.routeMove p = .go port → port < 4 →
    (nextRouter r port).isSome = true → s.updateAt r port = some u →
    (u.round r < 2 → u.link.reason ≠ 2 → exec .routerLookup s = .next s) ∧
    ∀ q, 2 ≤ u.round r ∨ u.link.reason = 2 → s.darn r port = some q →
      ∃ t, exec .routerLookup s = .next t ∧ t.cores = s.cores ∧ t.mem = s.mem ∧
        t.wafer.net = s.wafer.net.erase p ++ [{ p with at_ := q, inp := oppositePort port, held := false }]

/-! ### Freeze, power, boot -/

/-- R396 to R399: the freeze net, asserted at a tap while the wafer runs, stops it; frozen, it can be thawed, or read out core by
core, a frame for each with its registers; then it is frozen again; and at thaw a notice that waited is posted.
R356, R423, R425, R426: a regulator's failure makes its cluster dark, its slots holes of generation 0, and its memory lost. A
power cap lowers the clock codes above it; a trip freezes the wafer and takes its power. At bring-up each die's boot ROM checks its
image by the four rules; a die that accepts it has its harts idle, each class the lower of fused and tested, one that refuses it has
no hart to act; a core that passes no class is reported failed, a spare too. (The model's choice: what the control node is told of a
freeze has no frame, entry 115; every hart stops at once, entry 69; the records' layouts, entries 15 and 21; removed power changes no
contents, entry 119; M0 takes the first accepted image, entry 137; the fused class is the reset class, entry 138.) -/
def Obligations.FreezeAndPower : Prop :=
  (∀ s : State,
     let only (t : State) : Prop := { t with wafer := s.wafer, agenda := s.agenda } = s
     let soon (t : State) (ev : Instr) : Prop := ({ ev := ev, arg := {} } : Due) ∈ t.agenda
     (s.arg.place < tapDie dieCount → s.wafer.freeze = .running →
       ∃ t, exec .freezeAssert s = .next t ∧ only t ∧ t.wafer = { s.wafer with
           freeze := .freezing, tap := s.arg.place,
           why := if s.arg.place < slotCount then .form else if s.arg.place < slotCount + 2 then .debug else .trip } ∧
         soon t .freezeStopped) ∧
     (s.arg.place < tapDie dieCount → s.wafer.freeze ≠ .running → exec .freezeAssert s = .next s) ∧
     (s.wafer.freeze = .freezing →
       ∃ t, exec .freezeStopped s = .next t ∧ only t ∧ t.wafer = { s.wafer with
           freeze := .frozen, planak.told := s.wafer.planak.told ++ [(s.wafer.tap, s.wafer.why)] }) ∧
     (s.wafer.freeze = .frozen → (∀ p ∈ s.cores, ∀ a ∈ p.2.q.actors, a.2.en = false) →
       ((∀ p ∈ s.dies, ∀ b, p.2.rc.box = some b → b.queue = []) →
         ∃ t, exec .thaw s = .next t ∧ only t ∧ t.wafer = { s.wafer with freeze := .running }) ∧
       ∀ (d : Nat) (x : Die) (b : Mailbox) (n : Notice), s.dies = [(d, x)] → x.rc.box = some { b with queue := [n] } →
         State.takesNotice { s with
           dies := [(d, { x with rc.box := some { b with queue := [] } })], wafer.freeze := .running } d { b with queue := [] } →
         ∃ t, exec .thaw s = .next t ∧ t.wafer = { s.wafer with freeze := .running } ∧
           t.Notices d { b with queue := [] } n.kind n.w1 n.w2 n.w3) ∧
     (s.wafer.freeze ≠ .frozen → exec .thaw s = .next s) ∧
     (s.wafer.freeze = .frozen →
       let l := s.arg.list.filter fun p => p < routerCount
       ∃ t, exec .readOut s = .next t ∧ only t ∧ soon t .readOut ∧
         t.wafer = { s.wafer with
           freeze := .reading, reads := l ++ (l.map fun p => routerCount + routerDie p).eraseDups }) ∧
     (s.wafer.freeze = .reading → s.wafer.reads = [] →
       ∃ t, exec .readOut s = .next t ∧ only t ∧ t.wafer = { s.wafer with freeze := .frozen }) ∧
     ∀ n rest slot, s.wafer.freeze = .reading → s.wafer.reads = n :: rest → n < routerCount → s.slotAtCore n = some slot →
       let c := s.coreAt slot
       ∃ (t : State) (f : Frame), exec .readOut s = .next t ∧ only t ∧ soon t .readOut ∧
         t.wafer = { s.wafer with reads := rest, planak := t.wafer.planak } ∧ s.SendsFrame t f ∧ f.ty = 9 ∧
         f.words.getD 0 0 = BitVec.ofNat 64 (slotX slot + slotY slot * 2 ^ 8 + n % 200 * 2 ^ 16 + n / 200 * 2 ^ 24
           + (if c.h.traps = [] then 0 else 2 ^ 33) + (if c.h.task.isSome then 2 ^ 34 else 0)
           + (if c.u.halted then 2 ^ 35 else 0)) ∧ f.words.getD 2 0 = (c.u.job.getD 0).setWidth 64 ∧
         f.words.getD 305 0 = c.c.mstatus ||| 0xA00000000 ∧
         (∀ i, i < 32 → f.words.getD (8 + i) 0 = c.h.getX (BitVec.ofNat 5 i)) ∧
         (∀ i j, i < 32 → j < 8 → f.words.getD (40 + 8 * i + j) 0 = (c.h.getV (BitVec.ofNat 5 i)).extractLsb' (64 * j) 64) ∧
         (∀ i, i < 8 → f.words.getD (296 + i) 0 = c.h.getK (BitVec.ofNat 3 i)) ∧ f.words.getD 304 0 = c.h.pc) ∧
  ((∀ s : State, s.arg.place < clusterCount →
     let cl := s.arg.place
     if (s.clusterAt cl).dark then exec .regulatorFailure s = .next s
     else (s.dieAt (clusterDie cl)).rc.waves = [] → (s.dieAt (clusterDie cl)).rc.box = none →
       ∃ t, exec .regulatorFailure s = .next t ∧ (t.clusterAt cl).dark = true ∧
         (∀ i, i < 16 → t.genOf (clusterSlot cl i) = 0 ∧ t.isHole (clusterSlot cl i) = true ∧
           (t.coreAt (clusterSlot cl i)).u.failed = true) ∧
         ∀ off, off < cmSize → t.mem.byte (cmFlat cl off) = 0) ∧
   (∀ s : State, s.arg.place < dieCount →
     ∃ t, exec .powerCap s = .next t ∧ { t with cores := s.cores } = s ∧
       ∀ slot, slot < slotCount →
         let c := s.coreAt slot
         if slotDie slot = s.arg.place ∧ s.arg.a < c.g.clk.toNat then
           (t.coreAt slot).g.clk.toNat = min s.arg.a c.g.cls.toNat ∧ (t.coreAt slot).h = c.h ∧
           c.Sampled (t.coreAt slot) 1 (min s.arg.a c.g.cls.toNat + 2 ^ 8 * (Config.thermalCeiling slot).toNat + 2 ^ 14)
         else t.coreAt slot = c) ∧
   (∀ s : State, s.arg.place < dieCount →
     ∃ t, exec .protectionTrip s = .next t ∧ t.module_ = { s.module_ with tripped := true } ∧ t.cores = s.cores ∧ t.mem = s.mem ∧
       t.wafer.freeze = (if s.wafer.freeze = .running then .freezing else s.wafer.freeze) ∧
       ({ ev := .powerRemoved, arg := {} } : Due) ∈ t.agenda) ∧
   (∀ s : State,
     if s.module_.tripped then
       ∃ t, exec .powerRemoved s = .next t ∧ { t with module_ := s.module_ } = s ∧ t.module_ = { s.module_ with powered := false }
     else exec .powerRemoved s = .next s) ∧
   ∀ s : State,
     if (s.module_.booted || !s.module_.powered) = true then exec .bringUp s = .next s
     else
       let image (d : Nat) : RomImage := s.arg.images.getD d {}
       let good (d : Nat) : Prop := d < dieCount ∧ Config.sha3 (image d).key = Config.vendorKeyHash ∧
         Config.verify (image d).key (Config.sha3 (image d).body) (image d).sign = true ∧
         Config.securityVersion.toNat ≤ (image d).version
       ((∀ d, ¬ good d) → ∃ t, exec .bringUp s = .next t ∧ { t with cores := s.cores } = s ∧
         ∀ slot, slot < slotCount → t.coreAt slot = { s.coreAt slot with u.failed := true }) ∧
       ∀ d, good d → (∀ e, e < d → ¬ good e) →
         ∃ t, exec .bringUp s = .next t ∧ { t with cores := s.cores, module_ := s.module_, agenda := s.agenda } = s ∧
           t.module_.booted = true ∧
           FMap.get 0 t.module_.meas 0 = Config.sha3 (bytesOf (FMap.get 0 s.module_.meas 0).toNat 64
             ++ bytesOf (Config.sha3 (image d).body).toNat 64) ∧
           (∀ slot, slot < slotCount →
             let c := s.coreAt slot
             (¬ good (slotDie slot) → t.coreAt slot = { c with u.failed := true }) ∧
             (good (slotDie slot) →
               let g := match (s.arg.list.zip s.arg.list2).find? fun p => p.1 = s.routerOf slot with
                 | some p => min p.2 c.g.cls.toNat
                 | none => c.g.cls.toNat
               t.coreAt slot = { c with
                 h.mode := .u, h.hs := .idle, h.pc := 0, g.cls := BitVec.ofNat 6 g, g.clk := BitVec.ofNat 6 g })) ∧
           ∀ r p, (s.arg.list.zip s.arg.list2).find? (fun p => p.1 = r) = some p → 36 < p.2 → r < routerCount → good (routerDie r) →
             ({ ev := .coreFailureDetected, arg := { place := routerDie r, a := r / 200 % 24, b := r % 200 % 25 } } : Due) ∈ t.agenda)

/-! ### The control node and other wafers -/

/-- R342, R355, R414 to R416, R419, R423, R424: a host token that is new is put on its edge when its number is due and a credit is
there, and waits at the port until then; its acknowledgement, in order, returns a credit. A failed Planak port hands over to the other,
which sends again what has no acknowledgement. An unknown frame is counted. The bring-up command waits for the firmware and its waves,
sets mailboxes and the primary port, extends M2, and the first sends a residency report. An attestation request is answered with the
nonce and the measurements, signed. (The model's choice: a second copy of a token gets no answer, entry 116; port settings come beside
the bring-up command, entry 136.) -/
def Obligations.ControlNodeFrames : Prop :=
  (∀ (s : State) k x, s.arg.place = 0 → s.hostEdge (BitVec.ofNat 12 s.arg.a) (s.arg.b % 8) = some (k, x) → s.edgeAt k = some x →
    s.wafer.planak.waiting = [] →
    let seq : BitVec 32 := BitVec.ofNat 32 s.arg.c
    (precedes seq x.seq = true → exec .hostTokenIn s = .next s) ∧
    (precedes seq x.seq = false → seq ≠ x.seq ∨ x.credits = 0 →
      exec .hostTokenIn s = .next { s with wafer.planak.waiting := [
        { job := BitVec.ofNat 12 s.arg.a, edge := s.arg.b % 8, seq := seq, top := s.arg.flag, words := s.arg.words }] }) ∧
    (seq = x.seq → x.credits ≠ 0 → x.rel = false → s.holdsTokens x = false → x.slots ≠ 0 →
      let tok : Token := { edge := k, seq := x.seq, payload := (List.range (x.bytes / 8)).map fun i => s.arg.words.getD i 0,
                           top := s.arg.flag, done := false }
      ∃ t p, exec .hostTokenIn s = .next t ∧ t.mem = s.mem ∧ t.cores = s.cores ∧ t.wafer.net = s.wafer.net ++ [p] ∧
        p.body = .token tok ∧ p.dst = s.nodeSlot x.dst ∧ p.job = x.job ∧ t.wafer.planak = s.wafer.planak ∧
        s.Counts t (slotCount + 16) x.job 1 ∧
        (∃ x', t.edgeAt k = some x' ∧ x'.seq = x.seq + 1 ∧ x'.credits = x.credits - 1) ∧
        ({ ev := .hostTokenIn, arg := { place := 1 } } : Due) ∈ t.agenda)) ∧
  (∀ (s : State) h rest, s.wafer.planak.unacked = h :: rest → h.job.toNat = s.arg.a → h.port = s.arg.b →
    if h.token.seq.toNat = s.arg.c then
      ∃ t, exec .hostTokenAck s = .next t ∧ t.wafer = { s.wafer with planak.unacked := rest } ∧ t.cores = s.cores ∧
        ({ ev := .creditReturn, arg := { place := h.edge, a := h.token.seq.toNat } } : Due) ∈ t.agenda
    else exec .hostTokenAck s = .next s) ∧
  (∀ s : State,
    let p := s.arg.place
    let failsOver : Prop := s.wafer.planak.primary = p ∧ s.wafer.planak.down.contains (1 - p) = false
    if 2 ≤ p then exec .planakFailover s = .fault .noSuchPlace
    else ∃ t, exec .planakFailover s = .next t ∧ { t with wafer := s.wafer } = s ∧ p ∈ t.wafer.planak.down ∧
      (∀ q ∈ s.wafer.planak.down, q ∈ t.wafer.planak.down) ∧
      (¬ failsOver → t.wafer.planak.primary = s.wafer.planak.primary ∧ t.wafer.planak.toNode = s.wafer.planak.toNode) ∧
      (failsOver → t.wafer.planak.primary = 1 - p ∧
        (s.wafer.planak.unacked = [] → t.wafer.planak.toNode = s.wafer.planak.toNode) ∧
        ∀ h e, s.wafer.planak.unacked = [h] → s.edgeAt h.edge = some e →
          t.wafer.planak.toNode = s.wafer.planak.toNode ++ [{
            ty := 5, seq := s.wafer.planak.frames,
            words := BitVec.ofNat 64 (e.job.toNat + e.dq % 8 * 2 ^ 16 + (if h.token.top then 2 ^ 20 else 0)
              + h.token.seq.toNat * 2 ^ 32) :: h.token.payload }])) ∧
  (∀ s : State, exec .unknownFrameType s = .next { s with
      wafer := { s.wafer with planak.unknown := s.wafer.planak.unknown + 1 } }) ∧
  (∀ s : State,
    let waits : Prop := s.module_.booted = false ∨
      (∃ p ∈ s.dies, (∃ q ∈ p.2.rc.requests, q.cause = 2) ∨ ∃ v ∈ p.2.rc.waves, v.cause = 2) ∨
      ∃ d ∈ s.agenda, d.ev = .coreFailureDetected
    (waits → ∃ t, exec .bringUpCommand s = .next t ∧ { t with agenda := s.agenda } = s ∧
      ({ ev := .bringUpCommand, arg := s.arg } : Due) ∈ t.agenda) ∧
    (¬ waits → ∃ t, exec .bringUpCommand s = .next t ∧ t.cores = s.cores ∧ t.mem = s.mem ∧ t.wafer.planak.primary = s.arg.a % 2 ∧
      FMap.get 0 t.module_.meas 2 = Config.sha3 (bytesOf (FMap.get 0 s.module_.meas 2).toNat 64
        ++ bytesOf (Config.sha3 (s.arg.words.flatMap fun w => bytesOf w.toNat 8)).toNat 64) ∧
      (∀ d core base, d < dieCount → s.arg.list[d]? = some core → s.arg.list2[d]? = some base → core < slotCount → slotDie core = d →
        base % 4096 = 0 → base + 4096 ≤ spSize →
        ∃ q, (t.dieAt d).rc.box = some { core := core, base := base, queue := q }) ∧
      (∀ p, s.arg.ports = [p] → portDie p.die = true → p.port < 2 →
        t.portAt p.die p.port = { s.portAt p.die p.port with cc := p.cc, peers := p.peers }) ∧
      if (s.wafer.planak.toNode.any fun f => f.ty == 4) = true then t.wafer.planak.toNode = s.wafer.planak.toNode
      else ∃ f, t.wafer.planak.toNode = s.wafer.planak.toNode ++ [f] ∧ f.ty = 4 ∧ f.words.length = 16 ∧
        f.seq = s.wafer.planak.frames)) ∧
  ∀ s : State,
    ∃ t f, exec .attestationRequest s = .next t ∧ s.SendsFrame t f ∧
      { t with wafer := { t.wafer with planak := s.wafer.planak } } = s ∧ f.ty = 11 ∧ f.bytes.length = 12438 ∧
      (∀ i, i < 64 → f.bytes.getD i 0 = s.arg.big.extractLsb' (8 * i) 8) ∧
      (∀ m i, m < 8 → i < 64 → f.bytes.getD (64 + 64 * m + i) 0 = (FMap.get 0 s.module_.meas m).extractLsb' (8 * i) 8) ∧
      ∀ i, i < 4627 → f.bytes.getD (7811 + i) 0
        = (Config.aliasSign (FMap.get 0 s.module_.meas 0) (f.bytes.take 7811)).getD i 0

/-- R416 to R422: a port engine puts a new block into its gateway core's queue and marks it in its chunk, holds one whose queue is full,
and drops one that it has; the block becomes a message record there, and a chunk whose blocks all have is acknowledged. It sends the
next full transmit slot of its rings in order to its peer; an acknowledged chunk empties its slots. A collective whose path fails is
reported and re-forms, its own or each that went over a port's lost link; over a port whose link is up it restarts with what was not
acknowledged, and runs; or it fails with a notice. (The model's choice: the block's header and what a block counts, entry 117; a
restart over the old path marks its port up, entry 118; the rings of a port's gateway cores lie 2 KiB apart in their cluster, entry
141; which ports stand for a new path, entry 143.) -/
def Obligations.PortEnginesMoveBlocks : Prop :=
  (∀ s : State, portDie s.arg.place = false ∨ 2 ≤ s.arg.a →
    exec .ueBlockReceive s = .fault .noSuchPlace ∧ exec .ueTransmit s = .fault .noSuchPlace ∧ exec .ueChunkAck s = .fault .noSuchPlace ∧
    exec .collectivePathFail s = .fault .noSuchPlace ∧ exec .collectiveRestart s = .fault .noSuchPlace ∧
    exec .collectiveFailed s = .fault .noSuchPlace) ∧
  ∀ (s : State), portDie s.arg.place = true → s.arg.a < 2 →
    let d := s.arg.place
    let k := s.arg.a
    let p := s.portAt d k
    let reports (t : State) (l : List (List Word)) : Prop := t.wafer.rud = s.wafer.rud ++ l
    let sends (t : State) (e j : Nat) (l : List (List Word)) : Prop := (t.portAt e j).rod = (s.portAt e j).rod ++ l
    let peer (e j i : Nat) : Word := FMap.get 0 (s.portAt e j).peers i
    let again (t : State) (ev : Instr) : Prop := ({ ev := ev, arg := { place := d, a := k } } : Due) ∈ t.agenda
    (s.arg.words ≠ [] → p.waiting = [] →
      let h := s.arg.words.getD 0 0
      let b := h.toNat / 2 ^ 32
      let ours (c : Chunk) : Bool := c.coll == h.setWidth 16 && c.pos == h.extractLsb' 16 8 && c.step == h.extractLsb' 24 8
        && c.index == b / 64
      let known : Bool := s.wafer.chunks.any fun c => ours c && c.bits.getLsbD (b % 64)
      let full : Bool := decide (64 ≤ (p.queue.filter fun q => q.1 = b % 8).length)
      if (!p.bound || !p.up) = true then exec .ueBlockReceive s = .next s
      else ∃ t, exec .ueBlockReceive s = .next t ∧ t.cores = s.cores ∧ t.mem = s.mem ∧ again t .ueBlockReceive ∧
        if known then t.portAt d k = p ∧ t.wafer = s.wafer
        else if full then t.portAt d k = { p with waiting := [s.arg.words] } ∧ t.wafer = s.wafer
        else t.portAt d k = { p with queue := p.queue ++ [(b % 8, (List.range 9).map fun i => s.arg.words.getD i 0)] } ∧
          ∃ c ∈ t.wafer.chunks, ours c = true ∧ c.bits.getLsbD (b % 64) = true) ∧
    (∀ g l i, s.arg.words = [] → p.queue = [(g, l)] → p.waiting = [] → g < 8 → l.length = 9 →
      let slot := gatewaySlot d k g
      let c := s.coreAt slot
      s.isHole slot = false → s.takesJob slot p.job = true → c.fifoRoom p.prio.toNat = true →
      c.freeFrame false = some i → s.noWatchers = true → frameBase c.g i % 64 = 0 → 80 ≤ frameSize c.g →
      let base := frameBase c.g i
      ∃ t r, exec .ueBlockReceive s = .next t ∧ (t.portAt d k).queue = [] ∧
        levelQ (t.coreAt slot).q p.prio.toNat = levelQ c.q p.prio.toNat ++ [{ item := r, seq := c.q.enq }] ∧
        r.job = p.job ∧ r.code = p.code ∧ r.prio = p.prio ∧ r.msg = true ∧ r.frame = BitVec.ofNat 48 base ∧
        t.mem.holds (spFlat slot (base + 8)) l ∧ s.Counts t slot p.job 1 ∧
        (s.wafer.chunks = [] → sends t d k []) ∧
        ∀ (x : Chunk) (y : Die), s.wafer.chunks = [x] → x.bits = BitVec.allOnes 64 → x.acked = false →
          s.dies = [(d, y)] → FMap.keys y.ports = [k] →
          sends t d k [[peer d k x.pos.toNat, BitVec.ofNat 32 (64 * x.index) ++ x.step ++ x.pos ++ x.coll]] ∧
          t.wafer.chunks = [{ x with acked := true }]) ∧
    (∀ g, p.bound = true → p.rings.find? (s.txReady d k p) = some g →
      let i := FMap.get 0 p.nextSlot g
      let f := txFlat d k p g i
      (∀ j, j < 16 → s.clean (f + 8 * j) = true) → f % 8 = 0 →
      let w := s.mem.word (f + 8)
      let via := ((p.coll ((w >>> 8).setWidth 16) ((w >>> 8).extractLsb' 16 8)).via).getD (d, k)
      ∃ t, exec .ueTransmit s = .next t ∧ t.cores = s.cores ∧ t.mem = s.mem ∧
        sends t via.1 via.2 [[peer via.1 via.2 (w.toNat % 256), w >>> 8] ++ (List.range 8).map fun j => s.mem.word (f + 64 + 8 * j)] ∧
        (t.portAt d k).nextRing = (g + 1) % 8 ∧ FMap.get 0 (t.portAt d k).nextSlot g = (i + 1) % 16 ∧
        (t.portAt d k).sent = p.sent ++ [(g, i, w, (List.range 8).map fun j => s.mem.word (f + 64 + 8 * j))] ∧
        again t .ueTransmit) ∧
    (∀ g i w blk, p.sent = [(g, i, w, blk)] →
      let v := s.arg.word
      let h := w >>> 8
      let f := txFlat d k p g i
      v.extractLsb' 0 16 = h.extractLsb' 0 16 → v.extractLsb' 24 8 = h.extractLsb' 24 8 →
      v.toNat / 2 ^ 32 = h.toNat / 2 ^ 32 / 64 → v.extractLsb' 16 8 = w.extractLsb' 0 8 →
      s.ringEdges (wordAt f) = [] → s.noWatchers = true → (∀ e, (s.dieAt e).rc.box = none) →
      ∃ t, exec .ueChunkAck s = .next t ∧ (t.portAt d k).sent = [] ∧ (t.mem.tag f).full = false ∧ t.mem.bytes = s.mem.bytes ∧
        again t .ueTransmit) ∧
    let c := p.coll (s.arg.word.extractLsb' 0 16) (s.arg.word.extractLsb' 16 8)
    let named (t : State) (x : Coll) : Prop := x ∈ (t.portAt d k).colls
    let header : Word := c.pos.setWidth 64 <<< 16 ||| c.coll.setWidth 64
    (c.state = .running → s.arg.flag = false →
      ∃ t l, exec .collectivePathFail s = .next t ∧ named t { c with state := .reforming } ∧ reports t [l] ∧
        l.getD 0 0 = header ∧ (t.portAt d k).up = p.up) ∧
    (∀ (x : Coll) (y : Die), s.arg.flag = true → s.dies = [(d, y)] → FMap.keys y.ports = [k] → p.colls = [x] → x.state = .running →
      ∃ t, exec .collectivePathFail s = .next t ∧ (t.portAt d k).up = false ∧
        if x.via.getD (d, k) = (d, k) then (t.portAt d k).colls = [{ x with state := .reforming }] ∧
          ∃ l, reports t [l] ∧ l.getD 0 0 = (x.pos.setWidth 64 <<< 16 ||| x.coll.setWidth 64)
        else (t.portAt d k).colls = [x] ∧ reports t []) ∧
    (c.state = .reforming →
      let relay := (s.arg.b, s.arg.c)
      if portDie s.arg.b = true ∧ s.arg.c < 2 ∧ ((s.portAt s.arg.b s.arg.c).up = true ∨ s.arg.flag = true) then
        ∃ t, exec .collectiveRestart s = .next t ∧ named t { c with state := .restarting, via := some relay } ∧
          (t.portAt s.arg.b s.arg.c).up = true ∧ ({ ev := .collectiveRestart, arg := s.arg } : Due) ∈ t.agenda
      else exec .collectiveRestart s = .next s) ∧
    (∀ e j, c.state = .restarting → (∀ e ∈ p.sent, (e.2.2.1 >>> 8).setWidth 16 = c.coll) → c.via = some (e, j) →
      ∃ t, exec .collectiveRestart s = .next t ∧ named t { c with state := .running } ∧ again t .ueTransmit ∧
        sends t e j (p.sent.map fun (x : Nat × Nat × Word × List Word) =>
          [peer e j (x.2.2.1.toNat % 256), x.2.2.1 >>> 8] ++ x.2.2.2)) ∧
    ∀ b, c.state = .reforming → s.takesNotice d b →
      ∃ t l, exec .collectiveFailed s = .next t ∧ named t { c with state := .failed } ∧ reports t [l] ∧ l.getD 0 0 = header ∧
        t.Notices d b 14 (c.coll.setWidth 64) (c.pos.setWidth 64) (BitVec.ofNat 64 (k + d * 2 ^ 8))

/-! ### The machine -/

/-- R20, R23 to R31, R33, R118, R162, R198, R207, R384, R398: after reset every CSR that the spec gives a reset value reads it;
scratchpad reads 0, its words empty and clean; no actor, packet or record exists; generations are 1, clocks 0; the wafer runs,
and memory is in its canonical form. The model's choice: registers, pc and all other memory are 0, M mode (entries 1, 5, 6). -/
def Obligations.ResetState : Prop :=
  let s := State.reset
  s.mem.wf = true ∧ s.running = true ∧ s.agenda = [] ∧ s.wafer.net = [] ∧ s.wafer.links = [] ∧
  (∀ f, s.mem.byte f = 0 ∧ s.mem.tag f = { full := false, poison := false, flips := 0 }) ∧
  (∀ slot p, p ∈ resetCsrs → s.csrValue slot p.1 = some p.2) ∧
  (∀ slot, slot < slotCount → s.genOf slot = 1 ∧ s.isHole slot = false) ∧
  (∀ d e, FMap.get 0 (s.dieAt d).clk.h e = 0 ∧ FMap.get 0 (s.dieAt d).clk.a e = 0) ∧
  ∀ slot,
    let c := s.coreAt slot
    (∀ r, c.h.getX r = 0) ∧ (∀ r, c.h.getV r = 0) ∧ (∀ r, c.h.getK r = 0) ∧ c.h.pc = 0 ∧ c.h.mode = .m ∧ c.h.hs = .boot ∧
    c.h.task = none ∧ c.h.mark = 0 ∧ c.h.pend = 0 ∧ c.h.resv = none ∧ c.r.stack = [] ∧ c.q.run = 0 ∧ c.q.last = 0 ∧
    (∀ j, (c.actor j).en = false) ∧ ∀ l, levelQ c.q l = []

/-- R14, R20, R66, R169, R183, R388: a hart that may run, and before whose instruction nothing stands, runs the instruction that the
word at its pc decodes to: the step is exec of it, then the lc that it took pass, and a task's first access is over. An instruction
that has to wait for an acquire, or that would report what no queue of notices has room for, lets the lc pass alone; a closing form
whose release has begun goes on with it. A pc that is no multiple of 4 or outside the local windows raises cause 1. A due event that
may be performed is performed with its argument and leaves the agenda, unless it would report what no queue of notices has room for.
(The order of the acts, the lc that a turn takes, what counts as a first access and the stall as a whole act are the model's choices,
entries 2, 3, 55 and 97.) -/
def Obligations.StepRunsTheDecodedInstruction : Prop :=
  (∀ (s : State) slot rest, s.sched = .hart slot :: rest → slot < slotCount → s.running = true →
    let u : State := { s with cur := slot, sched := rest }
    let pc := u.core.h.pc
    let passed (t t' : State) : Prop := t.Passed t' (s.lcs.headD 1) u.core.atTask
    let stalls (t t' : State) : Prop := if t.overfull = true then passed u t' else passed t t'
    u.core.mayRun = true → u.core.h.wait = none →
    (u.core.r.closing = true → ∃ t', step s = .next t' ∧ stalls u.closeOn t') ∧
    (u.core.r.closing = false → (u.core.h.hs = .run ∨ u.core.h.hs = .boot) → u.preempts = none →
      ((pc.toNat % 4 ≠ 0 ∨ inWindow pc 4 = false) → ∃ t t', u.Traps t 1 pc ∧ step s = .next t' ∧ passed t t') ∧
      ∀ i, pc.toNat % 4 = 0 → inWindow pc 4 = true → s.crc = [] → u.clean (u.flat pc) = true →
        decode (BitVec.ofNat 32 (littleEndian u.mem.byte (u.flat pc) 4)) = .ok i →
        if u.awaitsAcquire i = true then ∃ t', step s = .next t' ∧ passed u t'
        else match exec i u with
          | .next t => ∃ t', step s = .next t' ∧ stalls (t.afterAccess i pc) t'
          | .fault f => step s = .fault f
          | .refused r => step s = .refused r)) ∧
  ∀ (s : State) k rest d, s.sched = .event k :: rest → s.agenda[k]? = some d → s.mayPerform d.ev = true → encode d.ev = none →
    match exec d.ev { s with sched := rest, agenda := s.agenda.eraseIdx k, arg := d.arg } with
    | .next t => step s = .next (if t.overfull = true then { s with sched := rest } else t)
    | .fault f => step s = .fault f
    | .refused r => step s = .refused r

/-- R67, R68: a word of a major opcode that the map marks illegal decodes to nothing, and every word that decodes is of a legal one.
A fetched word that decodes to nothing raises an illegal-instruction trap whose tval is the 32 bits; no register is written and none
becomes pending, no command is issued, the region stack and memory stay as they are. -/
def Obligations.IllegalInstructions : Prop :=
  (∀ w : IWord, w.toNat % 4 ≠ 3 ∨ w.toNat / 4 % 32 ∈ illegalMajors → ∃ m, decode w = .error m) ∧
  ∀ (s : State) slot rest m, s.sched = .hart slot :: rest → slot < slotCount → s.running = true →
    let u : State := { s with cur := slot, sched := rest }
    let pc := u.core.h.pc
    u.core.mayRun = true → u.core.h.wait = none → u.core.r.closing = false → (u.core.h.hs = .run ∨ u.core.h.hs = .boot) →
    u.preempts = none → pc.toNat % 4 = 0 → inWindow pc 4 = true → s.crc = [] → u.clean (u.flat pc) = true →
    let w : IWord := BitVec.ofNat 32 (littleEndian u.mem.byte (u.flat pc) 4)
    decode w = .error m →
    ∃ t t', u.Traps t 2 (w.setWidth 64) ∧ step s = .next t' ∧ t'.mem = s.mem ∧ t'.wafer = s.wafer ∧ t'.dies = s.dies ∧
      (∀ n, n ≠ slot → t'.coreAt n = s.coreAt n) ∧ t'.core.t = t.core.t ∧ t'.core.c = t.core.c ∧ t'.core.r = t.core.r ∧
      t'.core.m = t.core.m ∧ t'.core.e = t.core.e ∧ t'.core.g = t.core.g ∧
      t'.core.h = { t.core.h with task := t'.core.h.task }

/-- R161, R166, R184, R247: an integer, jump, load, store or AMO form that names a pending register waits; where none is, its first
source that holds an error token, at the task's own privilege, raises cause 29 with the token (outside entries any token, inside
them any but the uncorrectable-data one), and a register that waits for a held command raises cause 49 (in a handler too: the model's
choice, entry 23; forms that write no destination read their sources all the same: entry 140).
R67, R97, R162 and the published rules: a form that its rule forbids to the hart as it is raises cause 2 with its bits and no other
effect (which standard CSRs the hart holds is the model's choice, entry 4). -/
def Obligations.RegistersStandGuard : Prop :=
  (∀ i s srcs dsts, scalarRegs i s = some (srcs, dsts) →
    let waits (r : XReg) : Bool := hasBit s.core.h.pend r && !hasBit s.core.h.hpend r
    let first : Option XReg := if s.core.atTask then srcs.find? fun r => hasBit s.core.h.mark r else none
    ((srcs ++ dsts).any waits = true → exec i s = .next s) ∧
    ((srcs ++ dsts).any waits = false →
      (∀ r, first = some r → (s.core.inEntry = false ∨ s.x r ≠ 0x8000000000000010) →
        ∃ t, exec i s = .next t ∧ s.Traps t 29 (s.x r)) ∧
      (first = none → ((srcs ++ dsts).any fun r => hasBit s.core.h.hpend r) = true →
        ∃ t w, exec i s = .next t ∧ encode i = some w ∧ s.Traps t 49 (w.setWidth 64)))) ∧
  ∀ i s, forbidden i s = true → ∃ t w, exec i s = .next t ∧ encode i = some w ∧ s.Traps t 2 (w.setWidth 64)

/-! ### Forms inside an open entry -/

/-- R39, R97, R98, R102, R104, R114, R183, R184, R259, R266, R276: inside an open entry a message form, task.spawn, task.join, a put, a
posted near-bank form or cluster AMO, and a copy, layout or DRAM command whose destination leaves the core, or any in a transaction,
waits in the hold buffer and the hart goes on: a request takes its credit, a claimed route and a put's reservation are spent, a
command's register is pending. A full buffer raises cause 27 with tval 1. A form that cannot wait raises cause 49 with its bits.
The rcv.end or txn.end that empties the stack releases what is held in issue order: messages enter their send queue, a full queue stops the
release, and a capability that fails drops its effect and raises cause 26 after the form has retired, with tval its address. (The
model's choices: a held spawn has copied its record, entry 127; the job of a handler's form, entry 125.) -/
def Obligations.FormsInAnOpenEntry : Prop :=
  (∀ i s srcs dsts, s.core.inEntry = true → misused i s = some (srcs, dsts) → s.free srcs dsts = true →
     ∃ t w, exec i s = .next t ∧ encode i = some w ∧ s.Traps t 49 (w.setWidth 64)) ∧
  (∀ s : State, s.core.inEntry = true →
    let kept (d : Core) : Prop := d.m = s.core.m ∧ d.q = s.core.q
    let scope (rl : Bool) (sc : BitVec 2) : Option (BitVec 2) := if rl then some sc else none
    let slotIn (w : Word) : Nat := slotOf (w.extractLsb' 0 8).toNat (w.extractLsb' 8 8).toNat
    (∀ rl sc a, s.free [a] [] = true → s.readsIn (s.x a) 32 4 1 = true →
      ∃ r, recordCopy s.core.jobOf (s.seenWords (s.x a) 4) false r ∧ s.HoldsForm (.taskSpawn rl sc a) (.spawn r rl sc) 0 kept) ∧
    (∀ a, s.free [a] [] = true → (s.x a).toNat % 32 = 0 → inWindow (s.x a) 32 = true →
      s.HoldsForm (.taskJoin a) (.join (s.x a) s.core.jobOf) 0 kept) ∧
    (∀ i rl sc a b long fwd, (i = .msgSend rl sc a b ∧ long = false ∧ fwd = false ∨ i = .msgSendl rl sc a b ∧ long = true ∧ fwd = false ∨
        i = .msgFwd rl sc a b ∧ long = true ∧ fwd = true) → s.free [a, b] [] = true → s.readsIn (s.x a) 32 4 1 = true →
      let w := s.seenWords (s.x a) 4
      let w0 := w.getD 0 0
      let w2 := w.getD 2 0
      let w3 := w.getD 3 0
      let n := if long then (w2.extractLsb' 52 11).toNat else 8
      w2.extractLsb' 50 2 = 0 → (fwd = false → w3.extractLsb' 50 14 = 0) →
      (long = true → 8 ≤ n ∧ n ≤ 1024 ∧ n % 8 = 0 ∧ s.readsIn (s.x b) 8 (n / 8) (n / 64 + 3) = true) →
      let prio : BitVec 2 := w2.extractLsb' 48 2
      let ask : Bool := !fwd && w3.extractLsb' 0 48 != 0
      let m (route : Option Route) : Send := {
        dst := slotIn w0, job := w0.extractLsb' 32 12, rl := scope rl sc,
        body := .msg {
          reply := false, job := w0.extractLsb' 32 12, code := w2.extractLsb' 0 48 &&& 0xFFFFFFFFFFFC, prio := prio,
          wid := w2.getLsbD 63, payload := (if long then s.seenWords (s.x b) (n / 8) else [s.x b]), top := false, route := route } }
      let cap : CapUse := { addr := s.x a, w0 := w0, w1 := w.getD 1 0, needs := if prio = 0 then 3 else 1 }
      (fwd = false → (ask = true → s.core.m.credits < frameReply s.core.g) →
        let own : Route := { origin := s.cur, rcode := w3.extractLsb' 0 48 &&& 0xFFFFFFFFFFFC, rprio := w3.extractLsb' 48 2,
                             job := s.core.jobOf, top := s.core.g.top }
        s.HoldsForm i (.send 0 (m (if ask then some own else none)) cap none) 0 fun d =>
          d.q = s.core.q ∧ d.m = { s.core.m with credits := s.core.m.credits + if ask then 1 else 0 }) ∧
      (fwd = true → s.core.routeOf = none → ∃ t, exec i s = .next t ∧ s.Traps t 26 0) ∧
      ∀ j r, fwd = true → s.core.routeOf = some (j, r) →
        s.HoldsForm i (.send 0 (m (some r)) cap (some (j, r))) 0 fun d =>
          d.q = s.core.q ∧ d.m = { s.core.m with routes := d.m.routes } ∧ FMap.get none d.m.routes j = none) ∧
    (∀ rl sc a b j r, s.free [a, b] [] = true → s.core.routeOf = some (j, r) →
      let n := (s.x b).toNat
      n ≤ 1024 → n % 8 = 0 → inWindow (s.x a) 1 = true → s.readsIn (s.x a) 8 (n / 8) (n / 64 + 2) = true →
      s.HoldsForm (.msgReply rl sc a b) (.send 1 {
          dst := r.origin, job := r.job, rl := scope rl sc,
          body := .msg { reply := true, job := r.job, code := r.rcode, prio := r.rprio, wid := false,
                         payload := s.seenWords (s.x a) (n / 8), top := false } }
        { addr := 0, w0 := 0, w1 := 0, needs := 0, checked := false } (some (j, r))) 0 fun d =>
          d.q = s.core.q ∧ d.m = { s.core.m with routes := d.m.routes } ∧ FMap.get none d.m.routes j = none) ∧
    (∀ i a srcs rl sc done words n k e, putOperands i s = some (a, srcs, rl, sc, done, words) → s.free srcs [] = true →
      s.putTarget (s.x a) = some (n, k, e) →
      s.HoldsForm i (.put { edge := k, seq := 0, payload := (List.range (e.bytes / 8)).map fun j => words.getD j 0, top := false,
                            done := done } (if e.rel then some 3 else scope rl sc)) 0 fun d =>
        d.m = s.core.m ∧ d.q = { s.core.q with actors := d.q.actors } ∧
        ∀ j, d.actor j = if j = n then { s.core.actor n with resv := (s.core.actor n).resv &&& ~~~(1#8 <<< e.se) } else s.core.actor j) ∧
    (∀ i form dbl o a b cl off, nbScalar i = some (form, dbl, o, 0, a, b) → form ≠ .cas → s.free [a, b] [0] = true →
      (s.x a).toNat % (if form = .addf then 64 else if dbl then 8 else 4) = 0 → s.nbPlace (s.x a) = some (cl, off) →
      s.HoldsForm i (.nb { form := form, dbl := dbl, cluster := cl, off := off, addr := s.x a, b := s.x b, cmp := s.x 0, slot := s.cur,
                           job := s.core.jobOf, fetch := false, rd := 0, ord := o }) 0 kept) ∧
    (∀ i sel dbl o a b cl off, nbLine i = some (sel, dbl, o, a, b) → s.free [a, b] [] = true → (s.x a).toNat % 64 = 0 →
      s.nbPlace (s.x a) = some (cl, off) → s.readsIn (s.x b) 64 8 1 = true →
      s.HoldsForm i (.nb { form := .vop sel, dbl := dbl, cluster := cl, off := off, addr := s.x a, b := 0,
                           line := s.seenWords (s.x b) 8, slot := s.cur, job := s.core.jobOf, fetch := false, ord := o }) 0 kept) ∧
    (∀ i a b n, amoForm i = some (0, a, b, n) → s.free [a, b] [0] = true → (s.x a).toNat % n = 0 → 0x1000000 ≤ (s.x a).toNat →
      (s.x a).toNat < 0x2000000 →
      s.HoldsForm i (.nb { form := amoNb i, dbl := n == 8, cluster := slotCluster s.cur, off := (s.x a).toNat - 0x1000000,
                           addr := s.x a, b := s.x b, slot := s.cur, job := s.core.jobOf, fetch := false, rd := 0, ord := amoOrd i })
        0 kept) ∧
    (∀ i form rd a b o, copyForm i = some (form, rd, a, b, o) → s.free [a, b] [rd] = true →
      let len := (s.core.eng 0x20).toNat
      let stays : Prop := form ≠ .scat ∧ ∀ r, r < (s.core.eng 0x21).toNat → len ≠ 0 →
        let d : Int := (s.x b).toNat + r * (stepOf (s.core.eng 0x23)).toInt
        0 ≤ d ∧ d + len ≤ spSize
      ((s.core.inTxn = true ∨ ¬ stays) → ∃ c, s.HoldsForm i (.cp c) rd kept ∧ c.form = form ∧ c.src = s.x a ∧ c.dst = s.x b ∧
        c.rd = rd ∧ c.ord = o ∧ c.job = s.core.jobOf ∧ c.serial = s.core.serialOf ∧ c.len = len ∧
        c.rows = (s.core.eng 0x21).toNat ∧ c.spitch = stepOf (s.core.eng 0x22) ∧ c.dpitch = stepOf (s.core.eng 0x23)) ∧
      (s.core.inTxn = false → stays → s.core.e.cpq.length < 4 →
        ∃ t c, exec i s = .next t ∧ s.IssuesToken t rd ∧ t.core.r = s.core.r ∧ t.core.e.cpq = s.core.e.cpq ++ [c] ∧ c.rd = rd)) ∧
    (∀ o rd a b, s.free [a, b] [rd] = true → s.readsIn (s.x a) 64 8 2 = true → s.readsIn (s.x b) 64 8 2 = true →
      let sv := littleEndian s.seen (s.flat (s.x a)) 64
      let dv := littleEndian s.seen (s.flat (s.x b)) 64
      (∀ n, ¬ layFails sv dv (s.core.eng 0x40) n) →
      (s.core.inTxn = true ∨ (spSize ≤ dv % 2 ^ 64 ∧ ∀ d, d < recRank dv → recExt dv d ≠ 0)) →
      ∃ c, s.HoldsForm (.layGo o rd a b) (.lay c) rd kept ∧ c.src.Of sv ∧ c.dst.Of dv ∧ c.dmw = s.core.eng 0x40 ∧ c.rd = rd ∧ c.ord = o) ∧
    ∀ i srcs rd o vec far near, dramForms i s = some (srcs, rd, o, vec, far, near) → s.free srcs [rd] = true →
      let ctl := (s.core.eng 0x51).toNat
      let len := (s.core.eng 0x50).toNat
      let op := if vec then ctl % 2 else if ctl % 16 = 15 then 0 else ctl % 16
      let n := if vec then ctl / 256 % 8 + 1 else 1
      let stays : Prop := op = 0 ∧ ∀ k, k < n → (near k).toNat + len ≤ spSize
      op < 2 → (∀ k, k < n → (near k).toNat % 8 = 0 ∧ (far k).toNat % 8 = 0 ∧ inWindow (near k) (max 1 len) = true) →
      ((s.core.inTxn = true ∨ ¬ stays) → ∃ c, s.HoldsForm i (.dram c) rd kept ∧ c.vec = vec ∧ c.op = op ∧ c.len = len ∧
        c.rows = (List.range n).map (fun k => (far k, near k)) ∧ c.rd = rd ∧ c.ord = o) ∧
      (s.core.inTxn = false → stays → s.core.e.drq.length < 8 →
        ∃ t c, exec i s = .next t ∧ s.IssuesToken t rd ∧ t.core.r = s.core.r ∧ t.core.e.drq = s.core.e.drq ++ [c] ∧ c.rd = rd)) ∧
  (∀ (s : State) e (l : List (Msg × Nat × CapUse)), s.core.r.stack = [e] → s.core.r.closing = false → s.core.r.owed = none →
    (e.txn = true → s.core.e.sb = [] ∧ s.core.r.doomed = false ∧ s.core.r.wset = []) → (s.core.sendq 0).length ≤ 16 →
    (∀ p ∈ l, p.2.2.checked = true → s.capFault s.core.jobOf p.2.2.w0 p.2.2.w1 p.2.2.needs = 0) →
    (s.core.r.hold = l.map fun p =>
      { op := .send 0 { dst := p.2.1, job := p.1.job, rl := none, body := .msg p.1 } p.2.2 none, depth := 1 }) →
    let now (r : Route) : Route := { r with top := s.core.g.top }
    let sent (n : Nat) : List Send := (l.take n).map fun p =>
      { dst := p.2.1, job := p.1.job, rl := none, body := .msg { p.1 with top := s.core.g.top, route := p.1.route.map now } }
    ∃ t, exec (if e.txn then .txnEnd else .rcvEnd) s = .next t ∧ t.core.r.stack = [] ∧
      (l.length + (s.core.sendq 0).length ≤ 16 → t.core.sendq 0 = s.core.sendq 0 ++ sent l.length ∧ t.core.r.hold = [] ∧
        t.core.r.closing = false ∧ t.core.h.pc = s.core.h.pc + 4) ∧
      (16 < l.length + (s.core.sendq 0).length →
        let n := 16 - (s.core.sendq 0).length
        t.core.sendq 0 = s.core.sendq 0 ++ sent n ∧ t.core.r.hold.map Held.op = (s.core.r.hold.drop n).map Held.op ∧
        t.core.r.closing = true ∧ t.core.h.pc = s.core.h.pc)) ∧
  (∀ (s : State) e m cap, s.core.r.stack = [e] → e.txn = false → s.core.r.closing = false → s.core.r.owed = none →
    s.core.r.hold = [{ op := .send 0 m cap none, depth := 1 }] → cap.checked = true →
    s.capFault s.core.jobOf cap.w0 cap.w1 cap.needs ≠ 0 →
    ∃ (u t : State), exec .rcvEnd s = .next t ∧ u.core.h = { s.core.h with pc := s.core.h.pc + 4, hpend := u.core.h.hpend } ∧ u.core.r.stack = [] ∧ u.core.r.hold = [] ∧
      u.core.sendq 0 = s.core.sendq 0 ∧ u.Traps t 26 cap.addr) ∧
  ∀ (s : State) e x, s.core.r.stack = [e] → e.txn = false → s.core.r.closing = false → s.core.r.owed = none → s.core.r.hold = [x] →
    (∀ op, x.op = .nb op → s.formWaits op.ord op.remote = false → ∃ t, exec .rcvEnd s = .next t ∧ t.core.r.hold = [] ∧
      t.core.h.pc = s.core.h.pc + 4 ∧ t.core.e.sb = s.core.e.sb ++ [.nb op]) ∧
    (∀ c, x.op = .cp c →
      if s.core.e.cpq.length < 4 then ∃ t, exec .rcvEnd s = .next t ∧ t.core.r.hold = [] ∧ t.core.h.pc = s.core.h.pc + 4 ∧
        hasBit t.core.h.hpend x.rd = false ∧ t.core.e.cpq = s.core.e.cpq ++ [{ c with seq := s.core.e.issued }]
      else ∃ t, exec .rcvEnd s = .next t ∧ t.core.r.hold = [x] ∧ t.core.r.closing = true ∧ t.core.h.pc = s.core.h.pc) ∧
    ∀ c, x.op = .dram c →
      if s.core.e.drq.length < 8 then ∃ t, exec .rcvEnd s = .next t ∧ t.core.r.hold = [] ∧ t.core.h.pc = s.core.h.pc + 4 ∧
        hasBit t.core.h.hpend x.rd = false ∧ t.core.e.drq = s.core.e.drq ++ [{ c with seq := s.core.e.issued }]
      else ∃ t, exec .rcvEnd s = .next t ∧ t.core.r.hold = [x] ∧ t.core.r.closing = true ∧ t.core.h.pc = s.core.h.pc

/-! ### Encodings -/

/-- R66 to R95: the word of every well-formed instruction decodes to that instruction, with every operand; and a word decodes to
well-formed instructions that have a word alone. -/
def Obligations.DecodeOfEncode : Prop :=
  (∀ i w, i.wf = true → encode i = some w → decode w = .ok i) ∧
  ∀ w i, decode w = .ok i → i.wf = true ∧ (encode i).isSome = true

/-- R69, R72 to R75, R77 to R82 and the worked encodings of file 03: words written out from the tables decode to the instructions
that they stand for, and words with a reserved bit or field decode to nothing. -/
def Obligations.DecodeOfWords : Prop :=
  decode 0x12B6452B = .ok (.nbAddD { aq := false, rl := true, scope := 2 } 10 12 11) ∧
  decode 0x0000000B = .ok .taskEnd ∧
  decode 0x8020A1DB = .ok (.vadd 2 2 3 1 2) ∧ decode 0xC020A1DB = .ok (.vadd 3 2 3 1 2) ∧
  decode 0x062081FB = .ok (.vtenc 0 0 2 3 1) ∧
  decode 0b111111111111_01011_000_01010_0010011 = .ok (.addi 10 11 0xFFF) ∧
  decode 0b0000000_00011_00010_010_00100_0100011 = .ok (.sw 3 2 4) ∧
  decode 0b1_111111_00110_00101_001_1110_1_1100011 = .ok (.bne 5 6 0xFFE) ∧
  decode 0b00001_1_0_00111_00110_010_00101_0101111 = .ok (.amoswapW true false 5 6 7) ∧
  decode 0b100000000010_00101_001_00110_1110011 = .ok (.csrrw 6 0x802 5) ∧
  ∀ w ∈ ([0x862081FB, 0x066081FB, 0b101_00_0_0_00110_00101_010_00111_0001011, 0b000_00_0_0_00000_00001_000_00000_0001011,
      0b00_00000_00000_00001_000_00010_1111011, 0x00000010] : List IWord),
    ∃ m, decode w = .error m

/-! ### Invariants -/

/-- The canonical form of memory, by which equal memories are equal data, is kept by every step. -/
def Obligations.MemoryKeepsItsForm : Prop :=
  ∀ s t : State, s.mem.wf = true → step s = .next t → t.mem.wf = true

/-- R397, R398: while the wafer freezes, is frozen or is read out, every step leaves every hart, cluster, die and byte of memory,
and every packet on its way, as it stood, until it is thawed or a regulator fails (that every hart stops at once, where R397 allows
it some cycles more, is the model's choice, entry 69). -/
def Obligations.FrozenWaferStandsStill : Prop :=
  ∀ s0 s t : State, s0.StandsStill s → step s = .next t → s0.StandsStill t
end

