-- ==== Sys2Proof/Laws/FMap.lean ====
section
/-! SUPPORT. What the operations on finite maps do: reading after a write, and the canonical form. -/
namespace Sys2Proof.Machine

theorem FMap.find_drop_self {α : Type} (m : FMap α) (k : Nat) : FMap.find (FMap.drop m k) k = none := by
  induction m with
  | nil => rfl
  | cons p t ih =>
    obtain ⟨j, v⟩ := p
    by_cases h : j = k <;> simp [FMap.drop, FMap.find, h, ih]

theorem FMap.find_drop_other {α : Type} (m : FMap α) {k j : Nat} (h : j ≠ k) : FMap.find (FMap.drop m k) j = FMap.find m j := by
  induction m with
  | nil => rfl
  | cons p t ih =>
    obtain ⟨i, v⟩ := p
    by_cases hi : i = k
    · subst hi; simp [FMap.drop, FMap.find, ih, Ne.symm h]
    · by_cases hj : i = j
      · subst hj; simp [FMap.drop, FMap.find, hi]
      · simp [FMap.drop, FMap.find, hi, hj, ih]

theorem FMap.find_place_self {α : Type} (m : FMap α) (k : Nat) (v : α) (h : FMap.find m k = none) :
    FMap.find (FMap.place m k v) k = some v := by
  induction m with
  | nil => simp [FMap.place, FMap.find]
  | cons p t ih =>
    obtain ⟨j, u⟩ := p
    by_cases hj : j = k
    · simp [FMap.find, hj] at h
    · simp only [FMap.find, hj, if_false] at h
      by_cases hk : k < j <;> simp [FMap.place, FMap.find, hk, hj, ih h]

theorem FMap.find_place_other {α : Type} (m : FMap α) {k j : Nat} (v : α) (h : j ≠ k) :
    FMap.find (FMap.place m k v) j = FMap.find m j := by
  induction m with
  | nil => simp [FMap.place, FMap.find, Ne.symm h]
  | cons p t ih =>
    obtain ⟨i, u⟩ := p
    by_cases hi : i = j
    · subst hi; by_cases hk : k < i <;> simp [FMap.place, FMap.find, hk, Ne.symm h]
    · by_cases hk : k < i <;> simp [FMap.place, FMap.find, hk, hi, ih, Ne.symm h]

/-- A key that was written reads as what was written. -/
@[simp] theorem FMap.get_put_self {α : Type} [DecidableEq α] (d : α) (m : FMap α) (k : Nat) (v : α) :
    FMap.get d (FMap.put d m k v) k = v := by
  unfold FMap.get FMap.put
  split
  · simp [FMap.find_drop_self, *]
  · rw [FMap.find_place_self _ _ _ (FMap.find_drop_self m k)]; rfl

/-- A write leaves every other key alone. -/
theorem FMap.get_put_other {α : Type} [DecidableEq α] (d : α) (m : FMap α) {k j : Nat} (v : α) (h : j ≠ k) :
    FMap.get d (FMap.put d m k v) j = FMap.get d m j := by
  unfold FMap.get FMap.put
  split
  · rw [FMap.find_drop_other m h]
  · rw [FMap.find_place_other _ v h, FMap.find_drop_other m h]

theorem FMap.get_put {α : Type} [DecidableEq α] (d : α) (m : FMap α) (k j : Nat) (v : α) :
    FMap.get d (FMap.put d m k v) j = if j = k then v else FMap.get d m j := by
  by_cases h : j = k
  · subst h; simp
  · simp [h, FMap.get_put_other d m v h]

/-! ### The canonical form -/

/-- Every key of a map lies above a bound. -/
def FMap.above {α : Type} (m : FMap α) (b : Nat) : Bool := m.all fun p => decide (b < p.1)

theorem FMap.above_drop {α : Type} (m : FMap α) (k b : Nat) (h : FMap.above m b = true) : FMap.above (FMap.drop m k) b = true := by
  induction m with
  | nil => rfl
  | cons p t ih =>
    obtain ⟨j, v⟩ := p
    simp only [FMap.above, List.all_cons, Bool.and_eq_true] at h
    by_cases hj : j = k
    · simpa [FMap.drop, hj] using ih h.2
    · simp only [FMap.drop, hj, if_false, FMap.above, List.all_cons, Bool.and_eq_true]
      exact ⟨h.1, ih h.2⟩

theorem FMap.above_place {α : Type} (m : FMap α) (k b : Nat) (v : α) (hb : b < k) (h : FMap.above m b = true) :
    FMap.above (FMap.place m k v) b = true := by
  induction m with
  | nil => simp [FMap.place, FMap.above, hb]
  | cons p t ih =>
    obtain ⟨j, u⟩ := p
    simp only [FMap.above, List.all_cons, Bool.and_eq_true, decide_eq_true_eq] at h
    by_cases hk : k < j
    · simp only [FMap.place, hk, if_true, FMap.above, List.all_cons, Bool.and_eq_true, decide_eq_true_eq]
      exact ⟨hb, h.1, h.2⟩
    · simp only [FMap.place, hk, if_false, FMap.above, List.all_cons, Bool.and_eq_true, decide_eq_true_eq]
      exact ⟨h.1, ih h.2⟩

theorem FMap.wf_cons {α : Type} [DecidableEq α] (d : α) (j : Nat) (v : α) (t : FMap α) :
    FMap.wf d ((j, v) :: t) = true ↔ v ≠ d ∧ FMap.above t j = true ∧ FMap.wf d t = true := by
  simp [FMap.wf, FMap.above, and_assoc]

theorem FMap.wf_drop {α : Type} [DecidableEq α] (d : α) (m : FMap α) (k : Nat) (h : FMap.wf d m = true) :
    FMap.wf d (FMap.drop m k) = true := by
  induction m with
  | nil => rfl
  | cons p t ih =>
    obtain ⟨j, v⟩ := p
    rw [FMap.wf_cons] at h
    by_cases hj : j = k
    · simpa [FMap.drop, hj] using ih h.2.2
    · simp only [FMap.drop, hj, if_false]
      rw [FMap.wf_cons]
      exact ⟨h.1, FMap.above_drop t k j h.2.1, ih h.2.2⟩

theorem FMap.above_mono {α : Type} (m : FMap α) {a b : Nat} (hab : a < b) (h : FMap.above m b = true) : FMap.above m a = true := by
  simp only [FMap.above, List.all_eq_true, decide_eq_true_eq] at *
  intro p hp
  exact Nat.lt_trans hab (h p hp)

theorem FMap.wf_place {α : Type} [DecidableEq α] (d : α) (m : FMap α) (k : Nat) (v : α) (hv : v ≠ d)
    (hk : FMap.find m k = none) (h : FMap.wf d m = true) : FMap.wf d (FMap.place m k v) = true := by
  induction m with
  | nil => simp [FMap.place, FMap.wf, hv]
  | cons p t ih =>
    obtain ⟨j, u⟩ := p
    rw [FMap.wf_cons] at h
    by_cases hj : j = k
    · simp [FMap.find, hj] at hk
    · simp only [FMap.find, hj, if_false] at hk
      by_cases hlt : k < j
      · simp only [FMap.place, hlt, if_true]
        rw [FMap.wf_cons, FMap.wf_cons]
        refine ⟨hv, ?_, h⟩
        simp only [FMap.above, List.all_cons, Bool.and_eq_true, decide_eq_true_eq]
        exact ⟨hlt, FMap.above_mono t hlt h.2.1⟩
      · simp only [FMap.place, hlt, if_false]
        rw [FMap.wf_cons]
        exact ⟨h.1, FMap.above_place t k j v (by omega) h.2.1, ih hk h.2.2⟩

/-- A write keeps the canonical form. -/
theorem FMap.wf_put {α : Type} [DecidableEq α] (d : α) (m : FMap α) (k : Nat) (v : α) (h : FMap.wf d m = true) :
    FMap.wf d (FMap.put d m k v) = true := by
  unfold FMap.put
  split
  · exact FMap.wf_drop d m k h
  · exact FMap.wf_place d _ k v ‹_› (FMap.find_drop_self m k) (FMap.wf_drop d m k h)

end Sys2Proof.Machine
end

