-- ==== Sys2Proof/Laws/State.lean ====
section
/-! SUPPORT. What the updates of the state leave alone, field by field, and what they write. -/
namespace Sys2Proof.Machine

@[simp] theorem State.setCoreAt_clusters (s : State) (i : Nat) (c : Core) : (s.setCoreAt i c).clusters = s.clusters := rfl
@[simp] theorem State.setCoreAt_dies (s : State) (i : Nat) (c : Core) : (s.setCoreAt i c).dies = s.dies := rfl
@[simp] theorem State.setCoreAt_wafer (s : State) (i : Nat) (c : Core) : (s.setCoreAt i c).wafer = s.wafer := rfl
@[simp] theorem State.setCoreAt_module_ (s : State) (i : Nat) (c : Core) : (s.setCoreAt i c).module_ = s.module_ := rfl
@[simp] theorem State.setCoreAt_mem (s : State) (i : Nat) (c : Core) : (s.setCoreAt i c).mem = s.mem := rfl
@[simp] theorem State.setCoreAt_cur (s : State) (i : Nat) (c : Core) : (s.setCoreAt i c).cur = s.cur := rfl
@[simp] theorem State.setCoreAt_agenda (s : State) (i : Nat) (c : Core) : (s.setCoreAt i c).agenda = s.agenda := rfl
@[simp] theorem State.setCoreAt_sched (s : State) (i : Nat) (c : Core) : (s.setCoreAt i c).sched = s.sched := rfl
@[simp] theorem State.setCoreAt_lcs (s : State) (i : Nat) (c : Core) : (s.setCoreAt i c).lcs = s.lcs := rfl
@[simp] theorem State.setCoreAt_crc (s : State) (i : Nat) (c : Core) : (s.setCoreAt i c).crc = s.crc := rfl
@[simp] theorem State.setCoreAt_flits (s : State) (i : Nat) (c : Core) : (s.setCoreAt i c).flits = s.flits := rfl
@[simp] theorem State.setCoreAt_order (s : State) (i : Nat) (c : Core) : (s.setCoreAt i c).order = s.order := rfl
@[simp] theorem State.setCoreAt_upsets (s : State) (i : Nat) (c : Core) : (s.setCoreAt i c).upsets = s.upsets := rfl
@[simp] theorem State.setCoreAt_fresh (s : State) (i : Nat) (c : Core) : (s.setCoreAt i c).fresh = s.fresh := rfl
@[simp] theorem State.setCoreAt_arg (s : State) (i : Nat) (c : Core) : (s.setCoreAt i c).arg = s.arg := rfl

@[simp] theorem State.mapCoreAt_clusters (s : State) (i : Nat) (f : Core → Core) : (s.mapCoreAt i f).clusters = s.clusters := rfl
@[simp] theorem State.mapCoreAt_dies (s : State) (i : Nat) (f : Core → Core) : (s.mapCoreAt i f).dies = s.dies := rfl
@[simp] theorem State.mapCoreAt_wafer (s : State) (i : Nat) (f : Core → Core) : (s.mapCoreAt i f).wafer = s.wafer := rfl
@[simp] theorem State.mapCoreAt_module_ (s : State) (i : Nat) (f : Core → Core) : (s.mapCoreAt i f).module_ = s.module_ := rfl
@[simp] theorem State.mapCoreAt_mem (s : State) (i : Nat) (f : Core → Core) : (s.mapCoreAt i f).mem = s.mem := rfl
@[simp] theorem State.mapCoreAt_cur (s : State) (i : Nat) (f : Core → Core) : (s.mapCoreAt i f).cur = s.cur := rfl
@[simp] theorem State.mapCoreAt_agenda (s : State) (i : Nat) (f : Core → Core) : (s.mapCoreAt i f).agenda = s.agenda := rfl
@[simp] theorem State.mapCoreAt_sched (s : State) (i : Nat) (f : Core → Core) : (s.mapCoreAt i f).sched = s.sched := rfl
@[simp] theorem State.mapCoreAt_lcs (s : State) (i : Nat) (f : Core → Core) : (s.mapCoreAt i f).lcs = s.lcs := rfl
@[simp] theorem State.mapCoreAt_crc (s : State) (i : Nat) (f : Core → Core) : (s.mapCoreAt i f).crc = s.crc := rfl
@[simp] theorem State.mapCoreAt_flits (s : State) (i : Nat) (f : Core → Core) : (s.mapCoreAt i f).flits = s.flits := rfl
@[simp] theorem State.mapCoreAt_order (s : State) (i : Nat) (f : Core → Core) : (s.mapCoreAt i f).order = s.order := rfl
@[simp] theorem State.mapCoreAt_upsets (s : State) (i : Nat) (f : Core → Core) : (s.mapCoreAt i f).upsets = s.upsets := rfl
@[simp] theorem State.mapCoreAt_fresh (s : State) (i : Nat) (f : Core → Core) : (s.mapCoreAt i f).fresh = s.fresh := rfl
@[simp] theorem State.mapCoreAt_arg (s : State) (i : Nat) (f : Core → Core) : (s.mapCoreAt i f).arg = s.arg := rfl

@[simp] theorem State.mapCore_clusters (s : State) (f : Core → Core) : (s.mapCore f).clusters = s.clusters := rfl
@[simp] theorem State.mapCore_dies (s : State) (f : Core → Core) : (s.mapCore f).dies = s.dies := rfl
@[simp] theorem State.mapCore_wafer (s : State) (f : Core → Core) : (s.mapCore f).wafer = s.wafer := rfl
@[simp] theorem State.mapCore_module_ (s : State) (f : Core → Core) : (s.mapCore f).module_ = s.module_ := rfl
@[simp] theorem State.mapCore_mem (s : State) (f : Core → Core) : (s.mapCore f).mem = s.mem := rfl
@[simp] theorem State.mapCore_cur (s : State) (f : Core → Core) : (s.mapCore f).cur = s.cur := rfl
@[simp] theorem State.mapCore_agenda (s : State) (f : Core → Core) : (s.mapCore f).agenda = s.agenda := rfl
@[simp] theorem State.mapCore_sched (s : State) (f : Core → Core) : (s.mapCore f).sched = s.sched := rfl
@[simp] theorem State.mapCore_lcs (s : State) (f : Core → Core) : (s.mapCore f).lcs = s.lcs := rfl
@[simp] theorem State.mapCore_crc (s : State) (f : Core → Core) : (s.mapCore f).crc = s.crc := rfl
@[simp] theorem State.mapCore_flits (s : State) (f : Core → Core) : (s.mapCore f).flits = s.flits := rfl
@[simp] theorem State.mapCore_order (s : State) (f : Core → Core) : (s.mapCore f).order = s.order := rfl
@[simp] theorem State.mapCore_upsets (s : State) (f : Core → Core) : (s.mapCore f).upsets = s.upsets := rfl
@[simp] theorem State.mapCore_fresh (s : State) (f : Core → Core) : (s.mapCore f).fresh = s.fresh := rfl
@[simp] theorem State.mapCore_arg (s : State) (f : Core → Core) : (s.mapCore f).arg = s.arg := rfl

@[simp] theorem State.mapHart_clusters (s : State) (f : Hart → Hart) : (s.mapHart f).clusters = s.clusters := rfl
@[simp] theorem State.mapHart_dies (s : State) (f : Hart → Hart) : (s.mapHart f).dies = s.dies := rfl
@[simp] theorem State.mapHart_wafer (s : State) (f : Hart → Hart) : (s.mapHart f).wafer = s.wafer := rfl
@[simp] theorem State.mapHart_module_ (s : State) (f : Hart → Hart) : (s.mapHart f).module_ = s.module_ := rfl
@[simp] theorem State.mapHart_mem (s : State) (f : Hart → Hart) : (s.mapHart f).mem = s.mem := rfl
@[simp] theorem State.mapHart_cur (s : State) (f : Hart → Hart) : (s.mapHart f).cur = s.cur := rfl
@[simp] theorem State.mapHart_agenda (s : State) (f : Hart → Hart) : (s.mapHart f).agenda = s.agenda := rfl
@[simp] theorem State.mapHart_sched (s : State) (f : Hart → Hart) : (s.mapHart f).sched = s.sched := rfl
@[simp] theorem State.mapHart_lcs (s : State) (f : Hart → Hart) : (s.mapHart f).lcs = s.lcs := rfl
@[simp] theorem State.mapHart_crc (s : State) (f : Hart → Hart) : (s.mapHart f).crc = s.crc := rfl
@[simp] theorem State.mapHart_flits (s : State) (f : Hart → Hart) : (s.mapHart f).flits = s.flits := rfl
@[simp] theorem State.mapHart_order (s : State) (f : Hart → Hart) : (s.mapHart f).order = s.order := rfl
@[simp] theorem State.mapHart_upsets (s : State) (f : Hart → Hart) : (s.mapHart f).upsets = s.upsets := rfl
@[simp] theorem State.mapHart_fresh (s : State) (f : Hart → Hart) : (s.mapHart f).fresh = s.fresh := rfl
@[simp] theorem State.mapHart_arg (s : State) (f : Hart → Hart) : (s.mapHart f).arg = s.arg := rfl

@[simp] theorem State.writeX_clusters (s : State) (r : XReg) (v : Word) : (s.writeX r v).clusters = s.clusters := rfl
@[simp] theorem State.writeX_dies (s : State) (r : XReg) (v : Word) : (s.writeX r v).dies = s.dies := rfl
@[simp] theorem State.writeX_wafer (s : State) (r : XReg) (v : Word) : (s.writeX r v).wafer = s.wafer := rfl
@[simp] theorem State.writeX_module_ (s : State) (r : XReg) (v : Word) : (s.writeX r v).module_ = s.module_ := rfl
@[simp] theorem State.writeX_mem (s : State) (r : XReg) (v : Word) : (s.writeX r v).mem = s.mem := rfl
@[simp] theorem State.writeX_cur (s : State) (r : XReg) (v : Word) : (s.writeX r v).cur = s.cur := rfl
@[simp] theorem State.writeX_agenda (s : State) (r : XReg) (v : Word) : (s.writeX r v).agenda = s.agenda := rfl
@[simp] theorem State.writeX_sched (s : State) (r : XReg) (v : Word) : (s.writeX r v).sched = s.sched := rfl
@[simp] theorem State.writeX_lcs (s : State) (r : XReg) (v : Word) : (s.writeX r v).lcs = s.lcs := rfl
@[simp] theorem State.writeX_crc (s : State) (r : XReg) (v : Word) : (s.writeX r v).crc = s.crc := rfl
@[simp] theorem State.writeX_flits (s : State) (r : XReg) (v : Word) : (s.writeX r v).flits = s.flits := rfl
@[simp] theorem State.writeX_order (s : State) (r : XReg) (v : Word) : (s.writeX r v).order = s.order := rfl
@[simp] theorem State.writeX_upsets (s : State) (r : XReg) (v : Word) : (s.writeX r v).upsets = s.upsets := rfl
@[simp] theorem State.writeX_fresh (s : State) (r : XReg) (v : Word) : (s.writeX r v).fresh = s.fresh := rfl
@[simp] theorem State.writeX_arg (s : State) (r : XReg) (v : Word) : (s.writeX r v).arg = s.arg := rfl

@[simp] theorem State.retireTo_clusters (s : State) (pc : Word) : (s.retireTo pc).clusters = s.clusters := rfl
@[simp] theorem State.retireTo_dies (s : State) (pc : Word) : (s.retireTo pc).dies = s.dies := rfl
@[simp] theorem State.retireTo_wafer (s : State) (pc : Word) : (s.retireTo pc).wafer = s.wafer := rfl
@[simp] theorem State.retireTo_module_ (s : State) (pc : Word) : (s.retireTo pc).module_ = s.module_ := rfl
@[simp] theorem State.retireTo_mem (s : State) (pc : Word) : (s.retireTo pc).mem = s.mem := rfl
@[simp] theorem State.retireTo_cur (s : State) (pc : Word) : (s.retireTo pc).cur = s.cur := rfl
@[simp] theorem State.retireTo_agenda (s : State) (pc : Word) : (s.retireTo pc).agenda = s.agenda := rfl
@[simp] theorem State.retireTo_sched (s : State) (pc : Word) : (s.retireTo pc).sched = s.sched := rfl
@[simp] theorem State.retireTo_lcs (s : State) (pc : Word) : (s.retireTo pc).lcs = s.lcs := rfl
@[simp] theorem State.retireTo_crc (s : State) (pc : Word) : (s.retireTo pc).crc = s.crc := rfl
@[simp] theorem State.retireTo_flits (s : State) (pc : Word) : (s.retireTo pc).flits = s.flits := rfl
@[simp] theorem State.retireTo_order (s : State) (pc : Word) : (s.retireTo pc).order = s.order := rfl
@[simp] theorem State.retireTo_upsets (s : State) (pc : Word) : (s.retireTo pc).upsets = s.upsets := rfl
@[simp] theorem State.retireTo_fresh (s : State) (pc : Word) : (s.retireTo pc).fresh = s.fresh := rfl
@[simp] theorem State.retireTo_arg (s : State) (pc : Word) : (s.retireTo pc).arg = s.arg := rfl

@[simp] theorem State.retire_clusters (s : State) : (s.retire).clusters = s.clusters := rfl
@[simp] theorem State.retire_dies (s : State) : (s.retire).dies = s.dies := rfl
@[simp] theorem State.retire_wafer (s : State) : (s.retire).wafer = s.wafer := rfl
@[simp] theorem State.retire_module_ (s : State) : (s.retire).module_ = s.module_ := rfl
@[simp] theorem State.retire_mem (s : State) : (s.retire).mem = s.mem := rfl
@[simp] theorem State.retire_cur (s : State) : (s.retire).cur = s.cur := rfl
@[simp] theorem State.retire_agenda (s : State) : (s.retire).agenda = s.agenda := rfl
@[simp] theorem State.retire_sched (s : State) : (s.retire).sched = s.sched := rfl
@[simp] theorem State.retire_lcs (s : State) : (s.retire).lcs = s.lcs := rfl
@[simp] theorem State.retire_crc (s : State) : (s.retire).crc = s.crc := rfl
@[simp] theorem State.retire_flits (s : State) : (s.retire).flits = s.flits := rfl
@[simp] theorem State.retire_order (s : State) : (s.retire).order = s.order := rfl
@[simp] theorem State.retire_upsets (s : State) : (s.retire).upsets = s.upsets := rfl
@[simp] theorem State.retire_fresh (s : State) : (s.retire).fresh = s.fresh := rfl
@[simp] theorem State.retire_arg (s : State) : (s.retire).arg = s.arg := rfl

@[simp] theorem State.trapAt_clusters (s : State) (code : Nat) (tval epc : Word) : (s.trapAt code tval epc).clusters = s.clusters := rfl
@[simp] theorem State.trapAt_dies (s : State) (code : Nat) (tval epc : Word) : (s.trapAt code tval epc).dies = s.dies := rfl
@[simp] theorem State.trapAt_wafer (s : State) (code : Nat) (tval epc : Word) : (s.trapAt code tval epc).wafer = s.wafer := rfl
@[simp] theorem State.trapAt_module_ (s : State) (code : Nat) (tval epc : Word) : (s.trapAt code tval epc).module_ = s.module_ := rfl
@[simp] theorem State.trapAt_mem (s : State) (code : Nat) (tval epc : Word) : (s.trapAt code tval epc).mem = s.mem := rfl
@[simp] theorem State.trapAt_cur (s : State) (code : Nat) (tval epc : Word) : (s.trapAt code tval epc).cur = s.cur := rfl
@[simp] theorem State.trapAt_agenda (s : State) (code : Nat) (tval epc : Word) : (s.trapAt code tval epc).agenda = s.agenda := rfl
@[simp] theorem State.trapAt_sched (s : State) (code : Nat) (tval epc : Word) : (s.trapAt code tval epc).sched = s.sched := rfl
@[simp] theorem State.trapAt_lcs (s : State) (code : Nat) (tval epc : Word) : (s.trapAt code tval epc).lcs = s.lcs := rfl
@[simp] theorem State.trapAt_crc (s : State) (code : Nat) (tval epc : Word) : (s.trapAt code tval epc).crc = s.crc := rfl
@[simp] theorem State.trapAt_flits (s : State) (code : Nat) (tval epc : Word) : (s.trapAt code tval epc).flits = s.flits := rfl
@[simp] theorem State.trapAt_order (s : State) (code : Nat) (tval epc : Word) : (s.trapAt code tval epc).order = s.order := rfl
@[simp] theorem State.trapAt_upsets (s : State) (code : Nat) (tval epc : Word) : (s.trapAt code tval epc).upsets = s.upsets := rfl
@[simp] theorem State.trapAt_fresh (s : State) (code : Nat) (tval epc : Word) : (s.trapAt code tval epc).fresh = s.fresh := rfl
@[simp] theorem State.trapAt_arg (s : State) (code : Nat) (tval epc : Word) : (s.trapAt code tval epc).arg = s.arg := rfl

@[simp] theorem State.trap_clusters (s : State) (code : Nat) (tval : Word) : (s.trap code tval).clusters = s.clusters := rfl
@[simp] theorem State.trap_dies (s : State) (code : Nat) (tval : Word) : (s.trap code tval).dies = s.dies := rfl
@[simp] theorem State.trap_wafer (s : State) (code : Nat) (tval : Word) : (s.trap code tval).wafer = s.wafer := rfl
@[simp] theorem State.trap_module_ (s : State) (code : Nat) (tval : Word) : (s.trap code tval).module_ = s.module_ := rfl
@[simp] theorem State.trap_mem (s : State) (code : Nat) (tval : Word) : (s.trap code tval).mem = s.mem := rfl
@[simp] theorem State.trap_cur (s : State) (code : Nat) (tval : Word) : (s.trap code tval).cur = s.cur := rfl
@[simp] theorem State.trap_agenda (s : State) (code : Nat) (tval : Word) : (s.trap code tval).agenda = s.agenda := rfl
@[simp] theorem State.trap_sched (s : State) (code : Nat) (tval : Word) : (s.trap code tval).sched = s.sched := rfl
@[simp] theorem State.trap_lcs (s : State) (code : Nat) (tval : Word) : (s.trap code tval).lcs = s.lcs := rfl
@[simp] theorem State.trap_crc (s : State) (code : Nat) (tval : Word) : (s.trap code tval).crc = s.crc := rfl
@[simp] theorem State.trap_flits (s : State) (code : Nat) (tval : Word) : (s.trap code tval).flits = s.flits := rfl
@[simp] theorem State.trap_order (s : State) (code : Nat) (tval : Word) : (s.trap code tval).order = s.order := rfl
@[simp] theorem State.trap_upsets (s : State) (code : Nat) (tval : Word) : (s.trap code tval).upsets = s.upsets := rfl
@[simp] theorem State.trap_fresh (s : State) (code : Nat) (tval : Word) : (s.trap code tval).fresh = s.fresh := rfl
@[simp] theorem State.trap_arg (s : State) (code : Nat) (tval : Word) : (s.trap code tval).arg = s.arg := rfl

@[simp] theorem State.mapClusterAt_cores (s : State) (i : Nat) (f : Cluster → Cluster) : (s.mapClusterAt i f).cores = s.cores := rfl
@[simp] theorem State.mapClusterAt_dies (s : State) (i : Nat) (f : Cluster → Cluster) : (s.mapClusterAt i f).dies = s.dies := rfl
@[simp] theorem State.mapClusterAt_wafer (s : State) (i : Nat) (f : Cluster → Cluster) : (s.mapClusterAt i f).wafer = s.wafer := rfl
@[simp] theorem State.mapClusterAt_module_ (s : State) (i : Nat) (f : Cluster → Cluster) : (s.mapClusterAt i f).module_ = s.module_ := rfl
@[simp] theorem State.mapClusterAt_mem (s : State) (i : Nat) (f : Cluster → Cluster) : (s.mapClusterAt i f).mem = s.mem := rfl
@[simp] theorem State.mapClusterAt_cur (s : State) (i : Nat) (f : Cluster → Cluster) : (s.mapClusterAt i f).cur = s.cur := rfl
@[simp] theorem State.mapClusterAt_agenda (s : State) (i : Nat) (f : Cluster → Cluster) : (s.mapClusterAt i f).agenda = s.agenda := rfl
@[simp] theorem State.mapClusterAt_sched (s : State) (i : Nat) (f : Cluster → Cluster) : (s.mapClusterAt i f).sched = s.sched := rfl
@[simp] theorem State.mapClusterAt_lcs (s : State) (i : Nat) (f : Cluster → Cluster) : (s.mapClusterAt i f).lcs = s.lcs := rfl
@[simp] theorem State.mapClusterAt_crc (s : State) (i : Nat) (f : Cluster → Cluster) : (s.mapClusterAt i f).crc = s.crc := rfl
@[simp] theorem State.mapClusterAt_flits (s : State) (i : Nat) (f : Cluster → Cluster) : (s.mapClusterAt i f).flits = s.flits := rfl
@[simp] theorem State.mapClusterAt_order (s : State) (i : Nat) (f : Cluster → Cluster) : (s.mapClusterAt i f).order = s.order := rfl
@[simp] theorem State.mapClusterAt_upsets (s : State) (i : Nat) (f : Cluster → Cluster) : (s.mapClusterAt i f).upsets = s.upsets := rfl
@[simp] theorem State.mapClusterAt_fresh (s : State) (i : Nat) (f : Cluster → Cluster) : (s.mapClusterAt i f).fresh = s.fresh := rfl
@[simp] theorem State.mapClusterAt_arg (s : State) (i : Nat) (f : Cluster → Cluster) : (s.mapClusterAt i f).arg = s.arg := rfl

@[simp] theorem State.mapDieAt_cores (s : State) (i : Nat) (f : Die → Die) : (s.mapDieAt i f).cores = s.cores := rfl
@[simp] theorem State.mapDieAt_clusters (s : State) (i : Nat) (f : Die → Die) : (s.mapDieAt i f).clusters = s.clusters := rfl
@[simp] theorem State.mapDieAt_wafer (s : State) (i : Nat) (f : Die → Die) : (s.mapDieAt i f).wafer = s.wafer := rfl
@[simp] theorem State.mapDieAt_module_ (s : State) (i : Nat) (f : Die → Die) : (s.mapDieAt i f).module_ = s.module_ := rfl
@[simp] theorem State.mapDieAt_mem (s : State) (i : Nat) (f : Die → Die) : (s.mapDieAt i f).mem = s.mem := rfl
@[simp] theorem State.mapDieAt_cur (s : State) (i : Nat) (f : Die → Die) : (s.mapDieAt i f).cur = s.cur := rfl
@[simp] theorem State.mapDieAt_agenda (s : State) (i : Nat) (f : Die → Die) : (s.mapDieAt i f).agenda = s.agenda := rfl
@[simp] theorem State.mapDieAt_sched (s : State) (i : Nat) (f : Die → Die) : (s.mapDieAt i f).sched = s.sched := rfl
@[simp] theorem State.mapDieAt_lcs (s : State) (i : Nat) (f : Die → Die) : (s.mapDieAt i f).lcs = s.lcs := rfl
@[simp] theorem State.mapDieAt_crc (s : State) (i : Nat) (f : Die → Die) : (s.mapDieAt i f).crc = s.crc := rfl
@[simp] theorem State.mapDieAt_flits (s : State) (i : Nat) (f : Die → Die) : (s.mapDieAt i f).flits = s.flits := rfl
@[simp] theorem State.mapDieAt_order (s : State) (i : Nat) (f : Die → Die) : (s.mapDieAt i f).order = s.order := rfl
@[simp] theorem State.mapDieAt_upsets (s : State) (i : Nat) (f : Die → Die) : (s.mapDieAt i f).upsets = s.upsets := rfl
@[simp] theorem State.mapDieAt_fresh (s : State) (i : Nat) (f : Die → Die) : (s.mapDieAt i f).fresh = s.fresh := rfl
@[simp] theorem State.mapDieAt_arg (s : State) (i : Nat) (f : Die → Die) : (s.mapDieAt i f).arg = s.arg := rfl

@[simp] theorem State.mapWafer_cores (s : State) (f : Wafer → Wafer) : (s.mapWafer f).cores = s.cores := rfl
@[simp] theorem State.mapWafer_clusters (s : State) (f : Wafer → Wafer) : (s.mapWafer f).clusters = s.clusters := rfl
@[simp] theorem State.mapWafer_dies (s : State) (f : Wafer → Wafer) : (s.mapWafer f).dies = s.dies := rfl
@[simp] theorem State.mapWafer_module_ (s : State) (f : Wafer → Wafer) : (s.mapWafer f).module_ = s.module_ := rfl
@[simp] theorem State.mapWafer_mem (s : State) (f : Wafer → Wafer) : (s.mapWafer f).mem = s.mem := rfl
@[simp] theorem State.mapWafer_cur (s : State) (f : Wafer → Wafer) : (s.mapWafer f).cur = s.cur := rfl
@[simp] theorem State.mapWafer_agenda (s : State) (f : Wafer → Wafer) : (s.mapWafer f).agenda = s.agenda := rfl
@[simp] theorem State.mapWafer_sched (s : State) (f : Wafer → Wafer) : (s.mapWafer f).sched = s.sched := rfl
@[simp] theorem State.mapWafer_lcs (s : State) (f : Wafer → Wafer) : (s.mapWafer f).lcs = s.lcs := rfl
@[simp] theorem State.mapWafer_crc (s : State) (f : Wafer → Wafer) : (s.mapWafer f).crc = s.crc := rfl
@[simp] theorem State.mapWafer_flits (s : State) (f : Wafer → Wafer) : (s.mapWafer f).flits = s.flits := rfl
@[simp] theorem State.mapWafer_order (s : State) (f : Wafer → Wafer) : (s.mapWafer f).order = s.order := rfl
@[simp] theorem State.mapWafer_upsets (s : State) (f : Wafer → Wafer) : (s.mapWafer f).upsets = s.upsets := rfl
@[simp] theorem State.mapWafer_fresh (s : State) (f : Wafer → Wafer) : (s.mapWafer f).fresh = s.fresh := rfl
@[simp] theorem State.mapWafer_arg (s : State) (f : Wafer → Wafer) : (s.mapWafer f).arg = s.arg := rfl

@[simp] theorem State.mapMem_cores (s : State) (f : Mem → Mem) : (s.mapMem f).cores = s.cores := rfl
@[simp] theorem State.mapMem_clusters (s : State) (f : Mem → Mem) : (s.mapMem f).clusters = s.clusters := rfl
@[simp] theorem State.mapMem_dies (s : State) (f : Mem → Mem) : (s.mapMem f).dies = s.dies := rfl
@[simp] theorem State.mapMem_wafer (s : State) (f : Mem → Mem) : (s.mapMem f).wafer = s.wafer := rfl
@[simp] theorem State.mapMem_module_ (s : State) (f : Mem → Mem) : (s.mapMem f).module_ = s.module_ := rfl
@[simp] theorem State.mapMem_cur (s : State) (f : Mem → Mem) : (s.mapMem f).cur = s.cur := rfl
@[simp] theorem State.mapMem_agenda (s : State) (f : Mem → Mem) : (s.mapMem f).agenda = s.agenda := rfl
@[simp] theorem State.mapMem_sched (s : State) (f : Mem → Mem) : (s.mapMem f).sched = s.sched := rfl
@[simp] theorem State.mapMem_lcs (s : State) (f : Mem → Mem) : (s.mapMem f).lcs = s.lcs := rfl
@[simp] theorem State.mapMem_crc (s : State) (f : Mem → Mem) : (s.mapMem f).crc = s.crc := rfl
@[simp] theorem State.mapMem_flits (s : State) (f : Mem → Mem) : (s.mapMem f).flits = s.flits := rfl
@[simp] theorem State.mapMem_order (s : State) (f : Mem → Mem) : (s.mapMem f).order = s.order := rfl
@[simp] theorem State.mapMem_upsets (s : State) (f : Mem → Mem) : (s.mapMem f).upsets = s.upsets := rfl
@[simp] theorem State.mapMem_fresh (s : State) (f : Mem → Mem) : (s.mapMem f).fresh = s.fresh := rfl
@[simp] theorem State.mapMem_arg (s : State) (f : Mem → Mem) : (s.mapMem f).arg = s.arg := rfl

@[simp] theorem State.due_cores (s : State) (ev : Instr) (a : Arg) : (s.due ev a).cores = s.cores := rfl
@[simp] theorem State.due_clusters (s : State) (ev : Instr) (a : Arg) : (s.due ev a).clusters = s.clusters := rfl
@[simp] theorem State.due_dies (s : State) (ev : Instr) (a : Arg) : (s.due ev a).dies = s.dies := rfl
@[simp] theorem State.due_wafer (s : State) (ev : Instr) (a : Arg) : (s.due ev a).wafer = s.wafer := rfl
@[simp] theorem State.due_module_ (s : State) (ev : Instr) (a : Arg) : (s.due ev a).module_ = s.module_ := rfl
@[simp] theorem State.due_mem (s : State) (ev : Instr) (a : Arg) : (s.due ev a).mem = s.mem := rfl
@[simp] theorem State.due_cur (s : State) (ev : Instr) (a : Arg) : (s.due ev a).cur = s.cur := rfl
@[simp] theorem State.due_sched (s : State) (ev : Instr) (a : Arg) : (s.due ev a).sched = s.sched := rfl
@[simp] theorem State.due_lcs (s : State) (ev : Instr) (a : Arg) : (s.due ev a).lcs = s.lcs := rfl
@[simp] theorem State.due_crc (s : State) (ev : Instr) (a : Arg) : (s.due ev a).crc = s.crc := rfl
@[simp] theorem State.due_flits (s : State) (ev : Instr) (a : Arg) : (s.due ev a).flits = s.flits := rfl
@[simp] theorem State.due_order (s : State) (ev : Instr) (a : Arg) : (s.due ev a).order = s.order := rfl
@[simp] theorem State.due_upsets (s : State) (ev : Instr) (a : Arg) : (s.due ev a).upsets = s.upsets := rfl
@[simp] theorem State.due_fresh (s : State) (ev : Instr) (a : Arg) : (s.due ev a).fresh = s.fresh := rfl
@[simp] theorem State.due_arg (s : State) (ev : Instr) (a : Arg) : (s.due ev a).arg = s.arg := rfl

@[simp] theorem State.dueAt_cores (s : State) (ev : Instr) (p : Nat) : (s.dueAt ev p).cores = s.cores := rfl
@[simp] theorem State.dueAt_clusters (s : State) (ev : Instr) (p : Nat) : (s.dueAt ev p).clusters = s.clusters := rfl
@[simp] theorem State.dueAt_dies (s : State) (ev : Instr) (p : Nat) : (s.dueAt ev p).dies = s.dies := rfl
@[simp] theorem State.dueAt_wafer (s : State) (ev : Instr) (p : Nat) : (s.dueAt ev p).wafer = s.wafer := rfl
@[simp] theorem State.dueAt_module_ (s : State) (ev : Instr) (p : Nat) : (s.dueAt ev p).module_ = s.module_ := rfl
@[simp] theorem State.dueAt_mem (s : State) (ev : Instr) (p : Nat) : (s.dueAt ev p).mem = s.mem := rfl
@[simp] theorem State.dueAt_cur (s : State) (ev : Instr) (p : Nat) : (s.dueAt ev p).cur = s.cur := rfl
@[simp] theorem State.dueAt_sched (s : State) (ev : Instr) (p : Nat) : (s.dueAt ev p).sched = s.sched := rfl
@[simp] theorem State.dueAt_lcs (s : State) (ev : Instr) (p : Nat) : (s.dueAt ev p).lcs = s.lcs := rfl
@[simp] theorem State.dueAt_crc (s : State) (ev : Instr) (p : Nat) : (s.dueAt ev p).crc = s.crc := rfl
@[simp] theorem State.dueAt_flits (s : State) (ev : Instr) (p : Nat) : (s.dueAt ev p).flits = s.flits := rfl
@[simp] theorem State.dueAt_order (s : State) (ev : Instr) (p : Nat) : (s.dueAt ev p).order = s.order := rfl
@[simp] theorem State.dueAt_upsets (s : State) (ev : Instr) (p : Nat) : (s.dueAt ev p).upsets = s.upsets := rfl
@[simp] theorem State.dueAt_fresh (s : State) (ev : Instr) (p : Nat) : (s.dueAt ev p).fresh = s.fresh := rfl
@[simp] theorem State.dueAt_arg (s : State) (ev : Instr) (p : Nat) : (s.dueAt ev p).arg = s.arg := rfl

@[simp] theorem State.mapClusterAt_clusterAt (s : State) (i : Nat) (f : Cluster → Cluster) :
    (s.mapClusterAt i f).clusterAt i = f (s.clusterAt i) := by
  simp [State.mapClusterAt, State.clusterAt]
@[simp] theorem State.mapDieAt_dieAt (s : State) (i : Nat) (f : Die → Die) : (s.mapDieAt i f).dieAt i = f (s.dieAt i) := by
  simp [State.mapDieAt, State.dieAt]
@[simp] theorem State.mapWafer_wafer (s : State) (f : Wafer → Wafer) : (s.mapWafer f).wafer = f s.wafer := rfl
@[simp] theorem State.mapMem_mem (s : State) (f : Mem → Mem) : (s.mapMem f).mem = f s.mem := rfl
@[simp] theorem State.due_agenda (s : State) (ev : Instr) (a : Arg) : (s.due ev a).agenda = s.agenda ++ [{ ev := ev, arg := a }] := rfl
@[simp] theorem State.setCoreAt_coreAt (s : State) (i : Nat) (c : Core) : (s.setCoreAt i c).coreAt i = c := by
  simp [State.setCoreAt, State.coreAt]
@[simp] theorem State.mapCoreAt_coreAt (s : State) (i : Nat) (f : Core → Core) : (s.mapCoreAt i f).coreAt i = f (s.coreAt i) := by
  simp [State.mapCoreAt]
@[simp] theorem State.mapCore_core (s : State) (f : Core → Core) : (s.mapCore f).core = f s.core := by
  simp [State.mapCore, State.core]

/-- Updating one core leaves every other one alone. -/
theorem State.mapCoreAt_other (s : State) (i j : Nat) (f : Core → Core) (h : j ≠ i) :
    (s.mapCoreAt i f).coreAt j = s.coreAt j := by
  simp [State.mapCoreAt, State.setCoreAt, State.coreAt, FMap.get_put_other _ _ _ h]

theorem State.mapCore_other (s : State) (j : Nat) (f : Core → Core) (h : j ≠ s.cur) : (s.mapCore f).coreAt j = s.coreAt j :=
  s.mapCoreAt_other s.cur j f h

/-- Updating one die leaves every other one alone. -/
theorem State.mapDieAt_other (s : State) (i j : Nat) (f : Die → Die) (h : j ≠ i) : (s.mapDieAt i f).dieAt j = s.dieAt j := by
  simp [State.mapDieAt, State.dieAt, FMap.get_put_other _ _ _ h]

/-- Updating one cluster leaves every other one alone. -/
theorem State.mapClusterAt_other (s : State) (i j : Nat) (f : Cluster → Cluster) (h : j ≠ i) :
    (s.mapClusterAt i f).clusterAt j = s.clusterAt j := by
  simp [State.mapClusterAt, State.clusterAt, FMap.get_put_other _ _ _ h]

/-! ### What changes no core leaves every core -/

@[simp] theorem State.mapClusterAt_coreAt (s : State) (i j : Nat) (f : Cluster → Cluster) : (s.mapClusterAt i f).coreAt j = s.coreAt j := rfl
@[simp] theorem State.mapDieAt_coreAt (s : State) (i j : Nat) (f : Die → Die) : (s.mapDieAt i f).coreAt j = s.coreAt j := rfl
@[simp] theorem State.mapWafer_coreAt (s : State) (j : Nat) (f : Wafer → Wafer) : (s.mapWafer f).coreAt j = s.coreAt j := rfl
@[simp] theorem State.mapMem_coreAt (s : State) (j : Nat) (f : Mem → Mem) : (s.mapMem f).coreAt j = s.coreAt j := rfl
@[simp] theorem State.due_coreAt (s : State) (j : Nat) (ev : Instr) (a : Arg) : (s.due ev a).coreAt j = s.coreAt j := rfl
@[simp] theorem State.dueAt_coreAt (s : State) (j : Nat) (ev : Instr) (p : Nat) : (s.dueAt ev p).coreAt j = s.coreAt j := rfl

/-! ### Registers -/

theorem XReg.toNat_inj {a b : XReg} : a.toNat = b.toNat ↔ a = b := BitVec.toNat_inj

@[simp] theorem Hart.getX_zero (h : Hart) : h.getX 0 = 0 := rfl

/-- A register reads what was written to it; x0 reads as zero and discards writes (R16). -/
theorem Hart.getX_putX (h : Hart) (r q : XReg) (v : Word) :
    (h.putX r v).getX q = if q = 0 then 0 else if q = r then v else h.getX q := by
  unfold Hart.getX Hart.putX
  by_cases hq : q = 0
  · rw [if_pos hq, if_pos hq]
  · rw [if_neg hq, if_neg hq]
    by_cases hr : r = 0
    · rw [if_pos hr, if_neg (fun e => hq (e.trans hr))]
      exact (if_neg hq).symm
    · rw [if_neg hr]
      by_cases hqr : q = r
      · rw [if_pos hqr, hqr]; exact FMap.get_put_self ..
      · rw [if_neg hqr, if_neg hq]
        exact FMap.get_put_other _ _ _ fun e => hqr (BitVec.eq_of_toNat_eq e)

theorem Hart.getV_putV (h : Hart) (r q : VReg) (v : VWord) : (h.putV r v).getV q = if q = r then v else h.getV q := by
  unfold Hart.getV Hart.putV
  by_cases hqr : q = r
  · subst hqr; simp
  · have : q.toNat ≠ r.toNat := fun e => hqr (BitVec.eq_of_toNat_eq e)
    simp [hqr, FMap.get_put_other _ _ _ this]

theorem Hart.getK_putK (h : Hart) (r q : KReg) (v : Word) : (h.putK r v).getK q = if q = r then v else h.getK q := by
  unfold Hart.getK Hart.putK
  by_cases hqr : q = r
  · subst hqr; simp
  · have : q.toNat ≠ r.toNat := fun e => hqr (BitVec.eq_of_toNat_eq e)
    simp [hqr, FMap.get_put_other _ _ _ this]

/-! ### Writing a register -/

theorem Core.writeX_x (c : Core) (r q : XReg) (v : Word) :
    (c.writeX r v).h.getX q = if q = 0 then 0 else if q = r then v else c.h.getX q := by
  unfold Core.writeX
  by_cases hr : r = 0
  · rw [if_pos hr]
    by_cases hq : q = 0
    · rw [if_pos hq, hq]; rfl
    · rw [if_neg hq, if_neg fun e => hq (e.trans hr)]
  · rw [if_neg hr]
    exact Hart.getX_putX c.h r q v

/-- Every part of the core but x and mark stays. -/
theorem Core.writeX_frame (c : Core) (r : XReg) (v : Word) :
    c.writeX r v = { c with h := { c.h with x := (c.writeX r v).h.x, mark := (c.writeX r v).h.mark } } := by
  unfold Core.writeX Hart.putX
  split <;> rfl

/-! ### Retiring -/

/-- Retiring writes pc and counts; it leaves the rest of the core. -/
theorem Core.retired_frame (c : Core) :
    c.retired = { c with n.instret := c.retired.n.instret, u.prog := c.retired.u.prog, u.progSub := c.retired.u.progSub } := by
  unfold Core.retired
  split <;> simp only <;> split <;> (try split) <;> rfl

end Sys2Proof.Machine
end

