-- ==== Sys2Proof/Laws/Mem.lean ====
section
/-! SUPPORT. What the operations on memory do: the byte and the tag that a read gives after a write, and the canonical form, which
every one of them keeps. -/
namespace Sys2Proof.Machine

/-! ### A read after a write -/

theorem Mem.putByte_byte (m : Mem) (f g : Nat) (b : Byte) : (m.putByte f b).byte g = if g = f then b else m.byte g := by
  simp [Mem.putByte, Mem.byte, FMap.get_put]

@[simp] theorem Mem.putByte_tag (m : Mem) (f g : Nat) (b : Byte) : (m.putByte f b).tag g = m.tag g := rfl

@[simp] theorem Mem.putTag_byte (m : Mem) (f g : Nat) (t : MemTag) : (m.putTag f t).byte g = m.byte g := rfl

theorem Mem.putTag_tag (m : Mem) (f g : Nat) (t : MemTag) :
    (m.putTag f t).tag g = if wordAt g = wordAt f then t else m.tag g := by
  simp [Mem.putTag, Mem.tag, FMap.get_put]

@[simp] theorem Mem.putBytes_tag (m : Mem) (f g : Nat) (l : List Byte) : (m.putBytes f l).tag g = m.tag g := by
  induction l generalizing m f with
  | nil => rfl
  | cons b t ih => simp [Mem.putBytes, ih]

/-- A run of bytes reads back where it was written, and nothing else changes. -/
theorem Mem.putBytes_byte (m : Mem) (f g : Nat) (l : List Byte) :
    (m.putBytes f l).byte g = if f ≤ g ∧ g < f + l.length then l.getD (g - f) 0 else m.byte g := by
  induction l generalizing m f with
  | nil =>
    have : ¬ (f ≤ g ∧ g < f + ([] : List Byte).length) := by simp only [List.length_nil]; omega
    rw [if_neg this]; rfl
  | cons b t ih =>
    simp only [Mem.putBytes, ih, List.length_cons, Mem.putByte_byte]
    by_cases h0 : g = f
    · subst h0
      have h1 : ¬ (g + 1 ≤ g ∧ g < g + 1 + t.length) := by omega
      have h2 : g ≤ g ∧ g < g + (t.length + 1) := by omega
      rw [if_neg h1, if_pos h2, if_pos rfl]; simp
    · by_cases h1 : f + 1 ≤ g ∧ g < f + 1 + t.length
      · have h2 : f ≤ g ∧ g < f + (t.length + 1) := by omega
        rw [if_pos h1, if_pos h2]
        have : g - f = (g - (f + 1)) + 1 := by omega
        rw [this, List.getD_cons_succ]
      · have h2 : ¬ (f ≤ g ∧ g < f + (t.length + 1)) := by omega
        rw [if_neg h1, if_neg h2, if_neg h0]

theorem bytesOf_length (v n : Nat) : (bytesOf v n).length = n := by
  induction n generalizing v with
  | zero => rfl
  | succ k ih => simp [bytesOf, ih]

/-- Byte i of a number. -/
theorem bytesOf_getD (v n i : Nat) (h : i < n) : (bytesOf v n).getD i 0 = BitVec.ofNat 8 (v / 2 ^ (8 * i)) := by
  induction n generalizing v i with
  | zero => omega
  | succ k ih =>
    cases i with
    | zero => simp [bytesOf]
    | succ j =>
      simp only [bytesOf, List.getD_cons_succ]
      rw [ih (v / 256) j (by omega), Nat.div_div_eq_div_mul]
      congr 2
      rw [show (256 : Nat) = 2 ^ 8 from rfl, ← Nat.pow_add]
      congr 1; omega

/-- The bytes of a run, least significant first, as one number (R11). -/
theorem Mem.nat_littleEndian (m : Mem) (f n : Nat) : m.nat f n = littleEndian m.byte f n := by
  induction n generalizing f with
  | zero => rfl
  | succ k ih => simp [Mem.nat, littleEndian, ih]

/-- A word's bytes after it was written. -/
theorem Mem.putData_byte (m : Mem) (f g : Nat) (w : Word) :
    (m.putData f w).byte g = if f ≤ g ∧ g < f + 8 then BitVec.ofNat 8 (w.toNat / 2 ^ (8 * (g - f))) else m.byte g := by
  unfold Mem.putData
  rw [Mem.putBytes_byte, bytesOf_length]
  by_cases h : f ≤ g ∧ g < f + 8
  · rw [if_pos h, if_pos h, bytesOf_getD _ _ _ (by omega)]
  · rw [if_neg h, if_neg h]

@[simp] theorem Mem.putData_tag (m : Mem) (f g : Nat) (w : Word) : (m.putData f w).tag g = m.tag g := Mem.putBytes_tag ..

/-- The number that bytes make depends on those bytes alone. -/
theorem littleEndian_congr {b c : Nat → Byte} {f n : Nat} (h : ∀ g, f ≤ g → g < f + n → b g = c g) :
    littleEndian b f n = littleEndian c f n := by
  induction n generalizing f with
  | zero => rfl
  | succ k ih =>
    simp only [littleEndian]
    rw [h f (by omega) (by omega), ih fun g h1 h2 => h g (by omega) (by omega)]

/-- The bytes of a number make the number, as far as they reach. -/
theorem littleEndian_bytes (v f n : Nat) (b : Nat → Byte)
    (h : ∀ i, i < n → b (f + i) = BitVec.ofNat 8 (v / 2 ^ (8 * i))) : littleEndian b f n = v % 2 ^ (8 * n) := by
  induction n generalizing v f with
  | zero => simp [littleEndian, Nat.mod_one]
  | succ k ih =>
    have h0 := h 0 (by omega)
    have hs : littleEndian b (f + 1) k = v / 256 % 2 ^ (8 * k) := ih (v / 256) (f + 1) fun i hi => by
      have := h (i + 1) (by omega)
      rw [show f + 1 + i = f + (i + 1) by omega, this, Nat.div_div_eq_div_mul]
      congr 2
      rw [show (256 : Nat) = 2 ^ 8 from rfl, ← Nat.pow_add]
      congr 1; omega
    have hp : 2 ^ (8 * (k + 1)) = 256 * 2 ^ (8 * k) := by
      rw [show 8 * (k + 1) = 8 + 8 * k by omega, Nat.pow_add]
    simp only [littleEndian, hs]
    rw [show f = f + 0 from rfl, h0, hp, Nat.mod_mul]
    simp

/-- A word reads back as it was written. -/
@[simp] theorem Mem.putData_word (m : Mem) (f : Nat) (w : Word) : (m.putData f w).word f = w := by
  unfold Mem.word
  rw [Mem.nat_littleEndian, littleEndian_bytes w.toNat f 8]
  · rw [Nat.mod_eq_of_lt w.isLt]; simp
  · intro i hi
    rw [Mem.putData_byte, if_pos (by omega)]
    congr 3; omega

/-- A word apart from the one that is written stays. -/
theorem Mem.putData_word_apart (m : Mem) (f g : Nat) (w : Word) (h : g + 8 ≤ f ∨ f + 8 ≤ g) :
    (m.putData f w).word g = m.word g := by
  unfold Mem.word
  rw [Mem.nat_littleEndian, Mem.nat_littleEndian]
  exact congrArg (BitVec.ofNat 64) (littleEndian_congr fun j h1 h2 => by rw [Mem.putData_byte, if_neg (by omega)])

/-- With nothing buffered a hart sees memory (R287). -/
theorem State.seenWord_of_drained (s : State) (a : Word) (h : s.core.e.sb = []) : s.seenWord a = s.mem.word (s.flat a) := by
  unfold State.seenWord Mem.word
  rw [Mem.nat_littleEndian]
  exact congrArg (BitVec.ofNat 64) (littleEndian_congr fun j _ _ => by simp [State.seen, h, seenByte])

/-- A hardware write of a word: its bytes, fresh check bits, the poison cleared, the full bit kept; nothing else (R199). -/
theorem Mem.writeWord_byte (m : Mem) (f g : Nat) (w : Word) :
    (m.writeWord f w).byte g =
      if wordAt f ≤ g ∧ g < wordAt f + 8 then BitVec.ofNat 8 (w.toNat / 2 ^ (8 * (g - wordAt f))) else m.byte g :=
  Mem.putData_byte ..

theorem Mem.writeWord_tag (m : Mem) (f g : Nat) (w : Word) :
    (m.writeWord f w).tag g = if wordAt g = wordAt f then { full := (m.tag f).full } else m.tag g := by
  simp [Mem.writeWord, Mem.putTag_tag]

@[simp] theorem Mem.setPoison_byte (m : Mem) (f g : Nat) (b : Bool) : (m.setPoison f b).byte g = m.byte g := rfl
@[simp] theorem Mem.setFull_byte (m : Mem) (f g : Nat) (b : Bool) : (m.setFull f b).byte g = m.byte g := rfl
theorem Mem.setPoison_tag (m : Mem) (f g : Nat) (b : Bool) :
    (m.setPoison f b).tag g = if wordAt g = wordAt f then { m.tag f with poison := b } else m.tag g := Mem.putTag_tag ..
theorem Mem.setFull_tag (m : Mem) (f g : Nat) (b : Bool) :
    (m.setFull f b).tag g = if wordAt g = wordAt f then { m.tag f with full := b } else m.tag g := Mem.putTag_tag ..

/-! ### The canonical form -/

theorem Mem.wf_iff (m : Mem) : m.wf = true ↔ FMap.wf (0 : Byte) m.bytes = true ∧ FMap.wf ({} : MemTag) m.tags = true := by
  simp [Mem.wf]

theorem Mem.wf_reset : State.reset.mem.wf = true := rfl

theorem Mem.wf_putByte {m : Mem} (h : m.wf = true) (f : Nat) (b : Byte) : (m.putByte f b).wf = true := by
  rw [Mem.wf_iff] at *; exact ⟨FMap.wf_put _ _ _ _ h.1, h.2⟩

theorem Mem.wf_putTag {m : Mem} (h : m.wf = true) (f : Nat) (t : MemTag) : (m.putTag f t).wf = true := by
  rw [Mem.wf_iff] at *; exact ⟨h.1, FMap.wf_put _ _ _ _ h.2⟩

theorem Mem.wf_putBytes {m : Mem} (h : m.wf = true) (f : Nat) (l : List Byte) : (m.putBytes f l).wf = true := by
  induction l generalizing m f with
  | nil => exact h
  | cons b t ih => exact ih (Mem.wf_putByte h f b) (f + 1)

theorem Mem.wf_putData {m : Mem} (h : m.wf = true) (f : Nat) (w : Word) : (m.putData f w).wf = true := Mem.wf_putBytes h ..

theorem Mem.wf_writeWord {m : Mem} (h : m.wf = true) (f : Nat) (w : Word) : (m.writeWord f w).wf = true :=
  Mem.wf_putTag (Mem.wf_putData h ..) ..

theorem Mem.wf_setPoison {m : Mem} (h : m.wf = true) (f : Nat) (b : Bool) : (m.setPoison f b).wf = true := Mem.wf_putTag h ..
theorem Mem.wf_setFull {m : Mem} (h : m.wf = true) (f : Nat) (b : Bool) : (m.setFull f b).wf = true := Mem.wf_putTag h ..

theorem Mem.wf_mergeWord {m : Mem} (h : m.wf = true) (f : Nat) (k : BitVec 8) (d : Word) : (m.mergeWord f k d).wf = true := by
  unfold Mem.mergeWord
  split
  · exact Mem.wf_writeWord h ..
  · exact Mem.wf_putTag (Mem.wf_putData h ..) ..

theorem Mem.wf_scrubbed {m : Mem} (h : m.wf = true) (f : Nat) : (m.scrubbed f).wf = true := by
  unfold Mem.scrubbed
  dsimp only
  split
  · exact Mem.wf_putTag (Mem.wf_putData h ..) ..
  · split
    · exact Mem.wf_setPoison h ..
    · exact h

theorem Mem.wf_writeWords {m : Mem} (h : m.wf = true) (f : Nat) (l : List Word) : (m.writeWords f l).wf = true := by
  induction l generalizing m f with
  | nil => exact h
  | cons w t ih => exact ih (Mem.wf_writeWord h f w) (f + 8)

/-- A fold of operations that keep the form keeps it. -/
theorem Mem.wf_foldl {α : Type} (op : Mem → α → Mem) (hop : ∀ m a, m.wf = true → (op m a).wf = true) (l : List α) {m : Mem}
    (h : m.wf = true) : (l.foldl op m).wf = true := by
  induction l generalizing m with
  | nil => exact h
  | cons a t ih => exact ih (hop m a h)

theorem Mem.wf_clearWords {m : Mem} (h : m.wf = true) (f n : Nat) : (m.clearWords f n).wf = true :=
  Mem.wf_foldl _ (fun _ _ hm => Mem.wf_setFull (Mem.wf_writeWord hm ..) ..) _ h

theorem Mem.wf_inject {m : Mem} (h : m.wf = true) (f k i : Nat) : (m.inject f k i).wf = true := by
  unfold Mem.inject
  dsimp only
  split
  · exact Mem.wf_setPoison h ..
  · exact Mem.wf_putTag (Mem.wf_putData h ..) ..

theorem Mem.wf_copyWords {m : Mem} (h : m.wf = true) (src dst off n : Nat) : (m.copyWords src dst off n).wf = true :=
  Mem.wf_foldl _ (fun _ _ hm => Mem.wf_putTag (Mem.wf_writeWord hm ..) ..) _ h

theorem Mem.wf_copyRing {m : Mem} (h : m.wf = true) (src dst : Nat) (e : Edge) : (m.copyRing src dst e).wf = true := by
  refine Mem.wf_foldl _ (fun m i hm => ?_) _ h
  split
  · exact Mem.wf_copyWords hm ..
  · exact Mem.wf_clearWords hm ..

theorem Mem.wf_restoreRange {m : Mem} (h : m.wf = true) (slot : Nat) (r : Nat × Nat) (l : List Word) :
    (m.restoreRange slot r l).wf = true :=
  Mem.wf_foldl _ (fun _ _ hm => Mem.wf_setPoison (Mem.wf_setFull (Mem.wf_writeWord hm ..) ..) ..) _ h

theorem FMap.wf_filter {α : Type} [DecidableEq α] (d : α) (p : Nat × α → Bool) (m : FMap α) (h : FMap.wf d m = true) :
    FMap.wf d (m.filter p) = true := by
  induction m with
  | nil => rfl
  | cons q t ih =>
    obtain ⟨j, v⟩ := q
    rw [FMap.wf_cons] at h
    rw [List.filter_cons]
    split
    · rw [FMap.wf_cons]
      refine ⟨h.1, ?_, ih h.2.2⟩
      have h2 := h.2.1
      simp only [FMap.above, List.all_eq_true] at *
      exact fun x hx => h2 x (List.mem_filter.mp hx).1
    · exact ih h.2.2

theorem Mem.wf_clearRange {m : Mem} (h : m.wf = true) (f n : Nat) : (m.clearRange f n).wf = true := by
  rw [Mem.wf_iff] at *; exact ⟨FMap.wf_filter _ _ _ h.1, FMap.wf_filter _ _ _ h.2⟩

end Sys2Proof.Machine
end

