-- ==== Sys2Proof/Laws/Scalar.lean ====
section
/-! SUPPORT. What the shared operations of the integer forms do: the guard, writing a register and retiring, taking an
exception. -/
namespace Sys2Proof.Machine

/-! ### The guard -/

/-- An instruction that is free to run passes its guard. -/
theorem State.guard_of_free {s : State} {srcs dsts : List XReg} (h : s.free srcs dsts = true) (i : Instr)
    (k : State → State) : s.guard i srcs dsts k = k s := by
  simp only [State.free, Bool.and_eq_true, List.all_eq_true, Bool.not_eq_true'] at h
  obtain ⟨hp, hm⟩ := h
  have h1 : ((srcs ++ dsts).any fun r => hasBit s.core.h.pend r && !hasBit s.core.h.hpend r) = false := by
    rw [List.any_eq_false]; intro r hr; simp [(hp r hr).1]
  have h2 : (if s.core.atTask then srcs.find? fun r => hasBit s.core.h.mark r else none) = none := by
    by_cases ha : s.core.atTask = true
    · rw [if_pos ha, List.find?_eq_none]
      intro r hr; have := hm r hr; simp_all
    · rw [if_neg ha]
  have h3 : ((srcs ++ dsts).any fun r => hasBit s.core.h.hpend r) = false := by
    rw [List.any_eq_false]; intro r hr; simp [(hp r hr).2]
  unfold State.guard
  simp only [Core.pendingOn, h1, h2, h3, Bool.false_eq_true, if_false]

/-! ### Retiring and writing a register -/

/-- The model's count of a retired instruction is the spec's. -/
theorem Core.retired_eq_counted (c : Core) (pc : Word) : ({ c with h.pc := pc } : Core).retired = c.counted pc := by
  have key : ∀ n : Counters, Core.atTask { c with h.pc := pc, n := n } = c.atTask := fun _ => rfl
  unfold Core.retired Core.counted
  cases hi : c.c.mcountinhibit.getLsbD 2 <;> cases hk : c.atTask
  · simp only [key, hk, Bool.false_eq_true, if_false, Bool.false_and]
  · by_cases hs : c.u.progSub = 4095 <;> simp [key, hk, hs]
  · have := key c.n
    simp only [this, hk, Bool.false_eq_true, if_false, if_true, Bool.false_and]
  · have := key c.n
    by_cases hs : c.u.progSub = 4095 <;> simp [this, hk, hs]

theorem State.setCoreAt_only (s : State) (c : Core) : s.OnlyCore (s.setCoreAt s.cur c) :=
  ⟨rfl, fun n hn => by simp [State.setCoreAt, State.coreAt, FMap.get_put_other _ _ _ hn]⟩

theorem State.mapCore_only (s : State) (f : Core → Core) : s.OnlyCore (s.mapCore f) := s.setCoreAt_only _

theorem State.OnlyCore.trans {s t u : State} (h : s.OnlyCore t) (k : t.OnlyCore u) : s.OnlyCore u := by
  have hc : t.cur = s.cur := by rw [← h.1]
  refine ⟨?_, fun n hn => (k.2 n (hc ▸ hn)).trans (h.2 n hn)⟩
  have h1 := h.1
  rw [← k.1] at h1
  simpa using h1

theorem hasBit_setBit (m : BitVec 32) (r q : XReg) : hasBit (setBit m q) r = (hasBit m r || decide (r = q)) := by
  revert r q; unfold hasBit setBit
  intro r q
  have hr := r.isLt; have hq := q.isLt
  simp only [BitVec.getLsbD_or, BitVec.getLsbD_shiftLeft]
  by_cases h : r = q
  · subst h; simp; omega
  · have hne : r.toNat ≠ q.toNat := fun e => h (BitVec.eq_of_toNat_eq e)
    have : (1#32).getLsbD (r.toNat - q.toNat) = decide (r.toNat - q.toNat = 0) := by
      simp [BitVec.getLsbD_one]
    simp only [this, h, decide_false, Bool.or_false]
    by_cases hlt : r.toNat < q.toNat
    · simp [hlt]
    · have : r.toNat - q.toNat ≠ 0 := by omega
      simp [this]

theorem hasBit_clearBit (m : BitVec 32) (r q : XReg) : hasBit (clearBit m q) r = (hasBit m r && !decide (r = q)) := by
  have hr := r.isLt
  have h := hasBit_setBit 0 r q
  unfold hasBit setBit clearBit at *
  have h' : (1#32 <<< q.toNat).getLsbD r.toNat = decide (r = q) := by simpa using h
  have h2 : r.toNat < 32 := by omega
  rw [BitVec.getLsbD_and, BitVec.getLsbD_not, h']; simp [h2]

/-- The token's shape as bits and as a number. -/
theorem tokenShape_iff (v : Word) : tokenShape v = (decide (2 ^ 63 ≤ v.toNat) && decide (v.toNat % 2 ^ 63 < 2 ^ 16)) := by
  unfold tokenShape
  have h1 : v.getLsbD 63 = decide (2 ^ 63 ≤ v.toNat) := by
    have := v.isLt
    rw [BitVec.getLsbD, Nat.testBit_eq_decide_div_mod_eq]; simp; omega
  have h2 : (v.extractLsb' 16 47 == 0) = decide (v.toNat % 2 ^ 63 < 2 ^ 16) := by
    have : (v.extractLsb' 16 47 = 0) ↔ v.toNat % 2 ^ 63 < 2 ^ 16 := by
      rw [← BitVec.toNat_inj]
      simp only [BitVec.extractLsb'_toNat, Nat.shiftRight_eq_div_pow]
      simp; omega
    rw [Bool.eq_iff_iff]; simp only [beq_iff_eq, decide_eq_true_eq]; exact this
  rw [h1, h2]

/-- Writing a register writes it and its mark (R16, R166). -/
theorem State.writeX_wroteX (s : State) (rd : XReg) (v : Word) : s.WroteX (s.writeX rd v) rd v := by
  constructor
  · intro r
    show (s.writeX rd v).core.h.getX r = _
    rw [State.writeX, State.mapCore_core]
    exact Core.writeX_x ..
  · intro r
    rw [State.writeX, State.mapCore_core]
    unfold Core.writeX Core.markAfter
    rw [← tokenShape_iff]
    by_cases h : rd = 0
    · simp only [h, ne_eq, not_true, and_false, if_false, if_true]
    · simp only [h, if_false]
      by_cases hm : (s.core.h.task.isSome && s.core.inHandler && tokenShape v) = true
      · simp only [hm, if_true, hasBit_setBit]
        by_cases hr : r = rd
        · subst hr; rw [if_pos ⟨rfl, h⟩]; simp
        · rw [if_neg fun e => hr e.1]; simp [hr]
      · simp only [hm, if_false, hasBit_clearBit, Bool.false_eq_true]
        by_cases hr : r = rd
        · subst hr; rw [if_pos ⟨rfl, h⟩]; simp
        · rw [if_neg fun e => hr e.1]; simp [hr]

theorem State.retireTo_core (s : State) (pc : Word) : (s.retireTo pc).core = s.core.counted pc := by
  rw [State.retireTo, State.mapCore_core, Core.retired_eq_counted]

theorem Core.counted_x (c : Core) (pc : Word) (r : XReg) : (c.counted pc).h.getX r = c.h.getX r := rfl

/-- Writing rd and retiring to pc. -/
theorem State.writeX_retireTo (s : State) (rd : XReg) (v pc : Word) : s.WritesX ((s.writeX rd v).retireTo pc) rd v pc := by
  have hw := s.writeX_wroteX rd v
  have hc : ((s.writeX rd v).retireTo pc).core = (s.writeX rd v).core.counted pc := State.retireTo_core ..
  refine ⟨(s.mapCore_only _).trans (State.mapCore_only _ _), ⟨fun r => ?_, fun r => ?_⟩, ?_⟩
  · rw [← hw.1 r, State.x, hc]; rfl
  · rw [← hw.2 r, hc]; rfl
  · rw [hc]
    have : (s.writeX rd v).core = s.core.writeX rd v := State.mapCore_core ..
    rw [this]
    conv => lhs; rw [Core.writeX_frame s.core rd v]
    rfl

/-- Retiring without a result. -/
theorem State.retireTo_writesX (s : State) (pc : Word) : s.WritesX (s.retireTo pc) 0 0 pc := by
  have := s.writeX_retireTo 0 0 pc
  have h0 : s.writeX 0 0 = s.mapCore id := rfl
  have hc : (s.retireTo pc).core = s.core.counted pc := State.retireTo_core ..
  refine ⟨State.mapCore_only _ _, ⟨fun r => ?_, fun r => ?_⟩, ?_⟩
  · rw [State.x, hc]; show s.core.h.getX r = _
    by_cases h : r = 0
    · rw [if_pos h, h]; rfl
    · rw [if_neg h, if_neg h]; rfl
  · rw [hc]; simp [Core.counted]
  · rw [hc]; rfl

/-! ### Taking an exception -/

theorem putBits_getLsbD (w m : Word) (b : Bool) (n : Nat) :
    (putBits w m b).getLsbD n = if m.getLsbD n then b else w.getLsbD n := by
  unfold putBits
  by_cases hn : n < 64
  · cases b <;> cases h : m.getLsbD n
    · rw [if_neg (by simp), if_neg (by simp), BitVec.getLsbD_and, BitVec.getLsbD_not, h]; simp [hn]
    · rw [if_neg (by simp), if_pos rfl, BitVec.getLsbD_and, BitVec.getLsbD_not, h]; simp
    · rw [if_pos rfl, if_neg (by simp), BitVec.getLsbD_or, h]; simp
    · rw [if_pos rfl, if_pos rfl, BitVec.getLsbD_or, h]; simp
  · simp only [BitVec.getLsbD_of_ge _ _ (Nat.le_of_not_lt hn)]; simp

/-- A mask's bits from its first 64. -/
theorem getLsbD_eq_of_lt (m : Word) (p : Nat → Bool) (h : ∀ n, n < 64 → m.getLsbD n = p n)
    (hg : ∀ n, 64 ≤ n → p n = false) (n : Nat) : m.getLsbD n = p n := by
  rcases Nat.lt_or_ge n 64 with hn | hn
  · exact h n hn
  · rw [hg n hn]; exact BitVec.getLsbD_of_ge _ _ hn

theorem mSIE_bit (n : Nat) : mSIE.getLsbD n = decide (n = 1) :=
  getLsbD_eq_of_lt _ (fun n => decide (n = 1)) (by decide) (fun n h => by simp; omega) n
theorem mMIE_bit (n : Nat) : mMIE.getLsbD n = decide (n = 3) :=
  getLsbD_eq_of_lt _ (fun n => decide (n = 3)) (by decide) (fun n h => by simp; omega) n
theorem mSPIE_bit (n : Nat) : mSPIE.getLsbD n = decide (n = 5) :=
  getLsbD_eq_of_lt _ (fun n => decide (n = 5)) (by decide) (fun n h => by simp; omega) n
theorem mMPIE_bit (n : Nat) : mMPIE.getLsbD n = decide (n = 7) :=
  getLsbD_eq_of_lt _ (fun n => decide (n = 7)) (by decide) (fun n h => by simp; omega) n
theorem mSPP_bit (n : Nat) : mSPP.getLsbD n = decide (n = 8) :=
  getLsbD_eq_of_lt _ (fun n => decide (n = 8)) (by decide) (fun n h => by simp; omega) n
theorem mMPP_bit (n : Nat) : mMPP.getLsbD n = decide (n = 11 ∨ n = 12) :=
  getLsbD_eq_of_lt _ (fun n => decide (n = 11 ∨ n = 12)) (by decide) (fun n h => by simp; omega) n

/-- One bit of a word, tested by a one-bit mask. -/
theorem hasBits_bit (w m : Word) (k : Nat) (hm : ∀ n, m.getLsbD n = decide (n = k)) : hasBits w m = w.getLsbD k := by
  unfold hasBits
  cases hk : w.getLsbD k
  · have : w &&& m = 0 := by
      apply BitVec.eq_of_getLsbD_eq; intro i _
      rw [BitVec.getLsbD_and, hm]
      by_cases h : i = k
      · subst h; simp [hk]
      · simp [h]
    simp [this]
  · have : w &&& m ≠ 0 := fun e => by
      have := congrArg (fun x => x.getLsbD k) e
      simp only [BitVec.getLsbD_and, hm, hk] at this
      simp at this
    simpa using this

/-- The bits of MPP as trap entry writes them. -/
theorem code_shift_bit (p : Priv) (n : Nat) :
    (p.code <<< 11).getLsbD n = if n = 11 then decide (p ≠ .u) else if n = 12 then decide (p = .m) else false := by
  rcases Nat.lt_or_ge n 64 with hn | hn
  · revert hn n; cases p <;> decide
  · rw [BitVec.getLsbD_of_ge _ _ hn, if_neg (by omega), if_neg (by omega)]

/-- Taking an exception does what the spec says of it (R158, R160, R162). -/
theorem State.trap_traps (s : State) (code : Nat) (tval : Word) : s.Traps (s.trap code tval) code tval := by
  unfold State.Traps
  refine ⟨s.mapCore_only _, ?_⟩
  have hc : (s.trap code tval).core = s.core.enter (s.core.delegated false code) false code s.core.h.pc tval := by
    rw [State.trap, State.trapAt, State.mapCore_core]
  rw [hc]
  have hd : s.core.delegated false code = true ↔ s.core.mode ≠ .m ∧ s.core.c.medeleg.getLsbD code = true := by
    simp [Core.delegated]
  have hv : ∀ w : Word, vectorOf w false code = w &&& ~~~3 := fun w => by simp [vectorOf]
  by_cases h : s.core.mode ≠ .m ∧ s.core.c.medeleg.getLsbD code = true
  · rw [if_pos h, hd.2 h]
    refine ⟨by simp [Core.enter, hv], fun n => ?_⟩
    have hs : (s.core.mode != Priv.u) = decide (s.core.mode = .s) := by
      have := h.1; revert this; cases s.core.mode <;> decide
    simp only [Core.enter, if_true, putBits_getLsbD, mSPP_bit, mSIE_bit, mSPIE_bit, decide_eq_true_eq, hs,
      hasBits_bit _ _ 1 mSIE_bit]
    by_cases h8 : n = 8
    · subst h8; simp
    · by_cases h1 : n = 1
      · subst h1; simp
      · simp [h8, h1]
  · rw [if_neg h, show s.core.delegated false code = false from Bool.eq_false_iff.2 fun e => h (hd.1 e)]
    refine ⟨by simp [Core.enter, hv], fun n => ?_⟩
    simp only [Core.enter, if_false, Bool.false_eq_true, BitVec.getLsbD_or, BitVec.getLsbD_and, BitVec.getLsbD_not,
      code_shift_bit, putBits_getLsbD, mMPP_bit, mMIE_bit, mMPIE_bit, decide_eq_true_eq, hasBits_bit _ _ 3 mMIE_bit]
    by_cases h11 : n = 11
    · subst h11; simp
    · by_cases h12 : n = 12
      · subst h12; simp
      · simp only [h11, h12, or_false, decide_false, Bool.not_false, if_false, Bool.or_false, Bool.and_true]
        by_cases hn : n < 64
        · by_cases h3 : n = 3
          · subst h3; simp
          · by_cases h7 : n = 7 <;> simp [h3, h7, hn]
        · have : n ≠ 3 ∧ n ≠ 7 := by omega
          simp [this, hn, BitVec.getLsbD_of_ge _ _ (Nat.le_of_not_lt hn)]

end Sys2Proof.Machine
end

