-- ==== Sys2Proof/Laws/Region.lean ====
section
/-! SUPPORT. What the shared operations of region forms do: holding an effect, consuming an uncorrectable error, a unit's stall. -/
namespace Sys2Proof.Machine

/-- A hold buffer with room takes the effect at the depth of the innermost entry (R183). -/
theorem State.hold_of_room {s : State} (h : s.core.r.hold.length < 64) (op : HeldOp) (rd : XReg) (k : State → State) :
    s.hold op rd k = k (s.mapCore fun c =>
      { c with r.hold := c.r.hold ++ [{ op := op, depth := c.r.stack.length, rd := rd }] }) := by
  simp only [State.hold]; rw [if_neg (by omega)]

/-- A full one raises cause 27 with tval 1 (R183). -/
theorem State.hold_of_full {s : State} (h : 64 ≤ s.core.r.hold.length) (op : HeldOp) (rd : XReg) (k : State → State) :
    s.hold op rd k = s.trap 27 1 := by
  simp only [State.hold]; rw [if_pos h]

/-- A rollback that ends leaves the stack below the entry (R181). -/
theorem State.rollback_stack {s : State} {e : Entry} {rest : List Entry} (h : s.core.r.stack = e :: rest) (regs : Bool)
    (hr : (s.rollback 0 regs).2 = true) : (s.rollback 0 regs).1.core.r.stack = rest := by
  simp only [State.rollback, h, List.drop_zero] at hr ⊢
  split at hr
  · simp at hr
  · simp only [State.mapCore_core]; split <;> rfl

/-- What a consumption comes to (R191, R192). -/
theorem State.consume_consumes (s : State) (a : Word) : s.Consumes (s.consume a) a := by
  cases h : s.core.r.stack with
  | nil =>
    have hc : s.consume a = s.trap 30 a := by simp only [State.consume, h]
    rw [State.Consumes, h, hc]; exact s.trap_traps 30 a
  | cons e rest =>
    rw [State.Consumes, h]
    by_cases hc : s.core.atTask = true ∧ e.count < s.core.g.limit.toNat
    · have he : s.core.r.stack[0]? = some e := by rw [h]; rfl
      have hs : s.consume a = s.reexecute 0 (e.count + 1) (carryStamp (e :: rest)) := by
        simp only [State.consume, h]; rw [if_neg (by simp [hc])]
      simp only
      rw [if_pos hc, hs]
      simp only [State.reexecute, he]
      refine ⟨fun hd => ?_, fun hd hr => ?_⟩
      · rw [hd]; exact ⟨rfl, fun _ => rfl⟩
      · simp only [hd, hr, Bool.not_true, Bool.false_eq_true, if_false, if_true, State.mapCore_core]
        refine ⟨trivial, s.rollback_stack h true hr, ?_⟩
        simp [carryStamp, outermostTxn]
    · have hs : s.consume a = s.trap 30 a := by
        simp only [State.consume, h]
        rw [if_pos (by cases ht : s.core.atTask <;> simp_all)]
      simp only
      rw [if_neg hc, hs]
      exact s.trap_traps 30 a

/-- An act of a unit is done, or, where it would report what no queue of notices has room for, not done yet (R343). -/
theorem State.orStall_eq (s t : State) : s.orStall t = if t.overfull = true then s else t := rfl

end Sys2Proof.Machine
end

