-- ==== Sys2Proof/Tests/Slice0.lean ====
section
/-! SUPPORT. Tests: words written out from the spec's encodings, ill-formed terms, single steps, and for every statement with
hypotheses a state and operands that meet them. -/
namespace Sys2Proof.Tests
open Sys2Proof Sys2Proof.Machine
set_option Elab.async false

/-! ### Words from the tables -/

/-- Every word of a list decodes to the instruction beside it. -/
abbrev Decodes (l : List (IWord × Instr)) : Prop := l.map (fun p => decode p.1) = l.map (fun p => .ok p.2)
/-- A word that stands for no instruction. -/
def Refused (w : IWord) : Bool :=
  match decode w with
  | .error _ => true
  | .ok _ => false

/-- Words of the loads and stores, field by field from the tables of R69 to R82. -/
theorem test_decode_loads_and_stores : Decodes [
    (0b111011100110_11100_000_01111_0000011, .lb 15 28 3814),
    (0b011000010011_10001_001_01111_0000011, .lh 15 17 1555),
    (0b111100111001_11010_010_00110_0000011, .lw 6 26 3897),
    (0b010111110101_10100_011_10101_0000011, .ld 21 20 1525),
    (0b100110110101_01111_100_00100_0000011, .lbu 4 15 2485),
    (0b000101010111_00011_101_00101_0000011, .lhu 5 3 343),
    (0b111001111110_01101_110_10100_0000011, .lwu 20 13 3710),
    (0b0101000_11000_10101_000_01010_0100011, .sb 24 21 1290),
    (0b0010000_00001_10100_001_00101_0100011, .sh 1 20 517),
    (0b0110000_00010_00010_010_10110_0100011, .sw 2 2 1558),
    (0b0000111_01000_11101_011_10110_0100011, .sd 8 29 246)] := by rfl

/-- Words of the immediates, field by field from the tables of R69 to R82. -/
theorem test_decode_immediates : Decodes [
    (0b101001110000_01111_000_11001_0010011, .addi 25 15 2672),
    (0b011001000000_10011_010_01111_0010011, .slti 15 19 1600),
    (0b100101101001_01000_011_10001_0010011, .sltiu 17 8 2409),
    (0b001010111000_00001_100_10000_0010011, .xori 16 1 696),
    (0b100011100110_10101_110_01111_0010011, .ori 15 21 2278),
    (0b001010101001_10010_111_01110_0010011, .andi 14 18 681),
    (0b000000_110100_01001_001_10111_0010011, .slli 23 9 52),
    (0b000000_110010_01000_101_11001_0010011, .srli 25 8 50),
    (0b010000_100110_00011_101_00001_0010011, .srai 1 3 38),
    (0b100101001111_00100_000_01101_0011011, .addiw 13 4 2383),
    (0b0000000_00001_00011_001_01101_0011011, .slliw 13 3 1),
    (0b0000000_00000_10110_101_11100_0011011, .srliw 28 22 0),
    (0b0100000_00011_00111_101_00111_0011011, .sraiw 7 7 3),
    (0b11000000001111001011_10000_0010111, .auipc 16 787403),
    (0b11001011011110110011_10111_0110111, .lui 23 833459)] := by rfl

/-- Words of the register forms, field by field from the tables of R69 to R82. -/
theorem test_decode_register_forms_a : Decodes [
    (0b0000000_10011_00011_000_01110_0110011, .add 14 3 19),
    (0b0100000_11001_00111_000_10101_0110011, .sub 21 7 25),
    (0b0000000_01011_01001_001_10110_0110011, .sll 22 9 11),
    (0b0000000_01011_01010_010_00011_0110011, .slt 3 10 11),
    (0b0000000_01110_11111_011_00001_0110011, .sltu 1 31 14),
    (0b0000000_00100_11110_100_11001_0110011, .xor 25 30 4),
    (0b0000000_10111_01000_101_00101_0110011, .srl 5 8 23),
    (0b0100000_00010_00001_101_00100_0110011, .sra 4 1 2),
    (0b0000000_10000_11010_110_01111_0110011, .or 15 26 16),
    (0b0000000_10010_10110_111_00110_0110011, .and 6 22 18),
    (0b0000001_10001_01111_000_00111_0110011, .mul 7 15 17),
    (0b0000001_11001_11000_001_00111_0110011, .mulh 7 24 25),
    (0b0000001_10101_01110_010_00101_0110011, .mulhsu 5 14 21),
    (0b0000001_01101_00100_011_01101_0110011, .mulhu 13 4 13),
    (0b0000001_00001_00111_100_01110_0110011, .div 14 7 1),
    (0b0000001_11010_11100_101_01001_0110011, .divu 9 28 26),
    (0b0000001_11101_01010_110_10011_0110011, .rem 19 10 29),
    (0b0000001_00110_00111_111_00001_0110011, .remu 1 7 6),
    (0b0000000_10100_11100_000_01101_0111011, .addw 13 28 20),
    (0b0100000_00100_10011_000_10101_0111011, .subw 21 19 4),
    (0b0000000_00111_00101_001_00010_0111011, .sllw 2 5 7),
    (0b0000000_00001_01001_101_01111_0111011, .srlw 15 9 1),
    (0b0100000_01011_10100_101_11001_0111011, .sraw 25 20 11),
    (0b0000001_01101_01010_000_11011_0111011, .mulw 27 10 13)] := by rfl

/-- More words of the register forms. -/
theorem test_decode_register_forms_b : Decodes [
    (0b0000001_00011_00011_100_00011_0111011, .divw 3 3 3),
    (0b0000001_10101_10011_101_00111_0111011, .divuw 7 19 21),
    (0b0000001_10100_00001_110_01000_0111011, .remw 8 1 20),
    (0b0000001_10100_01100_111_01100_0111011, .remuw 12 12 20)] := by rfl

/-- Words of the atomic forms, field by field from the tables of R69 to R82. -/
theorem test_decode_atomics : Decodes [
    (0b00010_1_0_00000_00101_010_01111_0101111, .lrW true false 15 5),
    (0b00010_0_0_00000_01101_011_11100_0101111, .lrD false false 28 13),
    (0b00011_0_0_01000_11110_010_01010_0101111, .scW false false 10 30 8),
    (0b00011_0_1_10101_11000_011_00110_0101111, .scD false true 6 24 21),
    (0b00001_0_1_10100_10000_010_11101_0101111, .amoswapW false true 29 16 20),
    (0b00001_0_1_00100_00100_011_00010_0101111, .amoswapD false true 2 4 4),
    (0b00000_1_1_10111_11000_010_01000_0101111, .amoaddW true true 8 24 23),
    (0b00000_1_1_11101_11011_011_01110_0101111, .amoaddD true true 14 27 29),
    (0b00100_0_0_11110_00110_010_10001_0101111, .amoxorW false false 17 6 30),
    (0b00100_0_1_10010_10000_011_01000_0101111, .amoxorD false true 8 16 18),
    (0b01100_0_0_11110_11110_010_00111_0101111, .amoandW false false 7 30 30),
    (0b01100_1_0_01110_01001_011_00011_0101111, .amoandD true false 3 9 14),
    (0b01000_1_1_00110_00010_010_00010_0101111, .amoorW true true 2 2 6),
    (0b01000_0_1_00101_10011_011_10001_0101111, .amoorD false true 17 19 5),
    (0b10000_1_0_01111_11101_010_00101_0101111, .amominW true false 5 29 15),
    (0b10000_0_1_11110_00010_011_10011_0101111, .amominD false true 19 2 30),
    (0b10100_1_0_10111_01100_010_11110_0101111, .amomaxW true false 30 12 23),
    (0b10100_0_1_10101_10100_011_00001_0101111, .amomaxD false true 1 20 21),
    (0b11000_1_0_01010_11000_010_00011_0101111, .amominuW true false 3 24 10),
    (0b11000_1_0_01111_00011_011_00011_0101111, .amominuD true false 3 3 15),
    (0b11100_0_1_11000_11110_010_11101_0101111, .amomaxuW false true 29 30 24),
    (0b11100_1_0_10110_00011_011_01100_0101111, .amomaxuD true false 12 3 22)] := by rfl

/-- Words of the jumps, field by field from the tables of R69 to R82. -/
theorem test_decode_jumps : Decodes [
    (0b1_010101_11100_11100_000_1001_1_1100011, .beq 28 28 3417),
    (0b0_001111_11010_11111_001_0111_0_1100011, .bne 31 26 247),
    (0b0_000111_10000_11100_100_0111_0_1100011, .blt 28 16 119),
    (0b1_000011_10110_10100_101_1100_1_1100011, .bge 20 22 3132),
    (0b0_000110_10011_01101_110_0101_0_1100011, .bltu 13 19 101),
    (0b0_101001_00011_10100_111_0001_0_1100011, .bgeu 20 3 657),
    (0b001110110010_10101_000_00011_1100111, .jalr 3 21 946),
    (0b1_0111100011_0_10101010_01001_1101111, .jal 9 872931)] := by rfl

/-- Words of the system forms, field by field from the tables of R69 to R82. -/
theorem test_decode_system_forms : Decodes [
    (0b0000_1111_1111_00000_000_00000_0001111, .fence),
    (0b000000000000_00000_001_00000_0001111, .fenceI),
    (0b000000000000_00000_000_00000_1110011, .ecall),
    (0b000000000001_00000_000_00000_1110011, .ebreak),
    (0b000100000010_00000_000_00000_1110011, .sret),
    (0b000100000101_00000_000_00000_1110011, .wfi),
    (0b001100000010_00000_000_00000_1110011, .mret),
    (0b0001001_01011_11000_000_00000_1110011, .sfenceVma 24 11),
    (0b010111000010_11110_001_01101_1110011, .csrrw 13 1474 30),
    (0b000101001101_01111_010_01111_1110011, .csrrs 15 333 15),
    (0b100000000000_10010_011_11011_1110011, .csrrc 27 2048 18),
    (0b010111000010_11001_101_10001_1110011, .csrrwi 17 1474 25),
    (0b010111000010_01010_110_00001_1110011, .csrrsi 1 1474 10),
    (0b100000000000_10000_111_00011_1110011, .csrrci 3 2048 16)] := by rfl

/-- Words of the task and message forms, field by field from the tables of R69 to R82. -/
theorem test_decode_tasks_and_messages : Decodes [
    (0b000_00_0_0_00000_00000_000_00000_0001011, .taskEnd),
    (0b001_00_0_0_00000_01000_000_00000_0001011, .taskChain 8),
    (0b010_11_0_0_00000_11111_000_00000_0001011, .taskSpawn false 3 31),
    (0b011_00_0_0_00000_11001_000_00000_0001011, .taskJoin 25),
    (0b000_10_0_1_10110_10100_001_00000_0001011, .msgSend true 2 20 22),
    (0b001_10_0_1_00001_11101_001_00000_0001011, .msgSendl true 2 29 1),
    (0b010_01_0_0_10110_00101_001_00000_0001011, .msgReply false 1 5 22),
    (0b011_11_0_1_11101_11001_001_00000_0001011, .msgFwd true 3 25 29)] := by rfl

/-- Every word of task.self: its register stands in rd, bits 11:7 (R72, R77). -/
theorem test_decode_task_self :
    (List.range 32).map (fun n => decode (BitVec.ofNat 32 (0b100_00_0_0_00000_00000_000_00000_0001011 + n * 128))) =
    (List.range 32).map (fun n => .ok (Instr.taskSelf (BitVec.ofNat 5 n))) := by rfl

/-- Every word of task.prio: its register stands in rs1, bits 19:15 (R72, R77). -/
theorem test_decode_task_prio :
    (List.range 32).map (fun n => decode (BitVec.ofNat 32 (0b101_00_0_0_00000_00000_000_00000_0001011 + n * 32768))) =
    (List.range 32).map (fun n => .ok (Instr.taskPrio (BitVec.ofNat 5 n))) := by rfl

/-- Words of the capability, region and system forms, field by field from the tables of R69 to R82. -/
theorem test_decode_caps_regions_sys : Decodes [
    (0b000_00_0_0_01000_11101_010_10000_0001011, .capMint 16 29 8),
    (0b001_00_0_0_10110_01101_010_01011_0001011, .capNarrow 11 13 22),
    (0b010_00_0_0_10101_00111_010_01001_0001011, .capCheck 9 7 21),
    (0b000_00_0_0_00000_00000_011_00000_0001011, .rcvBegin),
    (0b001_00_0_0_00000_01110_011_00000_0001011, .rcvPreserve 14),
    (0b010_00_0_0_00000_00000_011_00000_0001011, .rcvEnd),
    (0b011_00_0_0_00000_00000_011_00000_0001011, .rcvFail),
    (0b000_00_0_0_00000_11010_100_00000_0001011, .txnBegin 26),
    (0b001_00_0_0_00000_00000_100_00000_0001011, .txnRetry),
    (0b010_00_0_0_00000_11010_100_00000_0001011, .txnElse 26),
    (0b011_00_0_0_00000_00000_100_00000_0001011, .txnEnd),
    (0b100_00_0_0_00000_00000_100_00000_0001011, .txnAbort),
    (0b000_00_0_0_00000_00000_101_00000_0001011, .sysFreeze),
    (0b001_00_0_0_00000_11001_101_00000_0001011, .sysHalt 25),
    (0b010_00_0_0_00000_11110_101_00000_0001011, .sysResume 30),
    (0b011_00_0_0_00111_11101_101_00111_0001011, .sysInspect 7 29 7),
    (0b100_00_0_0_00000_01000_101_01101_0001011, .sysScan 13 8),
    (0b101_00_0_0_00000_11110_101_10011_0001011, .sysSig 19 30),
    (0b110_00_0_0_00111_01011_101_00000_0001011, .sysRemap 11 7),
    (0b111_00_0_0_00101_00101_101_00000_0001011, .sysInject 5 5)] := by rfl

/-- Words of the tagged, edge and fence forms, field by field from the tables of R69 to R82. -/
theorem test_decode_tagged_edges_fences : Decodes [
    (0b000_10_0_0_00000_01100_000_10000_0101011, .feLd ⟨false, false, 2⟩ 16 12),
    (0b001_11_0_1_00000_00110_000_11011_0101011, .feLdk ⟨false, true, 3⟩ 27 6),
    (0b010_11_0_1_11110_01001_000_00000_0101011, .feSt ⟨false, true, 3⟩ 9 30),
    (0b011_11_1_1_10001_10101_000_00000_0101011, .feStf ⟨true, true, 3⟩ 21 17),
    (0b100_10_0_0_00000_01011_000_00000_0101011, .feClr ⟨false, false, 2⟩ 11),
    (0b101_10_0_1_00000_10100_000_11100_0101011, .feTest ⟨false, true, 2⟩ 28 20),
    (0b000_01_0_0_10101_01010_001_00000_0101011, .edgePut false 1 10 21),
    (0b001_00_0_0_01111_01101_001_00000_0101011, .edgePutv false 0 13 15),
    (0b010_01_0_1_00000_11001_001_00000_0101011, .edgeDone true 1 25),
    (0b011_00_0_0_00000_00101_001_11001_0101011, .strSample 25 5),
    (0b100_00_0_0_00000_00000_001_00000_0101011, .fenceScCore),
    (0b100_01_0_0_00000_00000_001_00000_0101011, .fenceScCluster),
    (0b100_10_0_0_00000_00000_001_00000_0101011, .fenceScDie),
    (0b100_11_0_0_00000_00000_001_00000_0101011, .fenceScWafer),
    (0b101_00_0_0_00000_00000_001_00000_0101011, .fenceEngCore),
    (0b101_01_0_0_00000_00000_001_00000_0101011, .fenceEngCluster),
    (0b101_10_0_0_00000_00000_001_00000_0101011, .fenceEngDie),
    (0b101_11_0_0_00000_00000_001_00000_0101011, .fenceEngWafer),
    (0b110_00_0_0_00000_00000_001_00000_0101011, .fenceMxCore),
    (0b110_01_0_0_00000_00000_001_00000_0101011, .fenceMxCluster),
    (0b110_10_0_0_00000_00000_001_00000_0101011, .fenceMxDie),
    (0b110_11_0_0_00000_00000_001_00000_0101011, .fenceMxWafer)] := by rfl

/-- Words of the engine, copy, layout, DRAM and barrier forms, field by field from the tables of R69 to R82. -/
theorem test_decode_engines_a : Decodes [
    (0b000_00_0_0_00010_11010_010_00000_0101011, .engWr 26 2),
    (0b001_00_0_0_00000_00100_010_10101_0101011, .engRd 21 4),
    (0b010_00_0_0_10101_00100_010_01111_0101011, .engSwap 15 4 21),
    (0b011_01_0_0_00101_00000_010_10010_0101011, .mxMma ⟨false, false, 1⟩ 18 5),
    (0b100_11_0_0_00111_00100_010_11011_0101011, .mxMmac ⟨false, false, 3⟩ 27 7 4),
    (0b101_10_0_0_00000_00000_010_10010_0101011, .mxStore ⟨false, false, 2⟩ 18 0),
    (0b110_00_0_0_00000_00000_010_00000_0101011, .mxZero0),
    (0b110_00_0_0_00001_00000_010_00000_0101011, .mxZero1),
    (0b110_00_0_0_00010_00000_010_00000_0101011, .mxZero2),
    (0b110_00_0_0_00011_00000_010_00000_0101011, .mxZero3),
    (0b110_00_0_0_00100_00000_010_00000_0101011, .mxZero4),
    (0b110_00_0_0_00101_00000_010_00000_0101011, .mxZero5),
    (0b110_00_0_0_00110_00000_010_00000_0101011, .mxZero6),
    (0b110_00_0_0_00111_00000_010_00000_0101011, .mxZero7),
    (0b000_01_0_1_10010_01100_011_11001_0101011, .cpGo ⟨false, true, 1⟩ 25 12 18),
    (0b001_11_1_0_11110_01110_011_00011_0101011, .cpGomx ⟨true, false, 3⟩ 3 14 30),
    (0b010_10_0_1_10101_00111_011_01111_0101011, .cpGath ⟨false, true, 2⟩ 15 7 21),
    (0b011_00_0_0_10101_01011_011_01111_0101011, .cpScat ⟨false, false, 0⟩ 15 11 21),
    (0b100_10_1_0_11101_01000_011_00111_0101011, .layGo ⟨true, false, 2⟩ 7 8 29),
    (0b101_00_1_1_11110_11010_011_10010_0101011, .dramReq ⟨true, true, 0⟩ 18 26 30),
    (0b110_10_0_1_00011_10001_011_01100_0101011, .dramReqv ⟨false, true, 2⟩ 12 17 3),
    (0b000_00_1_1_00000_01110_110_10010_0101011, .barArrive ⟨true, true, 0⟩ 18 14),
    (0b001_00_0_1_00000_11010_110_00111_0101011, .barJoin ⟨false, true, 0⟩ 7 26),
    (0b010_11_1_0_00000_00110_110_00000_0101011, .barLeave ⟨true, false, 3⟩ 6)] := by rfl

/-- More words of the engine, copy, layout, DRAM and barrier forms. -/
theorem test_decode_engines_b : Decodes [
    (0b011_00_1_1_00000_10001_110_00101_0101011, .barPhase ⟨true, true, 0⟩ 5 17)] := by rfl

/-- Words of the near-bank forms, field by field from the tables of R69 to R82. -/
theorem test_decode_near_bank_a : Decodes [
    (0b000_10_1_0_01111_01000_100_11001_0101011, .nbAddD ⟨true, false, 2⟩ 25 8 15),
    (0b001_01_0_1_01101_10110_100_01010_0101011, .nbAddfD ⟨false, true, 1⟩ 10 22 13),
    (0b010_01_1_1_10001_10010_100_11111_0101011, .nbFaddD ⟨true, true, 1⟩ 31 18 17),
    (0b101_00_0_1_00100_10010_100_01110_0101011, .nbSwapD ⟨false, true, 0⟩ 14 18 4),
    (0b110_11_1_0_10001_00010_100_10010_0101011, .nbCasD ⟨true, false, 3⟩ 18 2 17),
    (0b011_11_0_0_10111_00011_100_00000_0101011, .nbMinD ⟨false, false, 3⟩ 3 23),
    (0b011_01_1_1_11110_01110_100_00001_0101011, .nbMaxD ⟨true, true, 1⟩ 14 30),
    (0b011_11_0_1_10000_10000_100_00010_0101011, .nbMinuD ⟨false, true, 3⟩ 16 16),
    (0b011_00_1_1_11011_11101_100_00011_0101011, .nbMaxuD ⟨true, true, 0⟩ 29 27),
    (0b011_01_0_1_01110_00111_100_00100_0101011, .nbFminD ⟨false, true, 1⟩ 7 14),
    (0b011_01_0_0_11001_10111_100_00101_0101011, .nbFmaxD ⟨false, false, 1⟩ 23 25),
    (0b100_10_0_1_01000_00101_100_00000_0101011, .nbAndD ⟨false, true, 2⟩ 5 8),
    (0b100_00_0_1_01100_11000_100_00001_0101011, .nbOrD ⟨false, true, 0⟩ 24 12),
    (0b100_01_0_1_11000_10000_100_00010_0101011, .nbXorD ⟨false, true, 1⟩ 16 24),
    (0b111_11_1_0_10001_10111_100_00000_0101011, .nbVaddD ⟨true, false, 3⟩ 23 17),
    (0b111_01_0_0_01110_10101_100_00001_0101011, .nbVfaddD ⟨false, false, 1⟩ 21 14),
    (0b111_10_0_0_00111_10001_100_00010_0101011, .nbVfminD ⟨false, false, 2⟩ 17 7),
    (0b111_01_1_1_00110_11101_100_00011_0101011, .nbVfmaxD ⟨true, true, 1⟩ 29 6),
    (0b111_01_0_0_11001_00111_100_00100_0101011, .nbVandD ⟨false, false, 1⟩ 7 25),
    (0b111_10_0_0_01000_11101_100_00101_0101011, .nbVorD ⟨false, false, 2⟩ 29 8),
    (0b111_01_1_1_00100_01101_100_00110_0101011, .nbVxorD ⟨true, true, 1⟩ 13 4),
    (0b000_01_0_0_10101_01101_101_00111_0101011, .nbAddW ⟨false, false, 1⟩ 7 13 21),
    (0b001_10_1_0_01100_10110_101_10011_0101011, .nbAddfW ⟨true, false, 2⟩ 19 22 12),
    (0b010_11_0_0_11011_10110_101_10001_0101011, .nbFaddW ⟨false, false, 3⟩ 17 22 27)] := by rfl

/-- More words of the near-bank forms. -/
theorem test_decode_near_bank_b : Decodes [
    (0b101_01_1_0_00010_00001_101_00100_0101011, .nbSwapW ⟨true, false, 1⟩ 4 1 2),
    (0b110_10_0_0_00111_00100_101_00110_0101011, .nbCasW ⟨false, false, 2⟩ 6 4 7),
    (0b011_01_0_0_10110_11110_101_00000_0101011, .nbMinW ⟨false, false, 1⟩ 30 22),
    (0b011_00_1_0_10110_11111_101_00001_0101011, .nbMaxW ⟨true, false, 0⟩ 31 22),
    (0b011_10_1_1_01101_01011_101_00010_0101011, .nbMinuW ⟨true, true, 2⟩ 11 13),
    (0b011_00_1_0_00111_01110_101_00011_0101011, .nbMaxuW ⟨true, false, 0⟩ 14 7),
    (0b011_11_0_1_00111_11100_101_00100_0101011, .nbFminW ⟨false, true, 3⟩ 28 7),
    (0b011_01_1_1_11000_01100_101_00101_0101011, .nbFmaxW ⟨true, true, 1⟩ 12 24),
    (0b100_10_0_0_00110_10100_101_00000_0101011, .nbAndW ⟨false, false, 2⟩ 20 6),
    (0b100_10_1_0_00011_11101_101_00001_0101011, .nbOrW ⟨true, false, 2⟩ 29 3),
    (0b100_00_1_1_11001_11010_101_00010_0101011, .nbXorW ⟨true, true, 0⟩ 26 25),
    (0b111_01_0_1_11000_11000_101_00000_0101011, .nbVaddW ⟨false, true, 1⟩ 24 24),
    (0b111_01_1_1_01011_11101_101_00001_0101011, .nbVfaddW ⟨true, true, 1⟩ 29 11),
    (0b111_10_0_0_00111_01101_101_00010_0101011, .nbVfminW ⟨false, false, 2⟩ 13 7),
    (0b111_10_0_0_10000_01010_101_00011_0101011, .nbVfmaxW ⟨false, false, 2⟩ 10 16),
    (0b111_10_0_0_11101_10101_101_00100_0101011, .nbVandW ⟨false, false, 2⟩ 21 29),
    (0b111_01_1_1_11111_11111_101_00101_0101011, .nbVorW ⟨true, true, 1⟩ 31 31),
    (0b111_11_0_0_01101_10110_101_00110_0101011, .nbVxorW ⟨false, false, 3⟩ 22 13)] := by rfl

/-- Words of the vector arithmetic, field by field from the tables of R69 to R82. -/
theorem test_decode_vector_arithmetic_a : Decodes [
    (0b11_00000_00100_10111_110_00111_1011011, .vadd 3 6 7 23 4),
    (0b11_00001_10100_00100_101_00001_1011011, .vsub 3 5 1 4 20),
    (0b00_00010_01111_01001_110_01000_1011011, .vmul 0 6 8 9 15),
    (0b11_00011_00111_11001_101_00010_1011011, .vmulh 3 5 2 25 7),
    (0b11_00100_01001_01001_001_00100_1011011, .vmin 3 1 4 9 9),
    (0b10_00101_10001_10010_011_10010_1011011, .vminu 2 3 18 18 17),
    (0b11_00110_00100_11100_101_10011_1011011, .vmax 3 5 19 28 4),
    (0b11_00111_10010_00011_111_10101_1011011, .vmaxu 3 7 21 3 18),
    (0b00_01000_00110_11111_100_11110_1011011, .vand 0 4 30 31 6),
    (0b11_01001_10000_11100_100_00110_1011011, .vor 3 4 6 28 16),
    (0b00_01010_01110_10000_100_11111_1011011, .vxor 0 4 31 16 14),
    (0b10_01011_01010_10100_101_01101_1011011, .vsll 2 5 13 20 10),
    (0b10_01100_10101_10000_101_01010_1011011, .vsrl 2 5 10 16 21),
    (0b10_01101_10110_01010_101_11110_1011011, .vsra 2 5 30 10 22),
    (0b10_01110_01000_11001_001_00001_1011011, .vfadd 2 1 1 25 8),
    (0b00_01111_11001_01110_110_00110_1011011, .vfsub 0 6 6 14 25),
    (0b11_10000_11000_01011_001_11101_1011011, .vfmul 3 1 29 11 24),
    (0b11_10001_11111_11000_001_10011_1011011, .vfdiv 3 1 19 24 31),
    (0b10_10010_00000_11101_001_11010_1011011, .vfsqrt 2 1 26 29),
    (0b01_10011_01001_10000_100_11000_1011011, .vfmin 1 4 24 16 9),
    (0b01_10100_11110_00100_001_10001_1011011, .vfmax 1 1 17 4 30),
    (0b11_10101_01000_11011_010_11111_1011011, .vfmadd 3 2 31 27 8),
    (0b00_10110_01111_01110_001_10100_1011011, .vfmsub 0 1 20 14 15),
    (0b00_10111_01100_00010_010_11100_1011011, .vfnmadd 0 2 28 2 12)] := by rfl

/-- More words of the vector arithmetic. -/
theorem test_decode_vector_arithmetic_b : Decodes [
    (0b01_11000_00101_01111_001_01100_1011011, .vfnmsub 1 1 12 15 5),
    (0b11_11001_10101_01001_100_10100_1011011, .vfsgnj 3 4 20 9 21),
    (0b11_11010_10001_11000_011_11001_1011011, .vfsgnjn 3 3 25 24 17),
    (0b01_11011_00000_00101_011_11000_1011011, .vfclass 1 3 24 5),
    (0b10_11100_00101_10001_011_01001_1011011, .vcomp24 2 3 9 5 17),
    (0b00_11101_11101_10001_100_00100_1011011, .vbaq 0 4 4 17 29),
    (0b01_11110_11100_10100_111_10001_1011011, .vdot4 1 7 17 20 28)] := by rfl

/-- Words of the vector data, field by field from the tables of R69 to R82. -/
theorem test_decode_vector_data_a : Decodes [
    (0b10_00000_00011_00111_100_01000_1111011, .vcvtf 2 4 3 8 7),
    (0b10_00001_00000_10100_011_01001_1111011, .vcvti 2 3 9 20),
    (0b01_00010_00000_11001_110_01001_1111011, .vcvtx 1 6 9 25),
    (0b01_00011_00010_00111_100_01000_1111011, .vtenc 1 4 2 8 7),
    (0b10_00100_00011_00111_100_01000_1111011, .vtdec 2 4 3 8 7),
    (0b00_00101_00001_00111_100_01000_1111011, .vrepkPack 4 1 8 7),
    (0b01_00101_00011_00111_100_01000_1111011, .vrepkUnpk 4 3 8 7),
    (0b01_00110_10101_10001_010_00011_1111011, .vcmpeq 1 2 3 17 21),
    (0b01_00111_00010_10101_110_00000_1111011, .vcmplt 1 6 0 21 2),
    (0b00_01000_00001_01110_011_00100_1111011, .vcmpltu 0 3 4 14 1),
    (0b00_01001_01001_10010_001_00011_1111011, .vfcmpeq 0 1 3 18 9),
    (0b00_01010_10110_11110_111_00001_1111011, .vfcmplt 0 7 1 30 22),
    (0b00_01011_00101_00011_000_00010_1111011, .kand 2 3 5),
    (0b01_01011_00101_00111_000_00111_1111011, .kor 7 7 5),
    (0b10_01011_00101_00101_000_00011_1111011, .kxor 3 5 5),
    (0b11_01011_00000_10011_000_00110_1111011, .kmv 6 19),
    (0b11_01100_00000_11011_110_00101_1111011, .vld 3 6 5 27),
    (0b00_01101_00000_01111_111_00100_1111011, .vst 0 7 4 15),
    (0b01_01110_01001_11000_100_01110_1111011, .vlds 1 4 14 24 9),
    (0b11_01111_00101_01100_111_00101_1111011, .vsts 3 7 5 12 5),
    (0b10_10000_11000_11001_011_10010_1111011, .vldx 2 3 18 25 24),
    (0b01_10001_10011_01100_100_10101_1111011, .vstx 1 4 21 12 19),
    (0b00_10010_00000_01011_100_11101_1111011, .vldb 0 4 29 11),
    (0b11_10011_00000_10101_000_00101_1111011, .kst 5 21)] := by rfl

/-- More words of the vector data. -/
theorem test_decode_vector_data_b : Decodes [
    (0b00_10100_10011_01110_101_00011_1111011, .vperm 0 5 3 14 19),
    (0b11_10101_01010_01111_111_10110_1111011, .vslup 3 7 22 15 10),
    (0b00_10110_11110_00111_001_01010_1111011, .vsldn 0 1 10 7 30),
    (0b00_10111_11000_10000_110_01010_1111011, .vzip 0 6 10 16 24),
    (0b10_11000_01000_00101_011_11101_1111011, .vuzp 2 3 29 5 8),
    (0b10_11001_00000_01011_110_11000_1111011, .vsplat 2 6 24 11),
    (0b10_11010_01111_10111_001_01011_1111011, .vredadd 2 1 11 23 15),
    (0b10_11011_01010_11010_100_10001_1111011, .vfredadd 2 4 17 26 10),
    (0b11_11100_11111_01101_011_01000_1111011, .vfredmax 3 3 8 13 31)] := by rfl

/-- R74, R75: what no word stands for is not well formed, and the words that would name it are refused. -/
theorem test_ill_formed_vcvtf : Instr.wf (.vcvtf 1 0 1 2 3) = false ∧ Refused 0b01_00000_00001_00011_000_00010_1111011 = true := by
  decide
theorem test_ill_formed_vtdec : Instr.wf (.vtdec 3 0 0 2 3) = false ∧ Refused 0b11_00100_00000_00011_000_00010_1111011 = true := by
  decide
theorem test_refused_vtenc : Refused 0b10_00011_00000_00011_000_00010_1111011 = true := by decide

/-! ### Small states -/

/-- A core in the midst of a task of job 5 at priority 1, with given x registers. -/
def coreOf (x : FMap Word) (mode : Priv := .u) : Core :=
  { h := { mode := mode, hs := .run, pc := 0x100, x := x, task := some { item := { job := 5 }, prio := 1, budget := 0x100000 } } }
/-- Memory that holds words, and zero elsewhere. -/
def memOf (l : List (Nat × Word)) : Mem := l.foldl (fun m p => m.putData p.1 p.2) {}
/-- A wafer whose slot 0 has a core. -/
def wafer (c : Core) (l : List (Nat × Word) := []) : State := { cores := [(0, c)], mem := memOf l }
/-- The core inside a recovery region, and inside a transaction. -/
def regionOf (x : FMap Word) : Core :=
  { coreOf x with r.stack := [{ txn := false, mark := 0x8000, begin_ := 0x40, count := 0 }], r.logTop := 0x8090, g.undo := 0x8000, g.undol := 0x9000 }
def txnOf (x : FMap Word) : Core :=
  { coreOf x with r.stack := [{ txn := true, mark := 0x8000, begin_ := 0x40, count := 0, stamp := 3 }], r.logTop := 0x8090,
                  g.undo := 0x8000, g.undol := 0x9000 }

/-! ### Witnesses -/

theorem witness_IntegerAndJumpForms :
    (∃ i, ∃ s : State, ∃ srcs rd v, intForm i s = some (srcs, rd, v) ∧ s.free srcs [rd] = true ∧ rd = 0) ∧
    (∃ i, ∃ s : State, ∃ srcs rd v, intForm i s = some (srcs, rd, v) ∧ s.free srcs [rd] = true ∧ v = BitVec.allOnes 64) ∧
    (∃ i, ∃ s : State, ∃ srcs rd, jumpForm i s = some (srcs, rd, none) ∧ s.free srcs [rd] = true) ∧
    (∃ i, ∃ s : State, ∃ srcs rd a, jumpForm i s = some (srcs, rd, some a) ∧ s.free srcs [rd] = true ∧ a.toNat % 4 = 0) ∧
    ∃ i, ∃ s : State, ∃ srcs rd a, jumpForm i s = some (srcs, rd, some a) ∧ s.free srcs [rd] = true ∧ a.toNat % 4 ≠ 0 :=
  ⟨⟨.add 0 1 2, wafer (coreOf [(1, 7)]), _, _, _, rfl, by decide, rfl⟩,
    ⟨.div 3 1 2, wafer (coreOf [(1, 7)]), _, _, _, rfl, by decide, by decide⟩,
    ⟨.beq 1 2 4, wafer (coreOf [(1, 7)]), _, _, rfl, by decide⟩,
    ⟨.bne 1 2 0xFFE, wafer (coreOf [(1, 7)]), _, _, _, rfl, by decide, by decide⟩,
    ⟨.jal 1 1, wafer (coreOf []), _, _, _, rfl, by decide, by decide⟩⟩

theorem witness_LoadsAndStores :
    (∃ i, ∃ s : State, ∃ a k rd n signed, loadForm i = some (a, k, rd, n, signed) ∧ s.free [a] [rd] = true ∧ s.core.inTxn = false ∧
      (s.addr a k).toNat % n = 0 ∧ inWindow (s.addr a k) n = true ∧ s.core.postedOn (wordAt (s.flat (s.addr a k))) = false ∧
      (s.mem.tag (s.flat (s.addr a k))).flips = 0 ∧ s.seesPoison (s.flat (s.addr a k)) = false ∧ s.crc = [] ∧ s.addr a k = 0x1FFFFF8) ∧
    (∃ i, ∃ s : State, ∃ a k b n, storeForm i = some (a, k, b, n) ∧ s.free [a, b] [] = true ∧ s.core.plain = true ∧
      (s.addr a k).toNat % n = 0 ∧ inWindow (s.addr a k) n = true ∧ (n = 8 ∨ s.clean (s.flat (s.addr a k)) = true) ∧
      s.addr a k = 0xFFFFF) ∧
    (∃ i, ∃ s : State, ∃ a k rd n signed, loadForm i = some (a, k, rd, n, signed) ∧ s.free [a] [rd] = true ∧ (s.addr a k).toNat % n ≠ 0) ∧
    (∃ i, ∃ s : State, ∃ a k rd n signed, loadForm i = some (a, k, rd, n, signed) ∧ s.free [a] [rd] = true ∧
      (s.addr a k).toNat % n = 0 ∧ inWindow (s.addr a k) n = false ∧ s.addr a k = 0x100000) ∧
    (∃ i, ∃ s : State, ∃ a k b n, storeForm i = some (a, k, b, n) ∧ s.free [a, b] [] = true ∧ (s.addr a k).toNat % n ≠ 0) ∧
    ∃ i, ∃ s : State, ∃ a k b n, storeForm i = some (a, k, b, n) ∧ s.free [a, b] [] = true ∧ (s.addr a k).toNat % n = 0 ∧
      inWindow (s.addr a k) n = false ∧ s.addr a k = 0x2000000 :=
  ⟨⟨.ld 3 1 0xFF8, wafer (coreOf [(1, 0x2000000)]), _, _, _, _, _, rfl, by decide⟩,
    ⟨.sb 2 1 0xFFF, wafer (coreOf [(1, 0x100000)]), _, _, _, _, rfl, by decide⟩,
    ⟨.lh 3 1 1, wafer (coreOf [(1, 0x10)]), _, _, _, _, _, rfl, by decide⟩,
    ⟨.lb 3 1 0, wafer (coreOf [(1, 0x100000)]), _, _, _, _, _, rfl, by decide⟩,
    ⟨.sd 2 1 4, wafer (coreOf [(1, 0x10)]), _, _, _, _, rfl, by decide⟩,
    ⟨.sw 2 1 0, wafer (coreOf [(1, 0x2000000)]), _, _, _, _, rfl, by decide⟩⟩

/-- A load in a transaction that may read, whose line is the 64th or the 65th, or whose word is bad or fails at the crossbar. -/
theorem witness_LoadsAndStores_loads :
    (∃ i, ∃ s : State, ∃ a k rd n signed, loadForm i = some (a, k, rd, n, signed) ∧ s.free [a] [rd] = true ∧ s.core.inTxn = true ∧
      (s.addr a k).toNat % n = 0 ∧ inWindow (s.addr a k) n = true ∧ s.core.postedOn (wordAt (s.flat (s.addr a k))) = false ∧
      (s.readSet (s.addr a k)).length = 64 ∧ (s.mem.tag (s.flat (s.addr a k))).flips = 0 ∧
      s.seesPoison (s.flat (s.addr a k)) = false ∧ s.crc = []) ∧
    (∃ i, ∃ s : State, ∃ a k rd n signed, loadForm i = some (a, k, rd, n, signed) ∧ s.free [a] [rd] = true ∧ s.core.inTxn = true ∧
      (s.addr a k).toNat % n = 0 ∧ inWindow (s.addr a k) n = true ∧ s.core.postedOn (wordAt (s.flat (s.addr a k))) = false ∧
      (s.readSet (s.addr a k)).length = 65) ∧
    (∃ i, ∃ s : State, ∃ a k rd n signed, loadForm i = some (a, k, rd, n, signed) ∧ (s.free [a] [rd] = true ∧ s.core.inTxn = true ∧
      (s.addr a k).toNat % n = 0 ∧ inWindow (s.addr a k) n = true ∧ s.core.postedOn (wordAt (s.flat (s.addr a k))) = false ∧
      (s.readSet (s.addr a k)).length = 1 ∧ s.core.e.sb = [] ∧ FMap.find s.core.r.wset (wordAt (s.flat (s.addr a k))) = none ∧
      s.crc = []) ∧ s.mem.broken (s.flat (s.addr a k))) ∧
    ∃ i, ∃ s : State, ∃ a k rd n signed l, loadForm i = some (a, k, rd, n, signed) ∧ s.free [a] [rd] = true ∧ s.core.inTxn = false ∧
      (s.addr a k).toNat % n = 0 ∧ inWindow (s.addr a k) n = true ∧ s.core.postedOn (wordAt (s.flat (s.addr a k))) = false ∧
      s.core.e.sb = [] ∧ FMap.find s.core.r.wset (wordAt (s.flat (s.addr a k))) = none ∧ s.clean (s.flat (s.addr a k)) = true ∧
      0x1000000 ≤ (s.addr a k).toNat ∧ s.crc = true :: l :=
  ⟨⟨.lw 3 1 0, wafer { txnOf [(1, 0x104)] with r.rset := (List.range 63).map fun i => (0x1000 + 64 * i, 0) }, _, _, _, _, _, rfl, by decide⟩,
    ⟨.lw 3 1 0, wafer { txnOf [(1, 0x104)] with r.rset := (List.range 64).map fun i => (0x1000 + 64 * i, 0) }, _, _, _, _, _, rfl, by decide⟩,
    ⟨.lb 3 1 0, { wafer (txnOf [(1, 0x104)]) with mem := ({} : Mem).putTag 0x100 { flips := 3 } }, _, _, _, _, _, rfl, by decide,
      .inr ⟨0, 1, by decide, by decide, by decide⟩⟩,
    ⟨.ld 3 1 0, { wafer (coreOf [(1, 0x1000000)]) with crc := [true] }, _, _, _, _, _, [], rfl, by decide⟩⟩

/-- A store that meets the log, or part of a poisoned word outside entries. -/
theorem witness_LoadsAndStores_stores :
    (∃ i, ∃ s : State, ∃ a k b n, storeForm i = some (a, k, b, n) ∧ s.free [a, b] [] = true ∧ (s.addr a k).toNat % n = 0 ∧
      inWindow (s.addr a k) n = true ∧ (s.addr a k).toNat < s.core.g.undol.toNat ∧ s.core.g.undo.toNat < (s.addr a k).toNat + n ∧
      s.core.r.stack ≠ [] ∧ (s.addr a k).toNat + n = 0x9000) ∧
    ∃ i, ∃ s : State, ∃ a k b n, storeForm i = some (a, k, b, n) ∧ (s.free [a, b] [] = true ∧ (s.addr a k).toNat % n = 0 ∧
      inWindow (s.addr a k) n = true ∧ s.core.r.stack = [] ∧ s.core.e.sb = [] ∧ n < 8) ∧ s.mem.broken (s.flat (s.addr a k)) :=
  ⟨⟨.sd 2 1 0, wafer (regionOf [(1, 0x8FF8)]), _, _, _, _, rfl, by decide⟩,
    ⟨.sw 2 1 0, { wafer (coreOf [(1, 0x104)]) with mem := ({} : Mem).putTag 0x100 { poison := true } }, _, _, _, _, rfl, by decide,
      .inl (by decide)⟩⟩

/-- A store in an open entry: done, with the write set or the log full, or to part of a bad word. -/
theorem witness_LoadsAndStores_entries :
    let may (i : Instr) (s : State) (a : XReg) (k : BitVec 12) (b : XReg) (n : Nat) (e : Entry) (rest : List Entry) : Prop :=
      storeForm i = some (a, k, b, n) ∧ s.free [a, b] [] = true ∧ (s.addr a k).toNat % n = 0 ∧ inWindow (s.addr a k) n = true ∧
      s.core.r.stack = e :: rest ∧ s.core.atTask = true ∧ s.core.e.sb = [] ∧ s.cur < slotCount ∧
      ((s.addr a k).toNat + n ≤ s.core.g.undo.toNat ∨ s.core.g.undol.toNat ≤ (s.addr a k).toNat)
    (∃ i s a k b n e rest, may i s a k b n e rest ∧ s.core.inTxn = true ∧ 32 < s.core.writeLines (lineAt (s.flat (s.addr a k)))) ∧
    (∃ i s a k b n e rest, may i s a k b n e rest ∧ s.core.inTxn = false ∧ e.words = [] ∧ s.core.g.undol.toNat < s.core.r.logTop + 16) ∧
    (∃ i s a k b n e rest, may i s a k b n e rest ∧ s.core.inTxn = false ∧ e.words = [] ∧ s.core.r.logTop + 16 = s.core.g.undol.toNat ∧
      s.core.r.logTop % 16 = 0 ∧ s.core.g.undo.toNat ≤ s.core.r.logTop ∧ (s.mem.tag (s.flat (s.addr a k))).flips = 0 ∧ n = 8 ∧
      s.seesPoison (s.flat (s.addr a k)) = true ∧ s.crc = [] ∧ s.unwatchedRange (spFlat s.cur s.core.r.logTop) 16 = true ∧
      s.unwatched (s.flat (s.addr a k)) = true) ∧
    (∃ i s a k b n e rest, may i s a k b n e rest ∧ s.core.inTxn = true ∧ s.core.writeLines (lineAt (s.flat (s.addr a k))) = 1 ∧
      e.txn = true ∧ rest.any Entry.txn = false ∧ (s.mem.tag (s.flat (s.addr a k))).flips = 0 ∧ n = 1 ∧
      s.seesPoison (s.flat (s.addr a k)) = false ∧ s.crc = [] ∧ s.core.r.logTop % 16 = 0 ∧
      s.core.g.undo.toNat ≤ s.core.r.logTop ∧ s.unwatchedRange (spFlat s.cur s.core.r.logTop) 16 = true) ∧
    ∃ i s a k b n e rest, may i s a k b n e rest ∧ (s.core.inTxn = false ∧ s.core.r.logTop + 16 ≤ s.core.g.undol.toNat ∧ n < 8 ∧
      FMap.find s.core.r.wset (wordAt (s.flat (s.addr a k))) = none) ∧ s.mem.broken (s.flat (s.addr a k)) :=
  ⟨⟨.sd 2 1 0, wafer { txnOf [(1, 0x100)] with r.wset := (List.range 32).map fun i => (0x1000 + 64 * i, {}) }, 1, 0, 2, 8, _, _,
      ⟨rfl, by decide, by decide, by decide, rfl, by decide⟩, by decide⟩,
    ⟨.sd 2 1 0, wafer { regionOf [(1, 0x100)] with r.logTop := 0x8FF8 }, 1, 0, 2, 8, _, _,
      ⟨rfl, by decide, by decide, by decide, rfl, by decide⟩, by decide⟩,
    ⟨.sd 2 1 0, { wafer { regionOf [(1, 0x9000)] with r.logTop := 0x8FF0 } with mem := ({} : Mem).putTag 0x9000 { poison := true } },
      1, 0, 2, 8, _, _, ⟨rfl, by decide, by decide, by decide, rfl, by decide⟩, by decide⟩,
    ⟨.sb 2 1 0, wafer (txnOf [(1, 0x7FFF)]), 1, 0, 2, 1, _, _, ⟨rfl, by decide, by decide, by decide, rfl, by decide⟩, by decide⟩,
    ⟨.sh 2 1 0, { wafer (regionOf [(1, 0x106)]) with mem := ({} : Mem).putTag 0x100 { poison := true } }, 1, 0, 2, 2, _, _,
      ⟨rfl, by decide, by decide, by decide, rfl, by decide⟩, by decide, .inl (by decide)⟩⟩

theorem witness_AmosAndReservations :
    (∃ i, ∃ s : State, ∃ rd a b n, amoForm i = some (rd, a, b, n) ∧ s.free [a, b] [rd] = true ∧ s.core.plain = true ∧ s.core.e.sb = [] ∧
      (s.x a).toNat % n = 0 ∧ (s.x a).toNat + n ≤ spSize ∧ s.clean (spFlat s.cur (s.x a).toNat) = true ∧
      s.unwatched (spFlat s.cur (s.x a).toNat) = true ∧ (s.x a).toNat + n = spSize) ∧
    (∃ i, ∃ s : State, ∃ rd a n, lrForm i = some (rd, a, n) ∧ s.free [a] [rd] = true ∧ s.core.plain = true ∧ s.core.e.sb = [] ∧ s.crc = [] ∧
      (s.x a).toNat % n = 0 ∧ inWindow (s.x a) n = true ∧ s.clean (s.flat (s.x a)) = true) ∧
    (∃ i, ∃ s : State, ∃ rd a b n, scForm i = some (rd, a, b, n) ∧ s.free [a, b] [rd] = true ∧ s.core.plain = true ∧ s.core.e.sb = [] ∧ s.crc = [] ∧
      (s.x a).toNat % n = 0 ∧ inWindow (s.x a) n = true ∧ (n = 8 ∨ s.clean (s.flat (s.x a)) = true) ∧
      s.unwatched (s.flat (s.x a)) = true ∧ s.core.h.resv = some (lineAt (s.flat (s.x a)))) ∧
    ∃ i, ∃ s : State, ∃ rd a b n, scForm i = some (rd, a, b, n) ∧ s.free [a, b] [rd] = true ∧ s.core.plain = true ∧ s.core.e.sb = [] ∧ s.crc = [] ∧
      (s.x a).toNat % n = 0 ∧ inWindow (s.x a) n = true ∧ (n = 8 ∨ s.clean (s.flat (s.x a)) = true) ∧
      s.unwatched (s.flat (s.x a)) = true ∧ s.core.h.resv ≠ some (lineAt (s.flat (s.x a))) :=
  ⟨⟨.amoaddW false false 3 1 2, wafer (coreOf [(1, 0xFFFFC)]), _, _, _, _, rfl, by decide⟩,
    ⟨.lrD false false 3 1, wafer (coreOf [(1, 0x1000000)]), _, _, _, rfl, by decide⟩,
    ⟨.scW false false 3 1 2, wafer { coreOf [(1, 0x44)] with h.resv := some 0x40 }, _, _, _, _, rfl, by decide⟩,
    ⟨.scD false false 3 1 2, wafer { coreOf [(1, 0x80)] with h.resv := some 0x40 }, _, _, _, _, rfl, by decide⟩⟩

theorem witness_CsrFormsReadAndWrite :
    (∃ i, ∃ s : State, ∃ old srcs rd k, csrWrites i s old = some (srcs, rd, k, none) ∧ s.csrValue s.cur k.toNat = some old ∧
      s.core.csrAllowed k.toNat false = true ∧ s.free srcs [rd] = true) ∧
    (∃ i, ∃ s : State, ∃ old srcs rd k v, csrWrites i s old = some (srcs, rd, k, some v) ∧ s.csrValue s.cur k.toNat = some old ∧
      s.core.csrAllowed k.toNat true = true ∧ s.free srcs [rd] = true ∧ s.core.csrMisuse k.toNat = false ∧
      s.core.csrStalls k.toNat = false ∧ s.core.areaInUse k.toNat = false ∧ k.toNat = 0x14D) ∧
    ∃ i, ∃ s : State, ∃ old srcs rd k v, csrWrites i s old = some (srcs, rd, k, some v) ∧ s.csrValue s.cur k.toNat = some old ∧
      s.core.csrAllowed k.toNat true = true ∧ s.free srcs [rd] = true ∧ s.core.csrMisuse k.toNat = false ∧
      s.core.csrStalls k.toNat = false ∧ s.core.areaInUse k.toNat = true :=
  ⟨⟨.csrrs 3 0x808 0, wafer (coreOf []), _, _, _, _, rfl, rfl, by decide, by decide⟩,
    ⟨.csrrw 3 0x14D 1, wafer (coreOf [(1, 7)] .s), _, _, _, _, _, rfl, rfl, by decide⟩,
    ⟨.csrrwi 0 0x5C1 0, wafer { coreOf [] .s with q.ring := [(2, { seqs := [{ seq := 1 }] })] }, _, _, _, _, _, rfl, rfl,
      by decide⟩⟩

theorem witness_TaskSelfAndPrio :
    (∃ i, ∃ s : State, ∃ rd, selfReg i = some rd ∧ s.free [] [rd] = true) ∧
    (∃ i, ∃ s : State, ∃ a k, prioReg i = some a ∧ s.free [a] [] = true ∧ s.core.h.task = some k ∧
      (s.core.h.mode = .u ∧ ((s.x a).extractLsb' 0 2 : BitVec 2).toNat < k.item.prio.toNat)) ∧
    ∃ i, ∃ s : State, ∃ a k, prioReg i = some a ∧ s.free [a] [] = true ∧ s.core.h.task = some k ∧ s.core.h.mode = .s :=
  ⟨⟨.taskSelf31, wafer (coreOf []), _, rfl, by decide⟩,
    ⟨.taskPrio0, wafer { coreOf [] with h.task := some { item := { job := 5, prio := 1 }, prio := 3, budget := 9 } }, _, _, rfl,
      by decide, rfl, by decide⟩,
    ⟨.taskPrio1, wafer (coreOf [(1, 2)] .s), _, _, rfl, by decide, rfl, rfl⟩⟩

theorem witness_TasksEndAndChain :
    (∃ s : State, ∃ k, s.core.h.task = some k ∧ s.core.mayEnd = true ∧ k.item.act = false) ∧
    (∃ s : State, ∃ k n, s.core.h.task = some k ∧ s.core.mayEnd = true ∧ s.core.actorOf k.item = some n ∧
      (s.core.actor n).en = false) ∧
    (∃ s : State, ∃ k f, s.core.h.task = some k ∧ s.core.mayEnd = true ∧ k.item.msg = true ∧
      s.core.frameAt k.item.frame.toNat = some f) ∧
    (∃ s : State, ∃ k a, s.free [a] [] = true ∧ s.core.h.task = some k ∧ s.core.mayEnd = true ∧ s.readable (s.x a) 32 4 = true) ∧
    ∃ s : State, ∃ k, s.core.h.task = some k ∧ s.core.atTask = false ∧ s.core.r.stack ≠ [] ∧ s.commandsDone = true ∧
      s.core.replyBlocked = false ∧ s.core.e.sb = [] ∧ (s.dropAll true).2 = true ∧ s.core.r.stack.any Entry.txn = true ∧
      k.item.act = false :=
  ⟨⟨wafer (coreOf []), _, rfl, by decide⟩,
    ⟨wafer { coreOf [] with
        h.task := some { item := { job := 5, frame := 0x400, act := true, chk := true }, prio := 1, budget := 9 }
        q.actors := [(63, { busy := true, state := 0x400 })] }, _, 63, rfl, by decide⟩,
    ⟨wafer { coreOf [] with
        h.task := some { item := { job := 5, frame := 0x4000, msg := true, chk := true }, prio := 1, budget := 9 }
        g.fpool := 0x0002010000000000, m.frames := [1] }, _, 1, rfl, by decide⟩,
    ⟨wafer (coreOf [(1, 0xFFFE0)]), _, 1, by decide, rfl, by decide⟩,
    ⟨wafer { txnOf [] with h.mode := .s, r.rset := [(0x1000, 0x1000)], r.wset := [(0x1000, { mask := 1 })] }, _, rfl, by decide⟩⟩

theorem witness_SpawnAndJoin :
    (∃ s : State, ∃ rl sc a, s.free [a] [] = true ∧ s.core.plain = true ∧ s.readable (s.x a) 32 4 = true ∧
      (rl = true → s.relReady s.cur sc false = true) ∧
      s.core.fifoRoom ((s.seenWord (s.x a)).extractLsb' 48 2).toNat = true ∧ rl = true) ∧
    (∃ s : State, ∃ a, s.free [a] [] = true ∧ s.core.plain = true ∧ s.core.e.sb = [] ∧ s.readable (s.x a) 32 4 = true ∧
      s.unwatched (s.flat (s.x a) + 8) = true ∧ ((s.seenWord (s.x a + 8)).extractLsb' 48 15 : BitVec 15) = 0x7FFF) ∧
    ∃ s : State, ∃ a, s.free [a] [] = true ∧ s.core.plain = true ∧ s.core.e.sb = [] ∧ s.readable (s.x a) 32 4 = true ∧
      s.unwatched (s.flat (s.x a) + 8) = true ∧ ((s.seenWord (s.x a + 8)).extractLsb' 48 15 : BitVec 15) = 1 ∧
      s.core.q.waitq.length < 4 ∧ s.core.q.waitq = [] ∧ s.jobAway s.cur (if s.core.jobOf = 0 then (s.seenWord (s.x a)).extractLsb' 50 12
        else s.core.jobOf) = false ∧ s.core.fifoRoom ((s.seenWord (s.x a)).extractLsb' 48 2).toNat = true :=
  ⟨⟨wafer (coreOf [(1, 0x200)]) [(0x200, 0x0003000000000400)], true, 3, 1, by decide⟩,
    ⟨wafer (coreOf [(1, 0x200)]) [(0x208, 0x7FFF000000000000)], 1, by decide⟩,
    ⟨wafer (coreOf [(1, 0x200)]) [(0x200, 0x0003000000000400), (0x208, 0x0001000000000000)], 1, by decide⟩⟩

theorem witness_PickAndDispatch :
    (∃ q : Sched, ∃ l, q.pickLevel = some l ∧ q.run = 256 ∧ l = 3) ∧
    (∃ q : Sched, ∃ l, q.pickLevel = some l ∧ q.run = 255 ∧ l = 0) ∧
    ∃ s : State, ∃ l q, s.arg.place < slotCount ∧ (s.coreAt s.arg.place).mayDispatch = true ∧ s.settled s.arg.place = true ∧
      (s.coreAt s.arg.place).pickable.pickLevel = some l ∧
      ((levelQ (s.coreAt s.arg.place).q l).find? fun r => (s.coreAt s.arg.place).picks r.item) = some q ∧
      let u : State := { s with cur := s.arg.place }
      let fp : Word := q.item.frame.setWidth 64
      let wp : Word := q.item.widp.setWidth 64
      fp.toNat % 64 = 0 ∧ inWindow fp 8 = true ∧ u.clean (u.flat fp) = true ∧
      (wp ≠ 0 → wp.toNat % 8 = 0 ∧ inWindow wp 8 = true ∧ u.clean (u.flat wp) = true) ∧ wp ≠ 0 ∧
      (q.item.chk = true → q.item.top = u.core.g.top) ∧ q.item.etag = false :=
  ⟨⟨{ run := 256, fifo := [(0, [{ item := {}, seq := 9 }]), (3, [{ item := {}, seq := 2 }])] }, 3, by decide⟩,
    ⟨{ run := 255, fifo := [(0, [{ item := {}, seq := 9 }]), (3, [{ item := {}, seq := 2 }])] }, 0, by decide⟩,
    ⟨{ cores := [(41471, { h := { hs := .idle }, q := { fifo := [(2, [{ item := { frame := 0x400, widp := 0xFFFF8 }, seq := 0 }])] } })],
       arg := { place := 41471 } }, 2, _, by decide, by decide, by decide, by decide, rfl, by decide⟩⟩

/-! Capabilities: word 1 is the seal of word 0, whatever it is. -/

/-- A wafer whose slot 0 has a core, with a sealed capability at 0x200 and the words after it. -/
def capWafer (c : Core) (w0 : Word) (l : List (Nat × Word)) : State :=
  { cores := [(0, c)], mem := ((memOf l).putData 0x200 w0).putData 0x208 (Config.seal 0 w0) }

theorem capWafer_words (c : Core) (w0 : Word) (l : List (Nat × Word)) (h : c.e.sb = []) :
    (capWafer c w0 l).seenWords 0x200 4 = [w0, Config.seal 0 w0, (memOf l).word 0x210, (memOf l).word 0x218] := by
  have hs : (capWafer c w0 l).core.e.sb = [] := h
  have e (a : Word) : (capWafer c w0 l).seenWord a
      = (((memOf l).putData 0x200 w0).putData 0x208 (Config.seal 0 w0)).word ((localFlat 0 a).getD 0) :=
    State.seenWord_of_drained _ a hs
  have e0 : (localFlat 0 (0x200 + BitVec.ofNat 64 (8 * 0))).getD 0 = 0x200 := by decide
  have e1 : (localFlat 0 (0x200 + BitVec.ofNat 64 (8 * 1))).getD 0 = 0x208 := by decide
  have e2 : (localFlat 0 (0x200 + BitVec.ofNat 64 (8 * 2))).getD 0 = 0x210 := by decide
  have e3 : (localFlat 0 (0x200 + BitVec.ofNat 64 (8 * 3))).getD 0 = 0x218 := by decide
  show [(capWafer c w0 l).seenWord _, (capWafer c w0 l).seenWord _, (capWafer c w0 l).seenWord _,
    (capWafer c w0 l).seenWord _] = _
  rw [e, e, e, e, e0, e1, e2, e3, Mem.putData_word_apart _ _ _ _ (by decide), Mem.putData_word, Mem.putData_word,
    Mem.putData_word_apart _ _ _ _ (by decide), Mem.putData_word_apart _ _ _ _ (by decide),
    Mem.putData_word_apart _ _ _ _ (by decide), Mem.putData_word_apart _ _ _ _ (by decide)]

theorem capFault_sealed (s : State) (w0 : Word) (job : BitVec 12) (needs : BitVec 4) (t : Nat) (h0 : capSlot w0 = some t)
    (h1 : capGen w0 = s.genOf t ∧ s.genOf t ≠ 0) (h2 : capJob w0 = job ∨ job = 0) (h3 : needs &&& ~~~capRights w0 = 0) :
    s.capFault job w0 (s.sealOf w0) needs = 0 := by
  have h4 : ¬ (capJob w0 ≠ job ∧ job ≠ 0) := fun h => h2.elim h.1 h.2
  unfold State.capFault
  rw [if_neg (fun h => h rfl), h0, if_neg (by simpa [h1.1] using h1.2), if_neg h4, if_neg (fun h => h h3)]

theorem witness_MessagesAndReplies_send :
    ∃ i : Instr, ∃ s : State, ∃ rl sc a b, ∃ long : Bool, ∃ w, (i = .msgSend rl sc a b ∧ long = false ∨ i = .msgSendl rl sc a b ∧ long = true) ∧
      s.free [a, b] [] = true ∧ s.core.plain = true ∧ s.readable (s.x a) 32 4 = true ∧ w = s.seenWords (s.x a) 4 ∧
      let w2 := w.getD 2 0
      let w3 := w.getD 3 0
      let n := if long then (w2.extractLsb' 52 11).toNat else 8
      (w2.extractLsb' 50 2 : BitVec 2) = 0 ∧ (w3.extractLsb' 50 14 : BitVec 14) = 0 ∧
      (long = true → 8 ≤ n ∧ n ≤ 1024 ∧ n % 8 = 0 ∧ s.readable (s.x b) 8 (n / 8) = true) ∧
      s.capFault s.core.jobOf (w.getD 0 0) (w.getD 1 0) (if (w2.extractLsb' 48 2 : BitVec 2) = 0 then 3 else 1) = 0 ∧
      (s.core.sendq 0).length < 16 ∧ (rl = true → s.relReady s.cur sc (slotDie (slotOf ((w.getD 0 0).extractLsb' 0 8).toNat ((w.getD 0 0).extractLsb' 8 8).toNat) != slotDie s.cur) = true) ∧
      ((w3.extractLsb' 0 48 : BitVec 48) ≠ 0 → s.core.m.credits < frameReply s.core.g) ∧ n = 1024 ∧ rl = true ∧
      (w3.extractLsb' 0 48 : BitVec 48) ≠ 0 :=
  ⟨_, capWafer { coreOf [(1, 0x200), (2, 0x400)] with g.fpool := 0x0001020000000000 } 0x0000100500030001
      [(0x210, 0x4000000000000800), (0x218, 0x900)], true, 3, 1, 2, true,
    _, .inr ⟨rfl, rfl⟩, by decide, by decide, by decide, (capWafer_words _ _ _ rfl).symm, by decide, by decide, by decide,
    capFault_sealed _ _ _ _ 1 (by decide) (by decide) (by decide) (by decide), by decide⟩

theorem witness_MessagesAndReplies_reply :
    (∃ s : State, ∃ a b, s.free [a, b] [] = true ∧ s.core.plain = true ∧ (s.x b).toNat ≤ 1024 ∧ (s.x b).toNat % 8 = 0 ∧
      (s.x a).toNat % 8 = 0 ∧ inWindow (s.x a) 1 = true ∧ s.readable (s.x a) 8 ((s.x b).toNat / 8) = true ∧
      s.core.routeOf = none) ∧
    ∃ s : State, ∃ rl sc a b i r, s.free [a, b] [] = true ∧ s.core.plain = true ∧ (s.x b).toNat ≤ 1024 ∧ (s.x b).toNat % 8 = 0 ∧
      (s.x a).toNat % 8 = 0 ∧ inWindow (s.x a) 1 = true ∧ s.readable (s.x a) 8 ((s.x b).toNat / 8) = true ∧
      s.core.routeOf = some (i, r) ∧ (s.core.sendq 1).length < 16 ∧
      (rl = true → s.relReady s.cur sc (slotDie r.origin != slotDie s.cur) = true) ∧
      s.x b = 1024 :=
  ⟨⟨wafer (coreOf [(1, 0xFFC00), (2, 1024)]), 1, 2, by decide⟩,
    ⟨wafer { coreOf [(1, 0xFFC00), (2, 1024)] with
        h.task := some { item := { job := 5, frame := 0x4000, msg := true, chk := true }, prio := 1, budget := 9 }
        g.fpool := 0x0002010000000000, m.frames := [1]
        m.routes := [(1, some { origin := 3, rcode := 0x800, rprio := 2, job := 5, top := false })] }, true, 3, 1, 2, 1, _, by decide,
      by decide, by decide, by decide, by decide, by decide, by decide, rfl, by decide⟩⟩

theorem witness_MessagesAndReplies_forward :
    ∃ s : State, ∃ rl sc a b w i r, s.free [a, b] [] = true ∧ s.core.plain = true ∧ s.readable (s.x a) 32 4 = true ∧
      w = s.seenWords (s.x a) 4 ∧
      let w2 := w.getD 2 0
      let n := (w2.extractLsb' 52 11).toNat
      (w2.extractLsb' 50 2 : BitVec 2) = 0 ∧ 8 ≤ n ∧ n ≤ 1024 ∧ n % 8 = 0 ∧ s.readable (s.x b) 8 (n / 8) = true ∧
      s.core.routeOf = some (i, r) ∧
      s.capFault s.core.jobOf (w.getD 0 0) (w.getD 1 0) (if (w2.extractLsb' 48 2 : BitVec 2) = 0 then 3 else 1) = 0 ∧
      (s.core.sendq 0).length < 16 ∧ (rl = true → s.relReady s.cur sc (slotDie (slotOf ((w.getD 0 0).extractLsb' 0 8).toNat
        ((w.getD 0 0).extractLsb' 8 8).toNat) != slotDie s.cur) = true) ∧ n = 8 :=
  ⟨capWafer { coreOf [(1, 0x200), (2, 0x400)] with
        h.task := some { item := { job := 5, frame := 0x4000, msg := true, chk := true }, prio := 1, budget := 9 }
        g.fpool := 0x0002010000000000, m.frames := [1]
        m.routes := [(1, some { origin := 3, rcode := 0x800, rprio := 2, job := 5, top := false })] } 0x0000100500010001
      [(0x210, 0x0081000000000800)], false, 0, 1, 2, _, 1, _, by decide, by decide, by decide, (capWafer_words _ _ _ rfl).symm,
    by decide, by decide, by decide, by decide, by decide, rfl,
    capFault_sealed _ _ _ _ 1 (by decide) (by decide) (by decide) (by decide), by decide⟩

/-- The words of a capability that cap.check, cap.narrow and the system forms read. -/
theorem capWafer_pair (c : Core) (w0 : Word) (l : List (Nat × Word)) (h : c.e.sb = []) :
    (capWafer c w0 l).seenWord 0x200 = w0 ∧ (capWafer c w0 l).seenWord (0x200 + 8) = Config.seal 0 w0 := by
  have hs : (capWafer c w0 l).core.e.sb = [] := h
  have e (a : Word) : (capWafer c w0 l).seenWord a
      = (((memOf l).putData 0x200 w0).putData 0x208 (Config.seal 0 w0)).word ((localFlat 0 a).getD 0) :=
    State.seenWord_of_drained _ a hs
  have e0 : (localFlat 0 0x200).getD 0 = 0x200 := by decide
  have e1 : (localFlat 0 (0x200 + 8)).getD 0 = 0x208 := by decide
  rw [e, e, e0, e1, Mem.putData_word_apart _ _ _ _ (by decide), Mem.putData_word, Mem.putData_word]
  exact ⟨rfl, rfl⟩

theorem witness_CapabilitiesOnlyShrink :
    let may (s : State) (rd a b : XReg) (w0 w1 : Word) : Prop := s.free [a, b] [rd] = true ∧ s.core.plain = true ∧
      s.readable (s.x a) 16 2 = true ∧ w0 = s.seenWord (s.x a) ∧ w1 = s.seenWord (s.x a + 8)
    let current (s : State) (w0 : Word) : Prop := (w0.extractLsb' 0 8).toNat ≤ 191 ∧ (w0.extractLsb' 8 8).toNat ≤ 215 ∧
      w0.extractLsb' 44 20 = s.genOf (slotOf (w0.extractLsb' 0 8).toNat (w0.extractLsb' 8 8).toNat) ∧
      s.genOf (slotOf (w0.extractLsb' 0 8).toNat (w0.extractLsb' 8 8).toNat) ≠ 0
    (∃ s : State, ∃ rd a b w0 w1, may s rd a b w0 w1 ∧ w1 = s.sealOf w0 ∧ current s w0 ∧ w0.extractLsb' 32 12 = s.core.jobOf ∧
      (∀ n, n < 4 → (s.x b).getLsbD n = true → w0.getLsbD (16 + n) = true) ∧ s.x b = 1) ∧
    (∃ s : State, ∃ rd a b w0 w1, may s rd a b w0 w1 ∧ w1 = s.sealOf w0 ∧ current s w0 ∧ w0.extractLsb' 32 12 = s.core.jobOf ∧
      ¬ (∀ n, n < 4 → (s.x b).getLsbD n = true → w0.getLsbD (16 + n) = true)) ∧
    (∃ s : State, ∃ rd a b w0 w1, may s rd a b w0 w1 ∧ w1 = s.sealOf w0 ∧ current s w0 ∧ w0.extractLsb' 32 12 ≠ s.core.jobOf ∧
      s.core.jobOf ≠ 0) ∧
    (∃ s : State, ∃ rd a b w0 w1, may s rd a b w0 w1 ∧ w1 = s.sealOf w0 ∧ ¬ current s w0) ∧
    (∃ s : State, ∃ rd a b, s.core.h.mode ≠ .u ∧ s.free [a, b] [rd] = true ∧ s.core.plain = true ∧ (s.x b).toNat % 16 = 0 ∧
      inWindow (s.x b) 16 = true ∧ ((s.x a).extractLsb' 0 8).toNat = 191 ∧ ((s.x a).extractLsb' 8 8).toNat = 215 ∧
      s.genOf (slotOf ((s.x a).extractLsb' 0 8).toNat ((s.x a).extractLsb' 8 8).toNat) ≠ 0) ∧
    ∃ s : State, ∃ rd a b, s.core.h.mode ≠ .u ∧ s.free [a, b] [rd] = true ∧ s.core.plain = true ∧ (s.x b).toNat % 16 = 0 ∧
      inWindow (s.x b) 16 = true ∧ ((s.x a).extractLsb' 0 8).toNat = 192 :=
  ⟨⟨capWafer (coreOf [(1, 0x200), (2, 1)]) 0x0000100500030001 [], 3, 1, 2, _, _, ⟨by decide, by decide, by decide,
      (capWafer_pair _ _ _ rfl).1.symm, (capWafer_pair _ _ _ rfl).2.symm⟩, rfl, by decide, by decide, by decide, rfl⟩,
    ⟨capWafer (coreOf [(1, 0x200), (2, 8)]) 0x0000100500030001 [], 3, 1, 2, _, _, ⟨by decide, by decide, by decide,
      (capWafer_pair _ _ _ rfl).1.symm, (capWafer_pair _ _ _ rfl).2.symm⟩, rfl, by decide, by decide,
      fun h => by have := h 3 (by decide) (by decide); revert this; decide⟩,
    ⟨capWafer (coreOf [(1, 0x200), (2, 1)]) 0x0000100600030001 [], 3, 1, 2, _, _, ⟨by decide, by decide, by decide,
      (capWafer_pair _ _ _ rfl).1.symm, (capWafer_pair _ _ _ rfl).2.symm⟩, rfl, by decide, by decide, by decide⟩,
    ⟨capWafer (coreOf [(1, 0x200), (2, 1)]) 0x0000200500030001 [], 3, 1, 2, _, _, ⟨by decide, by decide, by decide,
      (capWafer_pair _ _ _ rfl).1.symm, (capWafer_pair _ _ _ rfl).2.symm⟩, rfl, by decide⟩,
    ⟨wafer (coreOf [(1, 0xD7BF), (2, 0xFFFF0)] .s), 3, 1, 2, by decide⟩,
    ⟨wafer (coreOf [(1, 0xC0), (2, 0x1000000)] .m), 3, 1, 2, by decide⟩⟩

theorem witness_SystemFormsAtTheIssuer :
    (∃ i, ∃ s : State, ∃ op needs a srcs rd sel w0 w1, netForm i s = some (op, needs, a, srcs, rd, sel) ∧
      s.free srcs [rd] = true ∧ s.core.plain = true ∧ s.readable (s.x a) 16 2 = true ∧ w0 = s.seenWord (s.x a) ∧
      w1 = s.seenWord (s.x a + 8) ∧ s.capFault s.core.jobOf w0 w1 needs = 0 ∧ (s.core.sendq 3).length < 16 ∧ op ≠ .remap) ∧
    (∃ i, ∃ s : State, ∃ op needs a srcs rd sel w0 w1, netForm i s = some (op, needs, a, srcs, rd, sel) ∧
      s.free srcs [rd] = true ∧ s.core.plain = true ∧ s.readable (s.x a) 16 2 = true ∧ w0 = s.seenWord (s.x a) ∧
      w1 = s.seenWord (s.x a + 8) ∧ s.capFault s.core.jobOf w0 w1 needs = 0 ∧ (s.core.sendq 3).length < 16 ∧ op = .remap) ∧
    (∃ s : State, s.core.h.mode ≠ .u ∧ s.core.plain = true) ∧
    (∃ s : State, ∃ a b, (∀ r, r = a ∨ r = b → hasBit s.core.h.pend r = false ∧ hasBit s.core.h.hpend r = false) ∧
      (s.x b).toNat % 256 = 3) ∧
    (∃ s : State, ∃ a b, (∀ r, r = a ∨ r = b → hasBit s.core.h.pend r = false ∧ hasBit s.core.h.hpend r = false) ∧
      (s.x b).toNat / 256 % 256 = 72) ∧
    (∃ s : State, ∃ a b f, s.free [a, b] [] = true ∧ (s.x a).toNat % 8 = 0 ∧
      (s.core.h.mode = .u → inWindow (s.x a) 8 = true) ∧ s.resolve s.cur 0 (s.x a) = .at_ f ∧
      ((s.x b).extractLsb' 0 8).toNat = 2 ∧ ((s.x b).extractLsb' 8 8).toNat = 71) :=
  ⟨⟨.sysInspect 3 1 2, capWafer (coreOf [(1, 0x200)]) 0x0000100500080001 [], _, _, _, _, _, _, _, _, rfl, by decide, by decide,
      by decide, (capWafer_pair _ _ _ rfl).1.symm, (capWafer_pair _ _ _ rfl).2.symm,
      capFault_sealed _ _ _ _ 1 (by decide) (by decide) (by decide) (by decide), by decide⟩,
    ⟨.sysRemap 1 2, capWafer (coreOf [(1, 0x200), (2, 1)] .s) 0x0000100500040001 [], _, _, _, _, _, _, _, _, rfl, by decide, by decide,
      by decide, (capWafer_pair _ _ _ rfl).1.symm, (capWafer_pair _ _ _ rfl).2.symm,
      capFault_sealed _ _ _ _ 1 (by decide) (by decide) (by decide) (by decide), by decide⟩,
    ⟨wafer (coreOf [] .s), by decide⟩,
    ⟨wafer { coreOf [(2, 3)] with h.mark := 4 }, 1, 2, by decide⟩, ⟨wafer (coreOf [(2, 0x4800)]), 1, 2, by decide⟩,
    ⟨wafer (coreOf [(1, 0xFFFF8), (2, 0x4702)]), 1, 2, 0xFFFF8, by decide⟩⟩

theorem witness_CallsAndReturns :
    (∃ s : State, s.core.h.hs ≠ .idle ∧ s.core.h.mode = .m ∧ s.core.h.task = none ∧ s.core.t.mepc = 0) ∧
    (∃ s : State, s.core.h.hs ≠ .idle ∧ s.core.h.mode = .s ∧ s.core.c.mstatus.getLsbD 22 = false ∧ s.core.h.task = none ∧
      s.core.t.sepc ≠ 0) ∧
    ∃ s : State, ∃ k, s.core.h.hs ≠ .idle ∧ s.core.h.mode = .m ∧ s.core.h.task = some k ∧ k.overran = true :=
  ⟨⟨State.reset, by decide⟩,
    ⟨wafer { h := { mode := .s, hs := .run }, t := { sepc := 4 } }, by decide⟩,
    ⟨wafer { coreOf [] .m with h.task := some { item := { job := 5 }, prio := 1, budget := 9, overran := true } }, _, by decide, rfl,
      rfl, rfl⟩⟩

theorem witness_FencesAndWaits :
    (∃ i, ∃ s : State, fenceForm i s = some true) ∧ (∃ i, ∃ s : State, fenceForm i s = some false) ∧
    (∃ s : State, s.core.h.mode = .s ∧ s.wfiPending s.cur = false ∧ s.core.c.mstatus.getLsbD 21 = false) ∧
    (∃ s : State, s.core.h.mode = .m ∧ s.wfiPending s.cur = true) ∧
    ∃ s : State, ∃ a b, s.core.h.mode = .s ∧ s.core.c.mstatus.getLsbD 20 = false ∧ s.free [a, b] [] = true ∧ a = 0 ∧ b = 0 :=
  ⟨⟨.fenceScWafer, wafer (coreOf []), rfl⟩, ⟨.fenceScWafer, wafer { coreOf [] with m.nbOut := 1 }, rfl⟩,
    ⟨wafer (coreOf [] .s), by decide⟩,
    ⟨wafer { coreOf [] .m with c.mie := 2, c.ssip := true }, by decide⟩, ⟨wafer (coreOf [] .s), 0, 0, by decide⟩⟩

/-! Regions: the undo log from 0x1000 to 0x2000. -/

/-- The state that an answer leads to. -/
def after (o : Host.Outcome State Fault Refusal) : State :=
  match o with
  | .next t => t
  | _ => State.reset
def goesOn (o : Host.Outcome State Fault Refusal) : Bool :=
  match o with
  | .next _ => true
  | _ => false
theorem next_after {o : Host.Outcome State Fault Refusal} (h : goesOn o = true) : o = .next (after o) := by
  cases o with
  | next t => rfl
  | fault f => simp [goesOn] at h
  | refused r => simp [goesOn] at h

/-- A task with an undo log, and given region entries. -/
def logCore (x : FMap Word) (stack : List Entry := []) : Core :=
  { coreOf x with g.undo := 0x1000, g.undol := 0x2000, r.logTop := 0x1000, r.stack := stack }

theorem witness_BeginPreserveElse :
    (∃ s : State, ∃ txn : Bool, ∃ a : XReg,
      let l := if txn then maskNames (s.x a) [] else []
      (txn = true → s.free (a :: maskX l) [] = true) ∧ s.core.r.stack.length < 8 ∧
      s.core.logFits (144 + recordBytes l) = true ∧ s.core.e.sb = [] ∧
      s.unwatchedRange (spFlat s.cur s.core.r.logTop) (144 + recordBytes l) = true ∧ txn = true ∧ l = [1, 32]) ∧
    (∃ s : State, s.core.r.stack.length = 7 ∧ s.core.logFits 144 = true ∧ s.core.e.sb = [] ∧
      s.core.r.logTop + 144 = s.core.g.undol.toNat ∧ s.unwatchedRange (spFlat s.cur s.core.r.logTop) 144 = true) ∧
    (∃ s : State, ∃ a e rest, s.core.r.stack = e :: rest ∧
      let l := maskNames (s.x a) e.regs
      s.free (a :: maskX l) [] = true ∧ s.core.logFits (recordBytes l) = true ∧
      s.unwatchedRange (spFlat s.cur s.core.r.logTop) (recordBytes l) = true ∧ l = [31, 63]) ∧
    (∃ s : State, ∃ a j, s.free [a] [] = true ∧ s.core.r.stack.findIdx? Entry.txn = some j ∧ (s.x a).toNat % 4 = 0 ∧ j = 1) ∧
    ∃ s : State, ∃ a j, s.free [a] [] = true ∧ s.core.r.stack.findIdx? Entry.txn = some j ∧ (s.x a).toNat % 4 = 2 :=
  ⟨⟨wafer (logCore [(1, 0x100000002)]), true, 1, by decide⟩,
    ⟨wafer { logCore [] (List.replicate 7 { txn := false, mark := 0x1000, begin_ := 0x100 }) with r.logTop := 0x1F70 }, by decide⟩,
    ⟨wafer (logCore [(1, 0x8000000080000000)] [{ txn := true, mark := 0x1000, begin_ := 0x100, regs := [5] }]), 1, _, _, rfl,
      by decide⟩,
    ⟨wafer (logCore [(1, 0x800)] [{ txn := false, mark := 0x1000, begin_ := 0x100 }, { txn := true, mark := 0x1000, begin_ := 0x100 }]),
      1, 1, by decide⟩,
    ⟨wafer (logCore [(1, 0x802)] [{ txn := true, mark := 0x1000, begin_ := 0x100 }]), 1, 0, by decide⟩⟩

theorem witness_RegionFormsThatRollBack :
    (∃ s : State, s.core.r.closing = false ∧ ∀ e, s.core.r.stack.head? = some e → e.txn = true) ∧
    (∃ s : State, s.core.r.closing = false ∧ (∃ e, s.core.r.stack.head? = some e) ∧
      (∀ e, s.core.r.stack.head? = some e → e.txn = false) ∧ ∀ e ∈ s.core.r.stack, e.txn = false) ∧
    (∃ s : State, ∃ a : XReg, s.core.r.closing = false ∧ s.core.r.stack = [] ∧ s.free [a] [] = true) ∧
    (∃ s : State, ∃ e rest, s.core.r.stack = e :: rest ∧ e.txn = false ∧ s.commandsDone = true ∧ s.rollsBack 0 true = true) ∧
    (∃ s : State, ∃ j e, s.core.r.stack.findIdx? Entry.txn = some j ∧ s.core.r.stack[j]? = some e ∧ s.commandsDone = true ∧
      s.rollsBack j false = true) ∧
    (∃ s : State, ∃ e, s.core.r.stack = [e] ∧ e.txn = true ∧ e.alt ≠ 0 ∧ s.commandsDone = true ∧
      (s.popLog (e.mark + 144) true (some e.mark) (s.core.r.logTop / 16 + 1)).2 = none) ∧
    ∃ s : State, ∃ e k, s.core.r.stack = [e] ∧ e.txn = true ∧ e.alt = 0 ∧ s.core.r.doomed = false ∧ s.commandsDone = true ∧
      s.core.h.task = some k ∧ s.rollsBack 0 false = true ∧ max 1 s.core.r.rset.length ≤ s.wakeFree (slotCluster s.cur) :=
  ⟨⟨wafer (logCore []), by decide, by decide⟩,
    ⟨wafer (logCore [] [{ txn := false, mark := 0x1000, begin_ := 0x100 }]), by decide, ⟨_, rfl⟩, by
      intro e h; cases h; rfl, by decide⟩,
    ⟨wafer (logCore []), 1, by decide⟩,
    ⟨after (exec .rcvBegin (wafer (logCore []))), { txn := false, mark := 0x1000, begin_ := 0x100 }, [], by decide +kernel⟩,
    ⟨after (exec (.txnBegin 1) (wafer (logCore [(1, 2)]))), 0,
      { txn := true, mark := 0x1000, begin_ := 0x100, regs := [1], stamp := 1 }, by decide +kernel⟩,
    ⟨after (exec (.txnElse 1) (after (exec (.txnBegin 1) (wafer (logCore [(1, 4)]))))),
      { txn := true, mark := 0x1000, begin_ := 0x100, regs := [2], stamp := 1, alt := 4 }, by decide +kernel⟩,
    ⟨after (exec (.txnBegin 1) (wafer (logCore [(1, 2)]))),
      { txn := true, mark := 0x1000, begin_ := 0x100, regs := [1], stamp := 1 },
      { item := { job := 5 }, prio := 1, budget := 0x100000 }, by decide +kernel⟩⟩

theorem witness_EndsCloseAnEntry :
    (∃ s : State, ∃ e, s.core.r.stack = [e] ∧ e.txn = false ∧ s.core.r.closing = false ∧ s.core.r.hold = [] ∧
      s.core.r.owed = none) ∧
    (∃ s : State, ∃ e p rest, s.core.r.stack = e :: p :: rest ∧ s.core.r.closing = false ∧
      (e.txn = true → rest.any Entry.txn = true ∨ p.txn = true) ∧ e.txn = true) ∧
    (∃ s : State, ∃ e p rest, s.core.r.stack = e :: p :: rest ∧ s.core.r.closing = false ∧ e.txn = false) ∧
    ∃ s : State, ∃ e, s.core.r.stack = [e] ∧ e.txn = true ∧ s.core.r.closing = false ∧ s.core.r.hold = [] ∧
      s.core.r.owed = none ∧ s.core.e.sb = [] ∧ s.core.r.doomed = false ∧ FMap.wf {} s.core.r.wset = true ∧
      (∀ p ∈ s.core.r.wset, p.1 % 8 = 0 ∧ p.2.full = none ∧ s.clean p.1 = true ∧ s.unwatched p.1 = true) ∧
      s.core.r.wset ≠ [] :=
  ⟨⟨wafer (logCore [] [{ txn := false, mark := 0x1000, begin_ := 0x100 }]), _, rfl, by decide⟩,
    ⟨wafer (logCore [] [{ txn := true, mark := 0x1090, begin_ := 0x104 }, { txn := true, mark := 0x1000, begin_ := 0x100 }]), _, _,
      _, rfl, by decide⟩,
    ⟨wafer (logCore [] [{ txn := false, mark := 0x1090, begin_ := 0x104 }, { txn := true, mark := 0x1000, begin_ := 0x100 }]), _, _,
      _, rfl, by decide⟩,
    ⟨wafer { logCore [] [{ txn := true, mark := 0x1000, begin_ := 0x100 }] with
        r.wset := [(0x200, { data := 7, mask := 0x0F })] }, _, rfl, by decide⟩⟩

theorem witness_AFailedRegionRestoresMemory :
    ∃ s t u : State, ∃ a b, s.core.r.stack = [] ∧ s.core.r.hold = [] ∧ s.core.e.sb = [] ∧ s.commandsDone = true ∧
      s.cur < slotCount ∧ s.noWatchers = true ∧ s.core.atTask = true ∧ s.core.logFits 160 = true ∧ s.core.h.hpend = 0 ∧
      s.free [a, b] [] = true ∧ (s.x a).toNat % 8 = 0 ∧ inWindow (s.x a) 8 = true ∧
      ((s.x a).toNat + 8 ≤ s.core.g.undo.toNat ∨ s.core.g.undol.toNat ≤ (s.x a).toNat) ∧
      s.core.g.undo.toNat ≤ s.core.r.logTop ∧ s.clean (s.flat (s.x a)) = true ∧ exec .rcvBegin s = .next t ∧
      exec (.sd b a 0) t = .next u :=
  let s := wafer (logCore [(1, 0xFF8), (2, 7)])
  let t := after (exec .rcvBegin s)
  ⟨s, t, after (exec (.sd 2 1 0) t), 1, 2, by decide, by decide, by decide, by decide, by decide, by decide, by decide, by decide,
    by decide, by decide, by decide, by decide, by decide, by decide, by decide, next_after (by decide), next_after (by decide)⟩

theorem witness_TaggedFormsAndSamples :
    (∃ i, ∃ s : State, ∃ a srcs dsts stores o, feOperands i = some (a, srcs, dsts, stores, o) ∧ s.free srcs dsts = true ∧
      s.core.plain = true ∧ s.core.e.sb = [] ∧ s.crc = [] ∧ (o.rl = true → s.core.m.nbOut = 0) ∧ (s.x a).toNat % 8 = 0 ∧
      inWindow (s.x a) 8 = true ∧ feGoes i (s.mem.tag (s.flat (s.x a))).full = true ∧ s.clean (s.flat (s.x a)) = true ∧
      s.unheard (s.flat (s.x a)) = true ∧ s.unwatched (s.flat (s.x a)) = true ∧ stores = false ∧
      (s.mem.tag (s.flat (s.x a))).full = true) ∧
    (∃ i, ∃ s : State, ∃ a srcs dsts stores o, feOperands i = some (a, srcs, dsts, stores, o) ∧ s.free srcs dsts = true ∧
      s.core.plain = true ∧ s.core.e.sb = [] ∧ s.crc = [] ∧ (o.rl = true → s.core.m.nbOut = 0) ∧ (s.x a).toNat % 8 = 0 ∧
      inWindow (s.x a) 8 = true ∧ feGoes i (s.mem.tag (s.flat (s.x a))).full = true ∧ s.clean (s.flat (s.x a)) = true ∧
      s.unheard (s.flat (s.x a)) = true ∧ s.unwatched (s.flat (s.x a)) = true ∧ stores = true ∧ o.rl = true) ∧
    (∃ i, ∃ s : State, ∃ a srcs dsts stores o k, feOperands i = some (a, srcs, dsts, stores, o) ∧ s.free srcs dsts = true ∧
      s.core.plain = true ∧ s.core.e.sb = [] ∧ s.crc = [] ∧ (o.rl = true → s.core.m.nbOut = 0) ∧ (s.x a).toNat % 8 = 0 ∧
      inWindow (s.x a) 8 = true ∧ feGoes i (s.mem.tag (s.flat (s.x a))).full = false ∧ s.core.h.task = some k ∧
      s.core.atTask = true ∧ s.core.h.pend &&& ~~~s.core.h.hpend = 0 ∧ 1 ≤ s.wakeFree (slotCluster s.cur)) ∧
    ∃ s : State, ∃ rd a : XReg, s.free [a] [rd] = true ∧ rd = 0 ∧ (s.x a).toNat % 8 = 2 :=
  ⟨⟨.feLd ⟨true, false, 3⟩ 3 1, { wafer (coreOf [(1, 0xFFFF8)]) with mem := { tags := [(0xFFFF8, { full := true })] } }, _, _, _, _,
      _, rfl, by decide⟩,
    ⟨.feSt ⟨false, true, 3⟩ 1 2, wafer (coreOf [(1, 0x1000000)]), _, _, _, _, _, rfl, by decide⟩,
    ⟨.feLd Ord.plain 3 1, wafer (coreOf [(1, 0x200)]), _, _, _, _, _, _, rfl, by decide, by decide, by decide, by decide, by decide,
      by decide, by decide, by decide, rfl, by decide⟩,
    ⟨wafer (coreOf [(1, 10)]), 0, 1, by decide⟩⟩

/-- A firing of actor 63 with a reserved output. -/
def firingCore (x : FMap Word) : Core :=
  { coreOf x with
    h.task := some { item := { job := 5, frame := 0x400, act := true, chk := true }, prio := 1, budget := 0x100000 }
    q.actors := [(63, { busy := true, state := 0x400, outmask := 0x80, resv := 0x80,
                        outq := [0xFFFF, 0xFFFF, 0xFFFF, 0xFFFF, 0xFFFF, 0xFFFF, 0xFFFF, 2] })] }

/-- An edge of job 5 between two nodes. -/
def edgeOf (src dst : Node) : Edge :=
  { job := 5, src := src, se := 7, dst := dst, dq := 0, slots := 4, bytes := 8, rel := false, replay := 4, pair := false, credits := 1 }

theorem witness_PutsSendATokenOnce :
    (∃ i, ∃ s : State, ∃ a srcs rl sc done words, putOperands i s = some (a, srcs, rl, sc, done, words) ∧ s.free srcs [] = true ∧
      s.core.plain = true ∧ s.putTarget (s.x a) = none) ∧
    ∃ i, ∃ s : State, ∃ a srcs rl sc done words n k e, putOperands i s = some (a, srcs, rl, sc, done, words) ∧
      s.free srcs [] = true ∧ s.core.plain = true ∧ s.putTarget (s.x a) = some (n, k, e) ∧ e.src = .actor s.cur n ∧
      s.holdsTokens e = false ∧ s.streamFull s.cur = false ∧
      (∀ q, (if e.rel then some 3 else if rl then some sc else none) = some q →
        s.relReady s.cur q (slotDie (s.nodeSlot e.dst) != slotDie s.cur) = true) ∧ rl = true ∧
      s.x a = 7 :=
  ⟨⟨.edgeDone false 0 1, wafer (firingCore [(1, 8)]), _, _, _, _, _, _, rfl, by decide⟩,
    ⟨.edgePut true 3 1 2, { wafer (firingCore [(1, 7), (2, 9)]) with wafer := { edges := [(2, edgeOf (.actor 0 63) (.actor 1 0))] } },
      _, _, _, _, _, _, 63, 2, _, rfl, by decide, by decide, rfl, rfl, by decide, by decide, fun q h => by cases h; decide, rfl,
      rfl⟩⟩

theorem witness_EngineRegistersAndMatrixQueue :
    (∃ s : State, ∃ rd a : XReg, s.free [a] [rd] = true ∧ (s.x a).toNat % 256 = 0x54) ∧
    (∃ s : State, ∃ rd a b : XReg, s.free [a, b] [rd] = true ∧ (s.x a).toNat % 256 = 0xFF) ∧
    ∃ i, ∃ s : State, ∃ form zc za rd o, mxForm i = some (form, zc, za, rd, o) ∧ s.free [] [rd] = true ∧ s.core.e.mxq.length < 2 ∧
      s.core.e.mxq ≠ [] :=
  ⟨⟨wafer (coreOf [(1, 0x54)]), 3, 1, by decide⟩, ⟨wafer (coreOf [(1, 0xFF)]), 3, 1, 2, by decide⟩,
    ⟨.mxMma ⟨true, false, 3⟩ 3 2, wafer { coreOf [] with
        e.mxq := [{ form := .zero, zc := 0, za := 0, rd := 0, ord := Ord.plain, cap := {}, serial := 0, job := 5 }] },
      _, _, _, _, _, rfl, by decide⟩⟩

/-- A matrix operation of the running task. -/
def mxOf (form : MxForm) (started : Bool) (regs : FMap Word := []) : MxOp :=
  { form := form, zc := 0, za := 1, rd := 3, ord := Ord.plain, cap := { regs := regs }, serial := 0, job := 5, started := started }
def mxState (o : MxOp) : State := { wafer { coreOf [] with e.mxq := [o], h.pend := 8 } with arg := { place := 0 } }

/-- One element's product in T8, and with A in LUT6. -/
def mxOne : FMap Word := [(0, 0x1000), (2, 0x2000), (4, 1), (5, 1), (6, 1), (7, 0x3000)]
/-- The words of its operands as they have been read. -/
def mxGot (bad : Bool := false) : FMap (Word × Bool) := [(0x1000, 0x30, bad), (0x2000, 0x30, false)]
/-- The operation's turn comes at the slot, with nothing out of order. -/
def mxReady (s : State) (o : MxOp) : Bool :=
  decide (s.arg.place < slotCount) && (s.coreAt s.arg.place).e.mxq == [o] && o.fin == 0 && s.upsets == [] && s.order == []

/-- An operation on one element of A and one of B, in windows, fails no check. -/
theorem mxOne_ok (o : MxOp) (c : Core) (m : Mem) (n : Nat) (hf : o.form = .mma) (hr : o.rows = [0]) (hk : o.kv = 1)
    (hc : o.cols = [0]) (hm : o.cap.fmta ≠ 6 ∧ o.cap.fmtb ≠ 6) (h6 : o.reg 6 = 1) (h64 : 2 ≤ min (fmtK o.cap.fmta) (fmtK o.cap.fmtb))
    (ha : scaleAddr o.cap.scla o.cap.fmta 0 0 = none ∧ scaleAddr o.cap.sclb o.cap.fmtb 0 0 = none)
    (hb : (elemBytes o.cap.fmta (o.rowA 0) 0 ++ elemBytes o.cap.fmtb (o.rowB 0) 0).all (fun a => (localFlat 0 a).isSome) = true) :
    ¬ o.Fails c m 0 n := by
  intro h
  unfold MxOp.Fails at h
  split at h
  · simp only [hf, hm] at h; simp at h
  · simp only [hf, hm] at h; simp at h
  · simp [hf] at h
  · have e : (o.reg 6).toNat = 1 := by simp [h6]
    omega
  · obtain ⟨-, a, ⟨i, q, j, ⟨hi, hq, hj⟩, h⟩, hl⟩ | h := h
    · obtain rfl : i = 0 := by simpa [hr] using hi
      obtain rfl : q = 0 := by omega
      obtain rfl : j = 0 := by simpa [hc] using hj
      have hall := List.all_eq_true.1 hb
      obtain h | h | ⟨-, -, ⟨-, h⟩ | h⟩ := h
      · simp [ha] at h
      · simp [ha] at h
      · have := hall a (List.mem_append_left _ h); simp [hl] at this
      · have := hall a (List.mem_append_right _ h); simp [hl] at this
    · simp [hf] at h
  · exact h

theorem witness_MatrixOperationsComplete_starts :
    let o : MxOp := { mxOf .mma false mxOne with cap := { fmta := 2, regs := mxOne } }
    let s := { mxState o with arg := { place := 0 } }
    mxReady s o = true ∧ o.started = false ∧ s.mayStart 0 o.seq o.ord = true ∧ o.lutted = true ∧
      (∀ i, i < 16 → s.clean (spFlat 0 (s.coreAt 0).g.codes.toNat + 8 * i) = true ∧ (spFlat 0 (s.coreAt 0).g.codes.toNat + 8 * i) % 8 = 0) ∧
      ∀ n, ¬ o.Fails (s.coreAt 0) s.mem 0 n :=
  ⟨by decide +kernel, by decide +kernel, by decide +kernel, by decide +kernel, by decide +kernel, fun n =>
    mxOne_ok _ _ _ n rfl (by decide +kernel) (by decide +kernel) (by decide +kernel) (by decide) (by decide) (by decide) (by decide)
      (by decide +kernel)⟩

theorem witness_MatrixOperationsComplete_fails :
    (let o := mxOf .mma false [(6, 200)]
     let s := mxState o
     mxReady s o = true ∧ o.started = false ∧ s.mayStart 0 o.seq o.ord = true ∧ o.lutted = false ∧ s.mayFinish 0 o.seq o.ord = true ∧
       o.Fails (s.coreAt 0) s.mem 0 4 ∧ ∀ k, k < 4 → ¬ o.Fails (s.coreAt 0) s.mem 0 k) ∧
    let o := mxOf .store true [(9, 0xFF)]
    let s := mxState o
    mxReady s o = true ∧ o.started = true ∧ o.out = none ∧ s.mayFinish 0 o.seq o.ord = true ∧
      o.Fails (s.coreAt 0) (o.view s.mem) 0 3 ∧ ∀ k, k < 3 → ¬ o.Fails (s.coreAt 0) (o.view s.mem) 0 k := by
  refine ⟨⟨by decide +kernel, by decide, by decide +kernel, by decide, by decide +kernel, by simp [MxOp.Fails]; decide, ?_⟩,
    by decide +kernel, by decide, by decide, by decide +kernel, by simp [MxOp.Fails]; decide, ?_⟩
  all_goals
    intro k hk h
    match k, h with
    | 0, h => exact h
    | 1, h => simp [MxOp.Fails] at h; revert h; decide
    | 2, h => simp [MxOp.Fails] at h; revert h; decide
    | 3, h => first | omega | (simp [MxOp.Fails] at h; revert h; decide)

theorem witness_MatrixOperationsComplete_reads :
    let o := mxOf .mma true mxOne
    let s := mxState o
    mxReady s o = true ∧ o.started = true ∧ o.out = none ∧ o.unread s.mem 0 ≠ [] ∧ (o.unread s.mem 0).all s.clean = true ∧
      ∀ n, ¬ o.Fails (s.coreAt 0) (o.view s.mem) 0 n :=
  ⟨by decide +kernel, rfl, rfl, by decide +kernel, by decide +kernel, fun n =>
    mxOne_ok _ _ _ n rfl (by decide +kernel) (by decide +kernel) (by decide +kernel) (by decide) (by decide) (by decide) (by decide)
      (by decide +kernel)⟩

theorem witness_MatrixOperationsComplete_multiplies :
    let o := { mxOf .mma true mxOne with got := mxGot }
    let s := mxState o
    mxReady s o = true ∧ o.started = true ∧ o.out = none ∧ o.unread s.mem 0 = [] ∧ s.mayFinish 0 o.seq o.ord = true ∧
      (∀ n, ¬ o.Fails (s.coreAt 0) (o.view s.mem) 0 n) ∧ o.form = .mma ∧
      ¬ (o.lutBad = true ∨ (∃ p ∈ o.got, p.2.2 = true) ∨ ∃ i ∈ o.zReads (o.view s.mem) 0, i ∈ (s.coreAt 0).e.zbad) :=
  ⟨by decide +kernel, rfl, rfl, by decide +kernel, by decide +kernel, fun n =>
    mxOne_ok _ _ _ n rfl (by decide +kernel) (by decide +kernel) (by decide +kernel) (by decide) (by decide) (by decide) (by decide)
      (by decide +kernel), rfl, by decide +kernel⟩

theorem witness_MatrixOperationsComplete_bad :
    let o := { mxOf .mma true mxOne with got := mxGot true }
    let s := mxState o
    mxReady s o = true ∧ o.started = true ∧ o.out = none ∧ o.unread s.mem 0 = [] ∧ s.mayFinish 0 o.seq o.ord = true ∧
      (∀ n, ¬ o.Fails (s.coreAt 0) (o.view s.mem) 0 n) ∧ o.form ≠ .zero ∧ ∃ p ∈ o.got, p.2.2 = true :=
  ⟨by decide +kernel, rfl, rfl, by decide +kernel, by decide +kernel, fun n =>
    mxOne_ok _ _ _ n rfl (by decide +kernel) (by decide +kernel) (by decide +kernel) (by decide) (by decide) (by decide) (by decide)
      (by decide +kernel), by decide, by decide⟩

theorem witness_MatrixOperationsComplete_zero :
    let o := mxOf .zero true
    let s := mxState o
    mxReady s o = true ∧ o.started = true ∧ o.out = none ∧ o.unread s.mem 0 = [] ∧ s.mayFinish 0 o.seq o.ord = true ∧
      (∀ n, ¬ o.Fails (s.coreAt 0) (o.view s.mem) 0 n) ∧ o.form = .zero := by
  refine ⟨by decide +kernel, rfl, rfl, by decide +kernel, by decide +kernel, fun n h => ?_, rfl⟩
  unfold MxOp.Fails at h
  split at h <;> simp [mxOf] at h

/-- A store to one FP32 element at 0x3000, and to none, fails no check. -/
theorem mxStore_ok (o : MxOp) (c : Core) (m : Mem) (n : Nat) (hf : o.form = .store) (hs : o.cap.fmtc = 5) (hm : o.cap.fmta = 0)
    (h9 : o.reg 9 = 127) (hr : o.rows = [0] ∨ o.rows = []) (hc : o.cols = [0]) (h7 : o.rowS 0 = 0x3000) : ¬ o.Fails c m 0 n := by
  intro h
  unfold MxOp.Fails at h
  split at h
  · simp [hf] at h
  · simp [hf, hm] at h
  · simp [hs, h9] at h
  · simp [hf] at h
  · obtain ⟨h, -⟩ | ⟨-, a, v, ⟨i, t, hi, -, h⟩, hl⟩ := h
    · simp [hf] at h
    · obtain hr | hr := hr
      · obtain rfl : i = 0 := by simpa [hr] using hi
        simp only [hs, h9, hc, h7] at h
        obtain ⟨-, j, k, hj, hk, rfl, -⟩ | ⟨h, -⟩ | ⟨h, -⟩ := h
        · obtain rfl : j = 0 := by simpa using hj
          have hk : k < 4 := hk
          rcases k with _ | _ | _ | _ | k
          · revert hl; decide +kernel
          · revert hl; decide +kernel
          · revert hl; decide +kernel
          · revert hl; decide +kernel
          · omega
        · exact absurd h (by decide)
        · exact absurd h (by decide)
      · simp [hr] at hi
  · exact h

theorem witness_MatrixOperationsComplete_stores :
    (let o : MxOp := { mxOf .store true mxOne with cap := { fmtc := 5, regs := mxOne } }
     let s := mxState o
     mxReady s o = true ∧ o.started = true ∧ o.out = none ∧ o.unread s.mem 0 = [] ∧ s.mayFinish 0 o.seq o.ord = true ∧
       (∀ n, ¬ o.Fails (s.coreAt 0) (o.view s.mem) 0 n) ∧ o.form = .store ∧
       ¬ (o.lutBad = true ∨ (∃ p ∈ o.got, p.2.2 = true) ∨ ∃ i ∈ o.zReads (o.view s.mem) 0, i ∈ (s.coreAt 0).e.zbad) ∧
       (∃ a v, o.Writes (s.coreAt 0) a v) ∧ (o.tileBytes ++ o.scaleWrites).Nodup) ∧
    let o : MxOp := { mxOf .store true (mxOne ++ [(4, 0)]) with cap := { fmtc := 5, regs := [(4, 0), (5, 1), (6, 1), (7, 0x3000)] } }
    let s := mxState o
    mxReady s o = true ∧ o.started = true ∧ o.out = none ∧ o.unread s.mem 0 = [] ∧ s.mayFinish 0 o.seq o.ord = true ∧
      (∀ n, ¬ o.Fails (s.coreAt 0) (o.view s.mem) 0 n) ∧ o.form = .store ∧
      ¬ (o.lutBad = true ∨ (∃ p ∈ o.got, p.2.2 = true) ∨ ∃ i ∈ o.zReads (o.view s.mem) 0, i ∈ (s.coreAt 0).e.zbad) ∧
      ∀ a v, ¬ o.Writes (s.coreAt 0) a v := by
  refine ⟨⟨by decide +kernel, rfl, rfl, by decide +kernel, by decide +kernel, fun n => ?_, rfl, by decide +kernel, ?_, by decide +kernel⟩,
    by decide +kernel, rfl, rfl, by decide +kernel, by decide +kernel, fun n => ?_, rfl, by decide +kernel, ?_⟩
  · exact mxStore_ok _ _ _ n rfl rfl rfl (by decide) (.inl (by decide +kernel)) (by decide +kernel) (by decide)
  · refine ⟨0x3000, _, 0, 127, by decide +kernel, ?_, .inl ⟨by decide, 0, 0, by decide +kernel, by decide, by decide, rfl⟩⟩
    simp only [MxOp.IsScale]
    rw [if_pos (by decide)]
    decide
  · exact mxStore_ok _ _ _ n rfl rfl rfl (by decide) (.inr (by decide +kernel)) (by decide +kernel) (by decide)
  · rintro a v ⟨i, t, hi, -⟩
    revert hi
    rw [show MxOp.rows _ = [] by decide +kernel]
    simp

theorem witness_MatrixOperationsComplete_writes :
    let w : WordWrite := { addr := 0x3000, mask := 15, data := 7 }
    (let o := { mxOf .store true mxOne with out := some ([w] :: [[w]], 0) }
     let s := mxState o
     mxReady s o = true ∧ o.started = true ∧ o.form = .store ∧ s.noWatchers = true ∧ w.addr % 8 = 0 ∧ s.clean w.addr = true) ∧
    let o := { mxOf .store true mxOne with out := some ([w] :: [], 0) }
    let s := mxState o
    mxReady s o = true ∧ o.started = true ∧ o.form = .store ∧ s.noWatchers = true ∧ w.addr % 8 = 0 ∧ s.clean w.addr = true ∧
      s.mayFinish 0 o.seq o.ord = true := by decide +kernel

theorem witness_EngineCommandsQueue_copy :
    ∃ i, ∃ s : State, ∃ form rd a b o, copyForm i = some (form, rd, a, b, o) ∧ s.free [a, b] [rd] = true ∧
      s.core.plain = true ∧ s.core.e.cpq.length < 4 :=
  ⟨.cpScat ⟨true, true, 3⟩ 3 1 2, wafer (coreOf [(1, 0x0100000000000000)]), _, _, _, _, _, rfl, by decide⟩

/-- A record of rank 1 in format 0: its base, extent and stride, as its eight words. -/
def tsrAt (f : Nat) (base : Word) (ext : Word) : List (Nat × Word) :=
  [(f, base), (f + 8, 0x100), (f + 16, ext), (f + 32, 0x10000)]

/-- A rank-1 record is spaced when its dimension of more than one index takes a step. -/
theorem spaced_one (v : Nat) (hr : recRank v = 1) (h : 1 < recExt v 0 → 1 ≤ (recStr v 0).natAbs) : recSpaced v := by
  have z : ∀ d, d < recRank v ∧ 1 < recExt v d → d = 0 := fun d hd => by omega
  refine ⟨fun d hd => ?_, fun d e hd he hne => absurd ((z d hd).trans (z e he).symm) hne⟩
  obtain rfl := z d hd
  exact h hd.2

/-- The record of tsrAt as one number. -/
def tsrNum (base ext : Nat) : Nat := base + 0x100 * 2 ^ 64 + ext * 2 ^ 128 + 0x10000 * 2 ^ 256

theorem tsr_ok (n : Nat) : ¬ layFails (tsrNum 0x400 4) (tsrNum 0x800 4) 0 n := by
  intro h
  unfold layFails at h
  split at h
  all_goals first
    | exact h
    | exact h (spaced_one _ (by decide) fun _ => by decide +kernel)
    | exact h.2 (spaced_one _ (by decide) fun _ => by decide +kernel)
    | (revert h; decide +kernel)

theorem tsr_empty : layFails (tsrNum 0x400 0) (tsrNum 0x800 0) 0 7 ∧ ∀ k, k < 7 → ¬ layFails (tsrNum 0x400 0) (tsrNum 0x800 0) 0 k := by
  refine ⟨.inl ⟨0, by decide +kernel⟩, fun k hk h => ?_⟩
  unfold layFails at h
  split at h
  all_goals first
    | omega
    | exact h
    | (revert h; decide +kernel)

theorem tsr_bad : layFails 0 0 0 1 ∧ ∀ k, k < 1 → ¬ layFails 0 0 0 k := by
  refine ⟨.inr (.inr (.inr (.inr (.inl rfl)))), fun k hk h => ?_⟩
  obtain rfl : k = 0 := by omega
  exact h

/-- A lay.go of x1 and x2 may go on. -/
def layGoes (s : State) : Bool := s.free [1, 2] [3] && s.core.plain
/-- The records at x1 and x2, and the mapping word. -/
def layRecs (s : State) : Nat × Nat × Word :=
  (littleEndian s.seen (s.flat (s.x 1)) 64, littleEndian s.seen (s.flat (s.x 2)) 64, s.core.eng 0x40)

theorem witness_EngineCommandsQueue_traps :
    (let s := wafer (coreOf [(1, 0x220), (2, 0x20)])
     layGoes s = true ∧ (s.x 1).toNat % 64 ≠ 0) ∧
    (let s := wafer (coreOf [(1, 0x200), (2, 0x20)])
     layGoes s = true ∧ (s.x 1).toNat % 64 = 0 ∧ (s.x 2).toNat % 64 ≠ 0) ∧
    (let s := wafer (coreOf [(1, 0x100000), (2, 0x40)])
     layGoes s = true ∧ (s.x 1).toNat % 64 = 0 ∧ (s.x 2).toNat % 64 = 0 ∧ inWindow (s.x 1) 64 = false) ∧
    let s := wafer (coreOf [(1, 0xFFFC0), (2, 0x100000)])
    layGoes s = true ∧ (s.x 1).toNat % 64 = 0 ∧ (s.x 2).toNat % 64 = 0 ∧ inWindow (s.x 1) 64 = true ∧
      inWindow (s.x 2) 64 = false := by decide

theorem witness_EngineCommandsQueue_layout :
    (let s := wafer (coreOf [(1, 0x200), (2, 0x240)])
     layGoes s = true ∧ s.readable (s.x 1) 64 8 = true ∧ s.readable (s.x 2) 64 8 = true ∧ layRecs s = (0, 0, 0)) ∧
    (let s := wafer (coreOf [(1, 0x200), (2, 0x240)]) (tsrAt 0x200 0x400 0 ++ tsrAt 0x240 0x800 0)
     layGoes s = true ∧ s.readable (s.x 1) 64 8 = true ∧ s.readable (s.x 2) 64 8 = true ∧
       layRecs s = (tsrNum 0x400 0, tsrNum 0x800 0, 0) ∧ (s.clusterAt (slotCluster s.cur)).layq = [] ∧ s.core.eng 0x41 = 0 ∧
       s.mayFinish s.cur s.core.e.issued Ord.plain = true) ∧
    let s := wafer (coreOf [(1, 0x200), (2, 0x240)]) (tsrAt 0x200 0x400 4 ++ tsrAt 0x240 0x800 4)
    layGoes s = true ∧ s.readable (s.x 1) 64 8 = true ∧ s.readable (s.x 2) 64 8 = true ∧
      layRecs s = (tsrNum 0x400 4, tsrNum 0x800 4, 0) ∧ (s.clusterAt (slotCluster s.cur)).layq = [] := by
  refine ⟨by decide +kernel, by decide +kernel, by decide +kernel⟩

theorem witness_EngineCommandsQueue_dram :
    (let s := wafer (coreOf [(2, 4)])
     ∃ far near, dramForms (.dramReq Ord.plain 3 1 2) s = some ([1, 2], 3, Ord.plain, false, far, near) ∧
       s.free [1, 2] [3] = true ∧ s.core.plain = true ∧ (near 0).toNat % 8 ≠ 0) ∧
    (let s := wafer { coreOf [(1, 4)] with e.shadow := [(0x51, 0x713)] }
     ∃ far near, dramForms (.dramReqv Ord.plain 3 1 2) s = some ([1], 3, Ord.plain, true, far, near) ∧
       s.free [1] [3] = true ∧ s.core.plain = true ∧ (∀ j, j < 8 → (near j).toNat % 8 = 0) ∧ (far 0).toNat % 8 ≠ 0) ∧
    (let s := wafer { coreOf [] with e.shadow := [(0x51, 0x700), (0x52, 0xFFFF8), (0x53, 8), (0x50, 8)] }
     ∃ far near, dramForms (.dramReqv Ord.plain 3 1 2) s = some ([1], 3, Ord.plain, true, far, near) ∧
       s.free [1] [3] = true ∧ s.core.plain = true ∧ (∀ j, j < 8 → (near j).toNat % 8 = 0 ∧ (far j).toNat % 8 = 0) ∧
       inWindow (near 0) 8 = true ∧ inWindow (near 1) 8 = false) ∧
    let s := wafer (coreOf [(1, 0x0200000000000000)])
    ∃ far near, dramForms (.dramReqv Ord.plain 3 1 2) s = some ([1], 3, Ord.plain, true, far, near) ∧
      s.free [1] [3] = true ∧ s.core.plain = true ∧ (∀ j, j < 8 → (near j).toNat % 8 = 0 ∧ (far j).toNat % 8 = 0) ∧
      (∀ j, j < 8 → inWindow (near j) 1 = true) ∧ s.core.e.drq.length < 8 :=
  ⟨⟨_, _, rfl, by decide⟩, ⟨_, _, rfl, by decide +kernel⟩, ⟨_, _, rfl, by decide +kernel⟩, ⟨_, _, rfl, by decide +kernel⟩⟩

/-- A copy command of one element. -/
def cpOf (form : CpForm) (len : Nat) (src dst : Word) : CpCmd :=
  { form := form, src := src, dst := dst, len := len, rows := 1, spitch := 0, dpitch := 0, ibase := 0x800, fe := false, fin := 0,
    mxop := 0, cap := {}, rd := 3, ord := Ord.plain, serial := 0, job := 5 }
def cpState (c : CpCmd) (l : List (Nat × Word) := []) : State := wafer { coreOf [] with e.cpq := [c] } l

/-- The copy command's turn comes. -/
def cpReady (s : State) (c : CpCmd) : Bool := decide (s.arg.place < slotCount) && (s.coreAt s.arg.place).e.cpq == [c]
/-- It may start, or go on with an element. -/
def cpGoes (s : State) (c : CpCmd) : Bool :=
  cpReady s c && c.phase == .ready && c.stage == none && (c.row != 0 || s.mayStart s.arg.place c.seq c.ord)

theorem witness_CopyCommandsRun_ends :
    (let c := cpOf .go 0 0 0
     cpGoes (cpState c) c = true ∧ c.len = 0) ∧
    (let c := { cpOf .scat 8 0 0 with ibase := 2 }
     cpGoes (cpState c) c = true ∧ c.len ≠ 0 ∧ c.rows ≠ 0 ∧ c.form = .scat ∧ c.ibase.toNat % 4 ≠ 0) ∧
    (let c := { cpOf .go 8 0 0 with row := 1 }
     cpGoes (cpState c) c = true ∧ c.len ≠ 0 ∧ c.rows ≠ 0 ∧ c.form = .go ∧ c.rows ≤ c.row) ∧
    let c := { cpOf .gath 8 0 0 with ibase := 0xFFFFC, row := 1, err := some 0x8000000000000011 }
    cpGoes (cpState c) c = true ∧ c.len ≠ 0 ∧ c.rows ≠ 0 ∧ c.ibase.toNat % 4 = 0 ∧ inWindow c.ibase (4 * c.rows) = true ∧
      c.rows ≤ c.row := by decide +kernel

theorem witness_CopyCommandsRun_element :
    (let c := cpOf .gath 24 0x400 0xFFFE8
     let s := { cpState c with mem := { tags := [(0x800, { poison := true })] } }
     cpGoes s c = true ∧ c.len ≠ 0 ∧ c.rows ≠ 0 ∧ c.ibase.toNat % 4 = 0 ∧ inWindow c.ibase (4 * c.rows) = true ∧ c.row < c.rows ∧
       c.idx = none ∧ s.landed 0 c.seq = true ∧ localFlat 0 c.ibase = some 0x800 ∧ (s.mem.tag 0x800).poison = true ∧
       (s.mem.tag 0x800).flips = 0) ∧
    (let c := { cpOf .gath 24 0x400 0xFFFE8 with spitch := 0x40 }
     let s := cpState c [(0x800, 1)]
     cpGoes s c = true ∧ c.len ≠ 0 ∧ c.rows ≠ 0 ∧ c.ibase.toNat % 4 = 0 ∧ inWindow c.ibase (4 * c.rows) = true ∧ c.row < c.rows ∧
       c.idx = none ∧ s.landed 0 c.seq = true ∧ localFlat 0 c.ibase = some 0x800 ∧ s.clean 0x800 = true ∧
       littleEndian s.mem.byte 0x800 4 = 1 ∧ inWindow (c.src + 1 * c.spitch) c.len = true ∧ inWindow c.dst c.len = true) ∧
    let c := cpOf .go 24 0x400 0xFFFE8
    let s := cpState c
    cpGoes s c = true ∧ c.len ≠ 0 ∧ c.rows ≠ 0 ∧ c.row < c.rows ∧ c.idx = none ∧ s.landed 0 c.seq = true ∧
      inWindow c.src c.len = true ∧ inWindow c.dst c.len = true := by decide +kernel

theorem witness_CopyCommandsRun_moves :
    (let c := { cpOf .go 24 0x408 0xFFFE8 with idx := some 0, stage := some (false, [(0, 8), (8, 16)]) }
     let s := cpState c
     cpReady s c = true ∧ c.phase = .ready ∧ inWindow c.src c.len = true ∧ localFlat 0 c.src = some 0x408 ∧
       (∀ j, j < c.len → s.clean (0x408 + j) = true) ∧ ∀ j, j < c.len → FMap.find c.buf j = none) ∧
    let b : FMap (Byte × Bool) := (List.range 24).map fun j => (j, (BitVec.ofNat 8 j, false))
    let c := { cpOf .go 24 0x408 0xFFFE8 with idx := some 0, stage := some (true, [(0, 8)]), buf := b, fe := true }
    let s := cpState c
    cpReady s c = true ∧ c.phase = .ready ∧ inWindow c.dst c.len = true ∧ localFlat 0 c.dst = some 0xFFFE8 ∧
      (∀ j, j < c.len → s.clean (0xFFFE8 + j) = true ∧ FMap.find c.buf j = some (BitVec.ofNat 8 j, false)) ∧ s.noWatchers = true ∧
      ∀ j, j < c.len → s.unheard (0xFFFE8 + j) = true := by decide +kernel

theorem witness_CopyCommandsRun_completes :
    (let c := { cpOf .gomx 8 0 0 with phase := .finished 0x8000000000000010, fin := 0x100 }
     let s := cpState c
     cpReady s c = true ∧ s.mayFinish 0 c.seq c.ord = true ∧ s.landed 0 c.seq = true ∧ s.quietFin 0 c.fin = true) ∧
    let c := { cpOf .gomx 8 0 0 with phase := .finished 8 }
    let s := cpState c
    cpReady s c = true ∧ s.mayFinish 0 c.seq c.ord = true ∧ s.landed 0 c.seq = true ∧ (s.coreAt 0).e.mxq.length < 2 := by
  decide +kernel

/-- A layout command over two elements of one byte. -/
def layOf (pos : Nat) : LayCmd :=
  { src := { base := 0x400, fmt := 0, ov := false, ext := [2], str := [1] },
    dst := { base := 0xFFFFE, fmt := 0, ov := false, ext := [2], str := [1] },
    dmw := 0x40000, fin := 0, rd := 3, ord := Ord.plain, serial := 0, job := 5, slot := 0, pos := pos }
def layState (c : LayCmd) : State := { wafer (coreOf []) with clusters := [(0, { layq := [c] })] }

/-- The layout command's turn comes, with no upset in the staging buffer. -/
def layReady (s : State) (c : LayCmd) : Bool :=
  decide (s.arg.place < clusterCount) && decide (c.slot < slotCount) && (s.clusterAt s.arg.place).layq == [c] && s.upsets == []

theorem witness_LayoutCommandsRun :
    (let c := layOf 2
     let s := layState c
     layReady s c = true ∧ c.phase = .ready ∧ (c.pos = 0 → s.mayStart c.slot c.seq c.ord = true) ∧ s.landed c.slot c.seq = true ∧
       (∀ e ∈ c.src.ext ++ c.dst.ext, e ≠ 0) ∧ c.dst.count ≤ c.pos) ∧
    (let c := layOf 0
     let s := layState c
     layReady s c = true ∧ c.phase = .ready ∧ (c.pos = 0 → s.mayStart c.slot c.seq c.ord = true) ∧ s.landed c.slot c.seq = true ∧
       (∀ e ∈ c.src.ext ++ c.dst.ext, e ≠ 0) ∧ c.pos < c.dst.count ∧ fmtBits c.src.fmt ≠ 6 ∧ c.src.fmt = c.dst.fmt ∧
       s.noWatchers = true ∧
       let at_ (a : Word) : Nat := (localFlat c.slot a).getD 0
       let from_ := (List.range c.pass).flatMap fun k => c.src.bytesAt (c.srcPos (c.pos + k))
       let to_ := (List.range c.pass).flatMap fun k => c.dst.bytesAt (c.dstPos (c.pos + k))
       (from_ ++ to_).all (fun a => (localFlat c.slot a).isSome && s.clean (at_ a)) = true ∧ (to_.map at_).Nodup ∧
       from_ = [0x401, 0x400]) ∧
    let c := { layOf 2 with phase := .finished 2 }
    let s := layState c
    layReady s c = true ∧ s.mayFinish c.slot c.seq c.ord = true ∧ s.landed c.slot c.seq = true ∧ s.quietFin c.slot c.fin = true :=
  ⟨by decide +kernel, ⟨by decide +kernel, rfl, by decide +kernel, by decide +kernel, by decide, by decide +kernel, by decide, rfl,
    by decide +kernel, by decide +kernel, by decide +kernel, by decide +kernel⟩, by decide +kernel⟩

/-- A DRAM command of one row at a local address, an atomic where ctl says so. -/
def drOf (ctl : Word) (addr : Word := 0x0200000000000400) (left : Option (List (Nat × Nat × Nat)) := some [(0, 0, 8)]) (seq : Nat := 0) :
    DramCmd :=
  { vec := false, addr := addr, loc := 0xFFFF0, offs := 0, len := 8, ctl := ctl, lbase := 0, lpitch := 0, fin := 0, rd := 3,
    ord := Ord.plain, serial := 0, job := 5, seq := seq, left := left }
/-- A core with DRAM commands whose addresses a translation entry of their job covers. -/
def drState (l : List DramCmd) (a : Nat := 0) : State :=
  { wafer { coreOf [] with e.drq := l } with
    dies := [(0, { x := { tlb := [{ job := 5, vpn := 0, level := 0, pte := 0xDF }] } })], arg := { a := a } }
/-- The one command's piece goes at once, between two flat addresses. -/
abbrev drGoes (c : DramCmd) (F G : Nat) : Prop :=
  let s := drState [c]
  s.arg.place < slotCount ∧ (s.coreAt 0).dramCmd s.arg.a = some c ∧ c.phase = .ready ∧ c.left = some [(0, 0, 8)] ∧
    c.acq = false ∧ (c.ord.scope = 3 → c.ord.aq = false ∧ c.ord.rl = false) ∧ s.noWatchers = true ∧ s.noReplicas = true ∧
    s.spot 0 c.job (c.rows.getD 0 (0, 0)).1 (dramAccess c.op) = (s, .at_ F) ∧
    localFlat 0 (c.rows.getD 0 (0, 0)).2 = some G ∧ inWindow (c.rows.getD 0 (0, 0)).2 (if c.op = 14 then 16 else 8) = true

theorem witness_DramCommandsRun_starts :
    (let c := drOf 0 0x0200000000000400 none
     let s := drState [c]
     (s.coreAt 0).dramCmd s.arg.a = some c ∧ c.phase = .ready ∧ (∀ d ∈ (s.coreAt 0).e.drq, d.seq < c.seq → d.left ≠ none) ∧
       s.mayStart 0 c.seq c.ord = true ∧ c.atomic = false) ∧
    let c := drOf 14 0x0200000000000400 none
    let s := drState [c]
    (s.coreAt 0).dramCmd s.arg.a = some c ∧ c.phase = .ready ∧ (∀ d ∈ (s.coreAt 0).e.drq, d.seq < c.seq → d.left ≠ none) ∧
      s.mayStart 0 c.seq c.ord = true ∧ c.atomic = true := by decide +kernel

theorem witness_DramCommandsRun_ends :
    let c := drOf 0 0x0200000000000400 (some [])
    let s := drState [c]
    (s.coreAt 0).dramCmd s.arg.a = some c ∧ c.phase = .ready ∧ c.left = some [] := by decide +kernel

theorem witness_DramCommandsRun_waits :
    let c := drOf 0 0x0200000000000400 (some [(0, 0, 8)]) 1
    let d := drOf 1
    let s := drState [d, c] 1
    (s.coreAt 0).dramCmd s.arg.a = some c ∧ c.phase = .ready ∧ s.pieceHome 0 c (0, 0, 8) = s.pieceHome 0 d (0, 0, 8) ∧
      (s.pieceHome 0 c (0, 0, 8)).isSome = true ∧ d.seq < c.seq := by decide +kernel

theorem witness_DramCommandsRun_moves :
    (let c := drOf 0
     drGoes c (dramBase + 0x400) 0xFFFF0 ∧ c.op = 0 ∧
       ∀ j, j < 8 → (drState [c]).clean (dramBase + 0x400 + j) = true ∧ (drState [c]).clean (0xFFFF0 + j) = true) ∧
    (let c := drOf 0x20
     drGoes c (dramBase + 0x400) 0xFFFF0 ∧ c.ctl.getLsbD 5 = true ∧ c.op = 0 ∧ ∀ j, j < 8 →
       (drState [c]).clean (dramBase + 0x400 + j) = true ∧ (drState [c]).clean (0xFFFF0 + j) = true ∧
       (drState [c]).unheard (0xFFFF0 + j) = true) ∧
    let c := drOf 1
    drGoes c (dramBase + 0x400) 0xFFFF0 ∧ c.op = 1 ∧
      ∀ j, j < 8 → (drState [c]).clean (dramBase + 0x400 + j) = true ∧ (drState [c]).clean (0xFFFF0 + j) = true :=
  ⟨by decide +kernel, by decide +kernel, by decide +kernel⟩

theorem witness_DramCommandsRun_atomic :
    let c := drOf 14
    let s := drState [c]
    drGoes c (dramBase + 0x400) 0xFFFF0 ∧ c.atomic = true ∧ c.vec = false ∧ c.ctl.getLsbD 5 = false ∧ dramWidth c.ctl = 8 ∧
      (dramBase + 0x400) % 8 = 0 ∧ 0xFFFF0 % 8 = 0 ∧ 0xFFFF0 + 16 ≤ dramBase + 0x400 ∧ s.clean (dramBase + 0x400) = true ∧
      s.clean 0xFFFF0 = true ∧ s.clean (0xFFFF0 + 8) = true := by
  decide +kernel

theorem witness_DramCommandsRun_complete :
    let c := { drOf 0 with phase := .finished 8 }
    let s := drState [c]
    (s.coreAt 0).dramCmd s.arg.a = some c ∧ s.mayFinish 0 c.seq c.ord = true ∧ s.landed 0 c.seq = true ∧ s.quietFin 0 c.fin = true := by
  decide +kernel

theorem witness_NearBankFormsGoTheirWay_scalar :
    (∃ i, ∃ s : State, ∃ form dbl o rd a b, nbScalar i = some (form, dbl, o, rd, a, b) ∧
      s.free (if form = .cas then [a, b, rd] else [a, b]) [rd] = true ∧ s.core.plain = true ∧ form = .addf ∧
      (s.x a).toNat % 64 = 8) ∧
    (∃ i, ∃ s : State, ∃ form dbl o rd a b, nbScalar i = some (form, dbl, o, rd, a, b) ∧
      s.free (if form = .cas then [a, b, rd] else [a, b]) [rd] = true ∧ s.core.plain = true ∧ form ≠ .addf ∧ dbl = false ∧
      (s.x a).toNat % 4 = 0 ∧ s.nbPlace (s.x a) = none) ∧
    (∃ i, ∃ s : State, ∃ form dbl o rd a b cl off, nbScalar i = some (form, dbl, o, rd, a, b) ∧
      s.free (if form = .cas then [a, b, rd] else [a, b]) [rd] = true ∧ s.core.plain = true ∧ form ≠ .addf ∧ dbl = true ∧
      (s.x a).toNat % 8 = 0 ∧ s.nbPlace (s.x a) = some (cl, off) ∧ (form == .cas || rd != 0) = false ∧
      s.postsAtOnce o cl = true ∧ off = 0xFFFFF8) ∧
    ∃ i, ∃ s : State, ∃ form dbl o rd a b cl off, nbScalar i = some (form, dbl, o, rd, a, b) ∧
      s.free (if form = .cas then [a, b, rd] else [a, b]) [rd] = true ∧ s.core.plain = true ∧ form = .cas ∧ dbl = true ∧
      (s.x a).toNat % 8 = 0 ∧ s.nbPlace (s.x a) = some (cl, off) ∧ s.core.e.sb = [] ∧ s.reachesAtOnce o cl = true ∧ rd = 0 :=
  ⟨⟨.nbAddfD Ord.plain 3 1 2, wafer (coreOf [(1, 0x1000008)]), _, _, _, _, _, _, rfl, by decide⟩,
    ⟨.nbMinW Ord.plain 1 2, wafer (coreOf [(1, 0x2000000)]), _, _, _, _, _, _, rfl, by decide⟩,
    ⟨.nbSwapD Ord.plain 0 1 2, wafer (coreOf [(1, 0x1FFFFF8)]), _, _, _, _, _, _, 0, 0xFFFFF8, rfl, by decide⟩,
    ⟨.nbCasD ⟨true, true, 3⟩ 0 1 2, wafer (coreOf [(1, 0x1000000)]), _, _, _, _, _, _, 0, 0, rfl, by decide⟩⟩

theorem witness_NearBankFormsGoTheirWay_line :
    ∃ i, ∃ s : State, ∃ sel dbl o a b cl off, nbLine i = some (sel, dbl, o, a, b) ∧ s.free [a, b] [] = true ∧
      s.core.plain = true ∧ (s.x a).toNat % 64 = 0 ∧ s.readable (s.x b) 64 8 = true ∧ s.nbPlace (s.x a) = some (cl, off) ∧
      s.postsAtOnce o cl = true :=
  ⟨.nbVxorW Ord.plain 1 2, wafer (coreOf [(1, 0x1FFFFC0), (2, 0xFFFC0)]), _, _, _, _, _, 0, 0xFFFFC0, rfl, by decide⟩

theorem witness_NearBankFormsGoTheirWay_lineTraps :
    let i : Instr := .nbVaddD Ord.plain 1 2
    nbLine i = some (0, true, Ord.plain, 1, 2) ∧
    (let s := wafer (coreOf [(1, 0x1000020)])
     s.free [1, 2] [] = true ∧ s.core.plain = true ∧ (s.x 1).toNat % 64 ≠ 0) ∧
    (let s := wafer (coreOf [(1, 0x40), (2, 8)])
     s.free [1, 2] [] = true ∧ s.core.plain = true ∧ (s.x 1).toNat % 64 = 0 ∧ (s.x 2).toNat % 64 ≠ 0) ∧
    (let s := wafer (coreOf [(1, 0x40), (2, 0x80)])
     s.free [1, 2] [] = true ∧ s.core.plain = true ∧ (s.x 1).toNat % 64 = 0 ∧ (s.x 2).toNat % 64 = 0 ∧ s.nbPlace (s.x 1) = none) ∧
    let s := wafer (coreOf [(1, 0x1000040), (2, 0x100000)])
    s.free [1, 2] [] = true ∧ s.core.plain = true ∧ (s.x 1).toNat % 64 = 0 ∧ s.nbPlace (s.x 1) = some (0, 0x40) ∧
      (s.x 2).toNat % 64 = 0 ∧ inWindow (s.x 2) 64 = false := by decide

theorem witness_NearBankFormsGoTheirWay_amo :
    (∃ i, ∃ s : State, ∃ rd a b n, amoForm i = some (rd, a, b, n) ∧ s.free [a, b] [rd] = true ∧ s.core.plain = true ∧
      (s.x a).toNat % n = 0 ∧ 0x1000000 ≤ (s.x a).toNat ∧ (s.x a).toNat < 0x2000000 ∧ rd = 0) ∧
    ∃ i, ∃ s : State, ∃ rd a b n, amoForm i = some (rd, a, b, n) ∧ s.free [a, b] [rd] = true ∧ s.core.plain = true ∧
      (s.x a).toNat % n = 0 ∧ 0x1000000 ≤ (s.x a).toNat ∧ (s.x a).toNat < 0x2000000 ∧ rd ≠ 0 ∧ s.core.e.sb = [] :=
  ⟨⟨.amoaddD true true 0 1 2, wafer (coreOf [(1, 0x1000000)]), _, _, _, _, rfl, by decide⟩,
    ⟨.amoswapW false false 3 1 2, wafer (coreOf [(1, 0x1FFFFFC)]), _, _, _, _, rfl, by decide⟩⟩

theorem witness_NearBankFormsGoTheirWay_barrier :
    (∃ i, ∃ s : State, ∃ form o rd a, barAsk i = some (form, o, rd, a) ∧ s.free [a] [rd] = true ∧ s.core.plain = true ∧
      (s.x a).toNat % 128 = 64) ∧
    (∃ i, ∃ s : State, ∃ form o rd a, barAsk i = some (form, o, rd, a) ∧ s.free [a] [rd] = true ∧ s.core.plain = true ∧
      (s.x a).toNat % 128 = 0 ∧ s.nbPlace (s.x a) = none) ∧
    (∃ i, ∃ s : State, ∃ form o rd a cl off, barAsk i = some (form, o, rd, a) ∧ s.free [a] [rd] = true ∧ s.core.plain = true ∧
      (s.x a).toNat % 128 = 0 ∧ s.nbPlace (s.x a) = some (cl, off) ∧ form = .leave ∧
      s.postsAtOnce o cl = true) ∧
    ∃ i, ∃ s : State, ∃ form o rd a cl off, barAsk i = some (form, o, rd, a) ∧ s.free [a] [rd] = true ∧ s.core.plain = true ∧
      (s.x a).toNat % 128 = 0 ∧ s.nbPlace (s.x a) = some (cl, off) ∧ form ≠ .leave ∧ s.core.e.sb = [] ∧
      s.reachesAtOnce o cl = true :=
  ⟨⟨.barArrive Ord.plain 3 1, wafer (coreOf [(1, 0x1000040)]), _, _, _, _, rfl, by decide⟩,
    ⟨.barPhase Ord.plain 3 1, wafer (coreOf [(1, 0x80)]), _, _, _, _, rfl, by decide⟩,
    ⟨.barLeave Ord.plain 1, wafer (coreOf [(1, 0x1000080)]), _, _, _, _, 0, 0x80, rfl, by decide⟩,
    ⟨.barJoin ⟨true, true, 3⟩ 3 1, wafer (coreOf [(1, 0x1000080)]), _, _, _, _, 0, 0x80, rfl, by decide⟩⟩

/-- A near-bank operation of slot 0 in cluster 0, and the wafer whose cluster 0 has it in its queue. -/
def nbOf (form : NbForm) (off : Nat) (b : Word) : NbOp :=
  { form := form, dbl := true, cluster := 0, off := off, addr := 0x1000000 + BitVec.ofNat 64 off, b := b, slot := 0, job := 5,
    fetch := true, rd := 3 }
def nbState (op : NbOp) (l : List (Nat × Word)) (dark : Bool := false) : State :=
  { wafer { coreOf [] with h.wait := some { rd := 3 } } l with clusters := [(0, { nbq := [op], dark := dark })] }

/-- The operation is the first of its cluster's queue whose unit holds no fired record, those of l before it being held. -/
def nbTurn (s : State) (l : List NbOp) (op : NbOp) : Bool :=
  let fired := (s.clusterAt s.arg.place).fired
  let held (o : NbOp) : Bool := fired.any fun p => p.1 == o.off / 64 % 256
  decide (s.arg.place < clusterCount) && (s.clusterAt s.arg.place).nbq == l ++ [op] && s.crc == [] && l.all held && !held op
/-- It may act: its cluster is not dark, nobody watches, its words are clean. -/
def nbActs (s : State) (op : NbOp) : Bool := !(s.clusterAt op.cluster).dark && s.noWatchers && op.words.all s.clean
/-- The state of nb.addf on a cell whose record goes to slot 579, whose FIFO has given number n of records already. -/
def firesState (l : List NbOp) (fired : List (Nat × Nat × Rec)) (c : Core) : State :=
  { wafer { coreOf [] with h.wait := some { rd := 3 } } [(cmFlat 0 0x40, 1), (cmFlat 0 0x48, 15), (cmFlat 0 0x60, 0x0002000000000000)] with
    cores := [(0, { coreOf [] with h.wait := some { rd := 3 } }), (579, c)],
    clusters := [(0, { nbq := l ++ [nbOf .addf 0x40 (BitVec.allOnes 64)], fired := fired })] }
/-- What the firing premises ask of the state. -/
def nbFires (s : State) (op : NbOp) : Bool :=
  let r := Rec.ofWords (s.mem.word (op.flat + 0x20)) (s.mem.word (op.flat + 0x28)) (s.mem.word (op.flat + 0x30))
  op.form == .addf && op.dbl && op.off % 8 == 0 &&
    nbNew op.form 64 (littleEndian s.mem.byte op.flat 8) (op.b.toNat % 2 ^ 64) (op.cmp.toNat % 2 ^ 64) == some 0 &&
    op.b.toNat % 2 ^ 64 != 0 && ((List.range 7).all fun i => s.clean (op.flat + 8 * i)) && op.off % 64 == 0 &&
    clusterSlot op.cluster (littleEndian s.mem.byte (op.flat + 8) 8 % 16) == 579 && FMap.get 1 (s.dieAt (slotDie 579)).rc.gens 579 != 0 &&
    r.prio == 2

theorem witness_NearBankOpsAtThePort :
    (let op := nbOf .add 0 1
     let s := nbState op [] true
     nbTurn s [] op = true ∧ (s.clusterAt op.cluster).dark = true ∧ op.fetch = true) ∧
    (let op := nbOf (.vop 6) 0xFFFFC0 1
     let s := nbState op []
     nbTurn s [] op = true ∧ nbActs s op = true ∧ op.form = .vop 6 ∧ op.off % 64 = 0) ∧
    (let op := nbOf .addf 0 0
     let s := nbState op []
     nbTurn s [] op = true ∧ nbActs s op = true ∧ op.form = .addf ∧ op.off % 8 = 0 ∧ op.b.toNat % 2 ^ 64 = 0) ∧
    (let op := nbOf .addf 0x40 (BitVec.allOnes 64)
     let s := firesState [nbOf .add 0x80 1] [(2, 0, {})] {}
     let q : Rec := { job := 5, prio := 2 }
     nbTurn s [nbOf .add 0x80 1] op = true ∧ nbActs s op = true ∧ nbFires s op = true ∧ s.admits 579 q = true ∧
       (s.coreAt 579).fifoRoom 2 = true) ∧
    let op := nbOf .addf 0x40 (BitVec.allOnes 64)
    let s := firesState [] [] { q := { waitq := [{ job := 5, prio := 2 }] } }
    let q : Rec := { job := 5, prio := 2 }
    nbTurn s [] op = true ∧ nbActs s op = true ∧ nbFires s op = true ∧ s.admits 579 q = false := by
  decide +kernel

theorem witness_NearBankOpsAtThePort_reply :
    ∃ s : State, ∃ rd r, s.arg.place < slotCount ∧ (s.coreAt s.arg.place).h.wait = some { rd := rd, reply := some r } :=
  ⟨wafer { coreOf [] with h.wait := some { rd := 3, reply := some (.value 9) } }, _, _, by decide, rfl⟩

/-- A barrier form of slot 0 in cluster 0's queue. -/
def barState (form : BarForm) (l : List (Nat × Word)) : State :=
  { wafer { coreOf [] with h.wait := some { rd := 3 } } l with
    clusters := [(0, { barq := [{ form := form, cluster := 0, off := 0x80, addr := 0x1000080, slot := 0, idx := 0, rd := 3 }] })] }

theorem witness_BarrierUnits :
    (∃ s : State, ∃ op rest, s.arg.place < clusterCount ∧ (s.clusterAt s.arg.place).barq = op :: rest ∧
      (s.clusterAt op.cluster).dark = false ∧ s.noWatchers = true ∧ op.off % 128 = 0 ∧ op.idx < 16 ∧
      ([0, 0x40, 0x48, 0x50].all fun k => s.clean (cmFlat op.cluster op.off + k)) = true ∧
      (s.mem.word (cmFlat op.cluster op.off)).getLsbD 63 = true ∧
      (barObj s.mem (cmFlat op.cluster op.off)).observed ≤ (barObj s.mem (cmFlat op.cluster op.off)).mask ∧
      (barObj s.mem (cmFlat op.cluster op.off)).arrived = 65534) ∧
    (∃ s : State, ∃ op rest, s.arg.place < clusterCount ∧ (s.clusterAt s.arg.place).barq = op :: rest ∧
      (s.clusterAt op.cluster).dark = false ∧ s.noWatchers = true ∧ op.off % 128 = 0 ∧ op.idx < 16 ∧
      ([0, 0x40, 0x48, 0x50].all fun k => s.clean (cmFlat op.cluster op.off + k)) = true ∧
      (s.mem.word (cmFlat op.cluster op.off)).getLsbD 63 = false ∧ slotCluster op.slot = op.cluster ∧ op.form = .arrive ∧
      (barObj s.mem (cmFlat op.cluster op.off)).mask.testBit op.idx = false) ∧
    ∃ s : State, ∃ op rest, s.arg.place < clusterCount ∧ (s.clusterAt s.arg.place).barq = op :: rest ∧
      (s.clusterAt op.cluster).dark = false ∧ s.noWatchers = true ∧ op.off % 128 = 0 ∧ op.idx < 16 ∧
      ([0, 0x40, 0x48, 0x50].all fun k => s.clean (cmFlat op.cluster op.off + k)) = true ∧
      (s.mem.word (cmFlat op.cluster op.off)).getLsbD 63 = false ∧ slotCluster op.slot = op.cluster ∧ op.form = .leave ∧
      (barObj s.mem (cmFlat op.cluster op.off)).mask = 0xFFFF :=
  ⟨⟨barState .arrive [(cmFlat 0 0x80, 0x8000000000000000), (cmFlat 0 0xC0, 0xFFFF), (cmFlat 0 0xC8, 0xFFFE)], _, _, by decide, rfl,
      by decide +kernel⟩,
    ⟨barState .arrive [], _, _, by decide, rfl, by decide +kernel⟩,
    ⟨barState .leave [(cmFlat 0 0xC0, 0xFFFF)], _, _, by decide, rfl, by decide +kernel⟩⟩

theorem witness_IntegerAndMaskForms :
    (∃ i, ∃ s : State, ∃ o, vecInt i s = some o ∧ s.free o.srcs [] = true ∧ o.n = 64 ∧ o.srcs ≠ []) ∧
    (∃ i, ∃ s : State, ∃ km kd n f, vecCompare i s = some (km, kd, n, f) ∧ n = 8) ∧
    (∃ i, ∃ s : State, ∃ srcs kd v, maskForm i s = some (srcs, kd, v) ∧ s.free srcs [] = true ∧ srcs ≠ []) ∧
    ∃ i, ∃ s : State, ∃ n km rd v a op ext, vecReduce i s = some (n, km, rd, v, a, op, ext) ∧ s.free [a] [rd] = true ∧ n = 8 ∧ rd = 0 :=
  ⟨⟨.vslup 3 1 2 3 4, wafer (coreOf [(4, 100)]), _, rfl, by decide⟩, ⟨.vcmpeq 0 0 1 2 3, wafer (coreOf []), _, _, _, _, rfl, by decide⟩,
    ⟨.kmv 0 1, wafer (coreOf [(1, 7)]), _, _, _, rfl, by decide⟩,
    ⟨.vredadd 0 1 0 2 1, wafer (coreOf [(1, 7)]), _, _, _, _, _, _, _, rfl, by decide⟩⟩

theorem witness_FloatVectorForms :
    (∃ i, ∃ s : State, ∃ o, vecFloat i s = some o ∧ o.cnt = 16 ∧ o.off = 48) ∧
    (∃ s : State, ∃ km, ∃ p : BitVec 2, ∃ a, s.core.plain = true ∧ s.core.g.codes.toNat % 128 = 0 ∧
      s.core.g.codes.toNat + 128 = spSize ∧
      ∀ j, j < 16 → s.isActive km j = true → s.mayLoad (s.core.g.codes.setWidth 64
        + BitVec.ofNat 64 (2 * (s.lane a 6 (16 * p.toNat + j)).toNat)) 2 = true) ∧
    ∃ s : State, ∃ a : VReg, ∃ km : KReg, (∀ j, j < 4 → s.isActive km (4 * 0 + j) = true) ∧
      ¬ (∀ j, j < 4 → s.isActive km (4 * 1 + j) = true) ∧ a = 1 :=
  ⟨⟨.vtenc 0 0 3 1 2, wafer (coreOf []), _, rfl, rfl, rfl⟩,
    ⟨wafer { coreOf [] with g.codes := 0xFFF80 }, 0, 3, 1, by decide +kernel⟩,
    ⟨wafer { coreOf [] with h.k := [(1, 0x7F)] }, 1, 1, by decide⟩⟩

theorem witness_VectorMemoryForms :
    (∃ i, ∃ s : State, ∃ srcs n km vd f, vecLoad i s = some (srcs, n, km, vd, f) ∧ s.free srcs [] = true ∧ s.core.plain = true ∧
      ∀ j, j < 512 / n → s.isActive km j = true → s.mayLoad (f j) (n / 8) = true) ∧
    (∃ i, ∃ s : State, ∃ srcs n km vd f j, vecLoad i s = some (srcs, n, km, vd, f) ∧ s.free srcs [] = true ∧
      s.core.plain = true ∧ j < 512 / n ∧ s.isActive km j = true ∧ (∀ k, k < j → s.isActive km k = true →
        (f k).toNat % (n / 8) = 0 ∧ inWindow (f k) (n / 8) = true) ∧ (f j).toNat % (n / 8) ≠ 0 ∧ j = 7) ∧
    (∃ i, ∃ s : State, ∃ srcs n km vd f j, vecLoad i s = some (srcs, n, km, vd, f) ∧ s.free srcs [] = true ∧
      s.core.plain = true ∧ j < 512 / n ∧ s.isActive km j = true ∧ (∀ k, k < j → s.isActive km k = true →
        (f k).toNat % (n / 8) = 0 ∧ inWindow (f k) (n / 8) = true) ∧ (f j).toNat % (n / 8) = 0 ∧
      inWindow (f j) (n / 8) = false ∧ j = 3) ∧
    (∃ i, ∃ s : State, ∃ srcs n l, vecStore i s = some (srcs, n, l) ∧ s.free srcs [] = true ∧ s.core.plain = true ∧
      (l.all fun p => !(p.1.toNat % (n / 8) ≠ 0 || !inWindow p.1 (n / 8)) && s.clean (s.flat p.1)) = true ∧ l.length = 8) ∧
    (∃ i, ∃ s : State, ∃ srcs n l j p, vecStore i s = some (srcs, n, l) ∧ s.free srcs [] = true ∧ s.core.plain = true ∧
      l[j]? = some p ∧ p.1.toNat % (n / 8) ≠ 0 ∧
      ((l.take j).all fun q => q.1.toNat % (n / 8) = 0 && inWindow q.1 (n / 8)) = true) ∧
    ∃ i, ∃ s : State, ∃ srcs n l j p, vecStore i s = some (srcs, n, l) ∧ s.free srcs [] = true ∧ s.core.plain = true ∧
      l[j]? = some p ∧ p.1.toNat % (n / 8) = 0 ∧ inWindow p.1 (n / 8) = false ∧
      ((l.take j).all fun q => q.1.toNat % (n / 8) = 0 && inWindow q.1 (n / 8)) = true ∧ j = 2 :=
  ⟨⟨.vld 3 0 2 1, wafer (coreOf [(1, 0xFFFC0)]), _, _, _, _, _, rfl, by decide +kernel⟩,
    ⟨.vlds 3 1 2 1 3, wafer { coreOf [(1, 0x101), (3, 2)] with h.k := [(1, 0x80)] }, _, _, _, _, _, 7, rfl, by decide +kernel⟩,
    ⟨.vlds 3 0 2 1 3, wafer (coreOf [(1, 0xFFFE8), (3, 8)]), _, _, _, _, _, 3, rfl, by decide +kernel⟩,
    ⟨.vst 3 0 2 1, wafer (coreOf [(1, 0xFFFC0)]), _, _, _, rfl, by decide +kernel⟩,
    ⟨.kst 2 1, wafer (coreOf [(1, 0x104)]), _, _, _, 0, _, rfl, by decide, by decide, rfl, by decide, by decide⟩,
    ⟨.vst 3 0 2 1, wafer (coreOf [(1, 0xFFFF0)]), _, _, _, 2, (0x100000, 0), rfl, by decide +kernel⟩⟩

/-- The argument of a control register's write at slot 0. -/
def ctlState (c : Core) (a : Nat) (v : Word) : State := { wafer c with arg := { a := a, word := v } }

theorem witness_ControlWrites :
    (∃ s : State, ∃ ev old new, s.arg.place < slotCount ∧ s.csrValue s.arg.place s.arg.a = some old ∧
      ctlRead ev s.arg.a old s.arg.word = some new ∧ ev = .gvundoWrite ∧ (s.coreAt s.arg.place).r.stack ≠ []) ∧
    (∃ s : State, ∃ ev old new, s.arg.place < slotCount ∧ s.csrValue s.arg.place s.arg.a = some old ∧
      ctlRead ev s.arg.a old s.arg.word = some new ∧ ev ≠ .gvundoWrite ∧ (s.coreAt s.arg.place).csrStalls s.arg.a = true) ∧
    (∃ s : State, ∃ ev old new, s.arg.place < slotCount ∧ s.csrValue s.arg.place s.arg.a = some old ∧
      ctlRead ev s.arg.a old s.arg.word = some new ∧ ev = .gvbudWrite ∧ (s.coreAt s.arg.place).csrStalls s.arg.a = false ∧
      (s.coreAt s.arg.place).areaInUse s.arg.a = false ∧ new = 0x1000) ∧
    ∃ s : State, ∃ ev old new, s.arg.place < slotCount ∧ s.csrValue s.arg.place s.arg.a = some old ∧
      ctlRead ev s.arg.a old s.arg.word = some new ∧ ev = .gvfmtWrite ∧ (s.coreAt s.arg.place).csrStalls s.arg.a = false ∧
      (s.coreAt s.arg.place).areaInUse s.arg.a = false ∧ s.arg.word = 7 ∧ new = old :=
  ⟨⟨ctlState (logCore [] [{ txn := false, mark := 0x1000, begin_ := 0x100 }]) 0x809 0x4000, .gvundoWrite, _, _, by decide, rfl, rfl,
      rfl, by decide⟩,
    ⟨ctlState { coreOf [] with e.mxq := [mxOf .mma false] } 0x800 1, .gvfmtWrite, _, _, by decide, rfl, rfl, by decide⟩,
    ⟨ctlState (coreOf []) 0x5C0 0xFFF, .gvbudWrite, _, _, by decide, rfl, rfl, by decide⟩,
    ⟨ctlState (coreOf []) 0x802 7, .gvfmtWrite, _, _, by decide, rfl, rfl, by decide⟩⟩

/-- A transaction that has begun and is doomed. -/
def doomedState : State :=
  (after (exec (.txnBegin 1) (wafer (logCore [(1, 2)])))).mapCore fun c => { c with r.doomed := true }

theorem witness_BetweenInstructions :
    (∃ s : State, s.arg.place < slotCount ∧
      let c := s.coreAt s.arg.place
      c.atBoundary = true ∧ c.overrunDue = none ∧
      let pend := s.mip s.arg.place
      let m := c.enabledM pend
      let e := if m.getLsbD 9 || m.getLsbD 1 || m.getLsbD 5 then m else c.enabledS pend
      e.getLsbD 9 = false ∧ e.getLsbD 1 = true ∧ e.getLsbD 5 = true) ∧
    (∃ s : State, ∃ k, s.arg.place < slotCount ∧ (s.coreAt s.arg.place).atBoundary = true ∧
      (s.coreAt s.arg.place).h.task = some k ∧ (s.coreAt s.arg.place).atTask = true ∧ (s.coreAt s.arg.place).h.hs = .run ∧
      k.overran = false ∧ k.budget ≤ k.count ∧ (s.coreAt s.arg.place).r.stack = []) ∧
    (∃ s : State, ∃ e, s.arg.place < slotCount ∧ (s.coreAt s.arg.place).atBoundary = true ∧
      (s.coreAt s.arg.place).r.doomed = true ∧ (s.coreAt s.arg.place).atTask = true ∧ (s.coreAt s.arg.place).h.hs = .run ∧
      (s.coreAt s.arg.place).r.stack = [e] ∧ e.txn = true ∧ State.commandsDone { s with cur := s.arg.place } = true ∧
      State.rollsBack { s with cur := s.arg.place } 0 true = true) ∧
    (∃ s : State, ∃ m, s.arg.place < slotCount ∧ decode (s.arg.word.setWidth 32) = .error m) ∧
    (∃ s : State, s.arg.place < slotCount ∧ ∃ ps rest, (s.coreAt s.arg.place).e.sb = .store ps :: rest ∧ ps ≠ [] ∧ s.noWatchers = true ∧
      s.crc = [] ∧ (∀ l ∈ ps, ∀ w ∈ l, w.addr % 8 = 0 ∧ s.clean w.addr = true) ∧ (∃ m ∈ ps, pieceBlock m = s.arg.a) ∧ rest ≠ []) ∧
    ∃ s : State, s.arg.place < slotCount ∧ (s.coreAt s.arg.place).n.time.toNat < (s.coreAt s.arg.place).c.stimecmp.toNat ∧
      (s.coreAt s.arg.place).h.hs = .wfi ∧ (s.coreAt s.arg.place).c.mie.getLsbD 5 = true :=
  ⟨⟨wafer { coreOf [] with c.mie := 0x222, c.ssip := true, c.stimecmp := 0 }, by decide⟩,
    ⟨wafer { coreOf [] with h.task := some { item := { job := 5 }, prio := 1, budget := 0x1000, count := 0x1000 } }, _, by decide,
      by decide, rfl, by decide⟩,
    ⟨doomedState, { txn := true, mark := 0x1000, begin_ := 0x100, regs := [1], stamp := 1 },
      by decide +kernel⟩,
    ⟨State.reset, _, by decide, rfl⟩,
    ⟨{ wafer { coreOf [] with e.sb := [.store [[{ addr := 0x200, mask := 1, data := 7 }], [{ addr := 0x210, mask := 1, data := 8 }]],
         .store [[]]] } with arg := { a := 0x21 } }, by decide, _, _, rfl, by decide⟩,
    ⟨wafer { coreOf [] with h.hs := .wfi, h.task := none, c.mie := 0x20, c.stimecmp := 5 }, by decide⟩⟩

/-- A message of one word for job 5, as a send-queue entry towards a slot, and as a packet. -/
def msgOf (reply : Bool) : Msg := { reply := reply, job := 5, code := 0x800, prio := 1, wid := true, payload := [7], top := false }
def packetOf (dst cls : Nat) (b : Body) : Packet :=
  { src := 0, dst := dst, cls := BitVec.ofNat 2 cls, route := 16, key := 0, job := 5, at_ := 0, inp := 4, body := b }

/-- A head whose target has a full input. -/
def fullTarget (s : State) (m : Send) (w : BitVec 2) : Bool := w != 2 && decide (4 ≤ (FMap.get [] (s.coreAt m.dst).m.inq w.toNat).length)
/-- Network vn is the first whose head may go, after those of pre. -/
def injects (s : State) (pre : List (BitVec 2)) (vn : BitVec 2) (post : List (BitVec 2)) : Bool :=
  decide ((if s.core.m.alt then [3, 1, 2, 0] else [3, 1, 0, 2]) = pre ++ vn :: post) &&
    (pre.all fun w => match s.core.sendq w with | [] => true | g :: _ => fullTarget s g w) &&
    (match s.core.sendq vn with
     | [] => false
     | m :: _ => !fullTarget s m vn && (slotDie 0 == slotDie m.dst || m.rl != some 3))

theorem witness_PacketsEnterAndLeave_inject :
    (let s := wafer { coreOf [] with m.sendq := [(2, [{ dst := 24, job := 5, rl := some 2, body := .msg (msgOf false) }])] }
     injects s [3, 1, 0] 2 [] = true) ∧
    (let s := wafer { coreOf [] with m.sendq := [(3, [{ dst := 1, job := 5, rl := some 3, body := .msg (msgOf false) }])] }
     injects s [] 3 [1, 0, 2] = true) ∧
    let p := packetOf 1 0 (.msg (msgOf false))
    let s : State := { cores := [
      (0, { coreOf [] with
        m.alt := true
        m.sendq := [(0, [{ dst := 24, job := 5, rl := none, body := .msg (msgOf false) }]),
                    (1, [{ dst := 1, job := 5, rl := none, body := .msg (msgOf true) }])] }),
      (1, { coreOf [] with m.inq := [(1, [p, p, p, p])] })] }
    injects s [3, 1, 2] 0 [] = true := by decide

theorem witness_PacketsEnterAndLeave_accept :
    ∃ s : State, ∃ p rest m i reply, s.arg.place < slotCount ∧
      (reply = false → FMap.get [] (s.coreAt s.arg.place).m.inq 1 = []) ∧
      FMap.get [] (s.coreAt s.arg.place).m.inq (if reply then 1 else 0) = p :: rest ∧ p.body = .msg m ∧ m.reply = reply ∧
      s.takesJob s.arg.place m.job = true ∧
      (s.coreAt s.arg.place).fifoRoom m.prio.toNat = true ∧ (s.coreAt s.arg.place).freeFrame reply = some i ∧
      s.noWatchers = true ∧ frameBase (s.coreAt s.arg.place).g i % 64 = 0 ∧ reply = false ∧ i = 1 :=
  ⟨wafer { coreOf [] with m.inq := [(0, [packetOf 0 0 (.msg (msgOf false))])], g.fpool := 0x0001030000000000, m.frames := [0] },
    _, _, _, 1, false, by decide, by decide, rfl, rfl, by decide⟩

/-- A token of edge 2 with a number. -/
def tokOf (seq : BitVec 32) : Token := { edge := 2, seq := seq, payload := [9], top := false, done := false }
/-- A wafer with edge 2, whose core 0 holds job 5. -/
def edgeState (e : Edge) : State :=
  { wafer { coreOf [] with u.job := some 5 } with wafer := { edges := [(2, e)] }, arg := { place := 2 } }

theorem witness_TokensLandAndFire_land :
    ∃ s : State, ∃ e t rel rest slot n, s.edgeAt s.arg.place = some e ∧ e.arrived = (t, rel) :: rest ∧ e.dst = .actor slot n ∧
      slot < slotCount ∧ e.hasLanded t.seq = false ∧ s.takesToken e = true ∧ t.etag = false ∧ e.ring % 8 = 0 ∧ e.bytes % 8 = 0 ∧
      (∀ p ∈ s.ringEdges (spFlat slot (e.ring + e.slotOfSeq t.seq * (8 + e.bytes))),
        ((s.coreAt p.2.2.1).actor p.2.2.2.1).en = false ∨ ((s.coreAt p.2.2.1).actor p.2.2.2.1).busy = true) ∧
      (∀ d, (s.dieAt d).rc.box = none ∧ (s.dieAt d).ports = []) ∧ s.noWatchers = true ∧ e.slotOfSeq t.seq = 0 :=
  ⟨edgeState { edgeOf (.actor 1 3) (.actor 0 63) with ring := 0x400, headSlot := 3, headSeq := 7, arrived := [(tokOf 8, false)] },
    _, _, _, _, _, _, rfl, rfl, rfl, by decide, by decide, by decide, by decide, by decide, by decide, by decide, fun _ => ⟨rfl, rfl⟩,
    by decide, by decide⟩

theorem witness_TokensLandAndFire_tagged :
    ∃ s : State, ∃ e t rel rest, s.edgeAt s.arg.place = some e ∧ e.nextArrived = some (t, rel) ∧ rest = e.arrived.erase (t, rel) ∧ e.slots ≠ 0 ∧
      e.hasLanded t.seq = false ∧ s.takesToken e = true ∧ FMap.get 0 e.tries t.seq.toNat = 1 ∧ ∃ w ∈ e.window, w.seq = t.seq :=
  ⟨edgeState { edgeOf (.actor 1 3) (.actor 0 63) with
        arrived := [({ tokOf 0 with etag := true }, false)], tries := [(0, 1)], window := [tokOf 0] }, _, { tokOf 0 with etag := true }, false, _, rfl, by decide, rfl, by decide⟩

theorem witness_TokensLandAndFire_again :
    (∃ s : State, ∃ e w slot n, s.edgeAt s.arg.place = some e ∧ e.src = .actor slot n ∧
      (e.window.find? fun x => x.seq.toNat = s.arg.a) = some w) ∧
    (∃ s : State, ∃ e n, s.edgeAt s.arg.place = some e ∧ e.dst = .dram n ∧ ∀ w ∈ e.window, w.seq.toNat ≠ s.arg.a) ∧
    ∃ s : State, ∃ e, s.edgeAt s.arg.place = some e ∧ e.slots ≠ 0 ∧ e.credits = e.slots :=
  ⟨⟨edgeState { edgeOf (.actor 1 3) (.actor 0 63) with window := [tokOf 0] }, _, tokOf 0, _, _, rfl, rfl, by decide⟩,
    ⟨edgeState { edgeOf (.actor 1 3) (.dram 71) with window := [tokOf 1] }, _, 71, rfl, rfl, by decide⟩,
    ⟨edgeState { edgeOf (.actor 1 3) (.actor 0 63) with credits := 4 }, _, rfl, by decide⟩⟩

theorem witness_TokensLandAndFire_fire :
    ∃ s : State, ∃ slot n, (((s.coreAt slot).actor n).en = true ∧ ((s.coreAt slot).actor n).held = false ∧
      ((s.coreAt slot).actor n).mig = false ∧ ((s.coreAt slot).actor n).busy = false ∧ ((s.coreAt slot).actor n).single = none ∧
      s.pairOf ((s.coreAt slot).actor n) = none) ∧
      (∀ q, q < 8 → ((s.coreAt slot).actor n).inmask.getLsbD q = true → s.headFull slot ((s.coreAt slot).actor n) q = true) ∧
      (∀ e, e < 8 → ((s.coreAt slot).actor n).outmask.getLsbD e = true → s.hasCredit ((s.coreAt slot).actor n) e = true) ∧
      (s.coreAt slot).u.job.isSome = true ∧ (s.coreAt slot).u.swap = none ∧ s.wafer.freeze = .running ∧
      (s.coreAt slot).fifoRoom ((s.coreAt slot).actor n).prio.toNat = true ∧ s.noWatchers = true ∧
      ((s.coreAt slot).actor n).inmask = 1 ∧ ((s.coreAt slot).actor n).outmask = 1 :=
  ⟨{ wafer { coreOf [] with
        u.job := some 5
        q.actors := [(63, { en := true, inmask := 1, outmask := 1, code := 0x800, state := 0x600, size := 128,
                            inq := [2, 0xFFFF, 0xFFFF, 0xFFFF, 0xFFFF, 0xFFFF, 0xFFFF, 0xFFFF],
                            outq := [3, 0xFFFF, 0xFFFF, 0xFFFF, 0xFFFF, 0xFFFF, 0xFFFF, 0xFFFF] })] } with
      wafer := { edges := [(2, { edgeOf (.actor 1 3) (.actor 0 63) with ring := 0x400 }), (3, edgeOf (.actor 0 63) (.actor 1 3))] }
      mem := { tags := [(0x400, { full := true })] } }, 0, 63, by decide⟩

/-- A wafer with a DRAM actor, an edge, and a translation entry at die 0. -/
def dramState (a : DramActor) (e : Edge) (l : List (Nat × Word) := []) : State :=
  { wafer (coreOf []) l with
    wafer := { actors := [(0, a)], edges := [(2, e)] }
    dies := [(0, { x := { tlb := [{ job := 5, vpn := 0, level := 0, pte := 0xDF }] } })] }

theorem witness_DramActorsServe_take :
    ∃ s : State, ∃ p, ∃ q : DReq, ∃ f h off, s.arg.place < actorCount ∧ (s.dramActor s.arg.place).turn = some (p, q) ∧ q.etag = false ∧
      s.dreqMalformed s.arg.place q = false ∧
      s.dreqSpot s.arg.place q.edge q.job (q.words.getD 0 0) (dreqBytes (q.words.getD 1 0))
        (dramAccess (dreqOp (q.words.getD 1 0))) = (s, .at_ f) ∧ homeOf f = .dram h off :=
  ⟨dramState { ports := [(7, [{
        edge := 2, seq := 0, job := 5, words := [0x0200000000000400, 0x800000800, 0], etag := false, top := false }])] } (edgeOf (.actor 0 63) (.dram 0)), 7, _, dramBase + 0x400, 0, 0x400, by decide, rfl, by decide +kernel⟩

/-- A piece of a request at its home. -/
def pieceOf (w1 : Word) (l : List Word) : DPiece :=
  { front := 0, id := 0, job := 5, words := [0x0200000000000400, w1, 0] ++ l, pa := 0, place := some (dramBase + 0x400) }

theorem witness_DramActorsServe_home :
    (∃ s : State, ∃ p rest f, s.arg.place < actorCount ∧ (s.dramActor s.arg.place).pieces = p :: rest ∧ p.place = some f ∧
      s.noWatchers = true ∧ s.noReplicas = true ∧ dreqOp (p.words.getD 1 0) = 0 ∧ dreqBytes (p.words.getD 1 0) = 256 ∧
      ∀ j, j < 256 → s.clean (f + j) = true) ∧
    (∃ s : State, ∃ p rest f, s.arg.place < actorCount ∧ (s.dramActor s.arg.place).pieces = p :: rest ∧ p.place = some f ∧
      s.noWatchers = true ∧ s.noReplicas = true ∧ dreqOp (p.words.getD 1 0) = 1 ∧ dreqBytes (p.words.getD 1 0) = 8 ∧
      ∀ j, j < 8 → s.clean (f + j) = true) ∧
    ∃ s : State, ∃ p rest f, s.arg.place < actorCount ∧ (s.dramActor s.arg.place).pieces = p :: rest ∧ p.place = some f ∧
      s.noWatchers = true ∧ s.noReplicas = true ∧ 2 ≤ dreqOp (p.words.getD 1 0) ∧ dreqBytes (p.words.getD 1 0) = 4 ∧
      f % 4 = 0 ∧ ∀ j, j < 4 → s.clean (f + j) = true :=
  ⟨⟨dramState { pieces := [pieceOf 0x10000000800 []] } (edgeOf (.actor 0 63) (.dram 0)), _, _, dramBase + 0x400, by decide, rfl, rfl,
      by decide, by decide, by decide, by decide, fun _ _ => rfl⟩,
    ⟨dramState { pieces := [pieceOf 0x800000801 [9]] } (edgeOf (.actor 0 63) (.dram 0)), _, _, dramBase + 0x400, by decide, rfl, rfl,
      by decide⟩,
    ⟨dramState { pieces := [pieceOf 0x81E [1, 0]] } (edgeOf (.actor 0 63) (.dram 0)), _, _, dramBase + 0x400, by decide, rfl, rfl,
      by decide⟩⟩

theorem witness_DramActorsServe_reply :
    ∃ s : State, ∃ j l bad e k x, s.arg.place < actorCount ∧ (s.dramActor s.arg.place).jobs = [j] ∧ j.reply = some (l, bad) ∧
      j.rep = some e ∧ j.done = [] ∧ s.dramOut s.arg.place e j.job = some (k, x) ∧ s.edgeAt k = some x ∧ x.credits ≠ 0 ∧
      x.rel = false ∧ s.holdsTokens x = false :=
  ⟨dramState { jobs := [{
        job := 5, port := 0, top := false, id := 0, slot := 4, words := [], rep := some 7, done := []
        reply := some ([3], false) }] } (edgeOf (.dram 0) (.actor 0 63)), _, _, _, _, 2, _, by decide, rfl, rfl, rfl, rfl, rfl, rfl, by decide⟩

/-- A core at rest with a system form in its control input. -/
def sysState (op : SysOp) (sel : Word) (u : Upkeep) : State :=
  wafer { h := { hs := .idle }, u := u, m := { inq := [(3, [packetOf 0 3 (.sys { op := op, issuer := 1, target := 0, sel := sel, rd := 3 })])] } }

/-- The form is at the head of the control input of slot 0. -/
def sysHead (s : State) (op : SysOp) (sel : Word) : Bool :=
  match FMap.get [] (s.coreAt 0).m.inq 3 with
  | [p] => p.body == .sys { op := op, issuer := 1, target := 0, sel := sel, rd := 3 } && !s.sysWaits 0 p.body
  | _ => false

theorem witness_SystemFormsAtTheirTarget :
    sysHead (sysState .halt 0 {}) .halt 0 = true ∧
    (let s := sysState .resume 0 { halted := true }
     sysHead s .resume 0 = true ∧ (s.coreAt 0).u.halted = true) ∧
    (let s := sysState .resume 0 { haltPend := true }
     sysHead s .resume 0 = true ∧ (s.coreAt 0).u.halted = false) ∧
    (let s := sysState .remap 1 {}
     sysHead s .remap 1 = true ∧ s.columnOf 0 = some 0) ∧
    (let s := sysState .inspect 0x200000 {}
     sysHead s .inspect 0x200000 = true) ∧
    (let s := sysState .inspect 0x2FFFF { halted := true }
     sysHead s .inspect 0x2FFFF = true ∧ (s.coreAt 0).u.halted = true ∧ (s.mem.tag (spFlat 0 (8 * 0x1FFFF))).flips = 0) ∧
    (let s := sysState .scan 0 { halted := true }
     sysHead s .scan 0 = true ∧ (s.coreAt 0).u.halted = true ∧ (s.coreAt 0).u.scan = none ∧ (s.coreAt 0).u.job = none) ∧
    (let s := sysState .scan 0 {}
     sysHead s .scan 0 = true ∧ (s.coreAt 0).u.halted = false) ∧
    sysHead (sysState .sig 0 {}) .sig 0 = true := by decide

/-- A core whose actor 0 has waited for its output 0, and the core of the consumer, which is halted. -/
def stalledState : State :=
  let s := sysState .inspect 0x100040 {}
  { s with
    cores := [(0, { s.coreAt 0 with q.actors := [(0, { en := true, stallCause := 2, outq := [2], stallCount := 9 })] }),
              (1, { u := { halted := true } })]
    wafer := { edges := [(2, edgeOf (.actor 0 0) (.actor 1 0))] } }

theorem witness_SystemFormsAtTheirTarget_stall :
    sysHead stalledState .inspect 0x100040 = true ∧ ((stalledState.coreAt 0).actor 0).stallCause = 2 ∧
      boundEdge ((stalledState.coreAt 0).actor 0).outq 0 = some 2 ∧ stalledState.consumer 2 = some 1 ∧
      (stalledState.coreAt 1).u.halted = true := by decide

theorem witness_SystemFormsAtTheirTarget_ends :
    (∃ s : State, ∃ cmd, s.arg.place < slotCount ∧ (s.coreAt s.arg.place).u.scan = some cmd ∧
      ∀ p ∈ (s.coreAt s.arg.place).q.actors, p.2.held = true) ∧
    ∃ s : State, ∃ r rest, s.arg.place < slotCount ∧ (s.coreAt s.arg.place).m.results = r :: rest :=
  ⟨⟨wafer { u := { scan := some { op := .scan, issuer := 1, target := 0 } }, q := { actors := [(0, { held := true })] } }, _, by decide,
      rfl, by decide⟩,
    ⟨wafer { coreOf [] with m.results := [{ rd := 3, serial := 0, value := 7 }] }, _, _, by decide, rfl⟩⟩

/-- Slot 0 with bits of the word at an address flipped. -/
def flippedState (f : Nat) (x : BitVec 72) : State := { wafer (coreOf []) with mem := { tags := [(f, { flips := x })] } }
/-- One live job 5, and a core 0 as given. -/
def waveState (j : Job) (c : Core) : State := { wafer c with wafer := { jobs := [(5, some j)] } }
def jobOf : Job := { prio := 0, graph := 0, x0 := 0, y0 := 0, w := 1, h := 1 }
/-- The mailbox of die 0 in core 1, and a wafer with it. -/
def box0 : Mailbox := { core := 1, base := 0x4000 }
def boxState (c : Core) (x : RegionCtl := {}) : State := { wafer c with dies := [(0, { rc := { x with box := some box0 } })] }
theorem takes_box0 (s : State) (h : (s.dieAt 0).rc.box = some box0) (h1 : (s.mem.tag (noticeSlotFlat box0 0)).full = false)
    (h2 : s.noWatchers = true) (hf : s.wafer.freeze = .running := by rfl) : s.takesNotice 0 box0 :=
  ⟨hf, by decide, h, rfl, by decide, by decide, by decide, by decide, by decide, h1, h2⟩

theorem witness_UpkeepAndWaves_scrub :
    (∃ s : State, s.arg.place < slotCount ∧ (s.coreAt s.arg.place).u.scrub = 131071 ∧
      (s.dieAt (slotDie s.arg.place)).rc.box = none ∧
      (s.mem.tag (spFlat s.arg.place (8 * (s.coreAt s.arg.place).u.scrub))).flips = 0) ∧
    (∃ s : State, s.arg.place < slotCount ∧ (s.coreAt s.arg.place).u.scrub < 131072 ∧
      (s.dieAt (slotDie s.arg.place)).rc.box = none ∧
      ∃ i, i < 72 ∧ (s.mem.tag (spFlat s.arg.place (8 * (s.coreAt s.arg.place).u.scrub))).flips = 1#72 <<< i ∧ i = 71) ∧
    (∃ s : State, s.arg.place < clusterCount ∧ s.arg.a = 255 ∧ FMap.get 0 (s.clusterAt s.arg.place).scrubs s.arg.a = 8191 ∧
      (s.dieAt (clusterDie s.arg.place)).rc.box = none ∧ (s.clusterAt s.arg.place).dark = false) ∧
    ∃ s : State, s.arg.place < clusterCount ∧ s.arg.a < 256 ∧ (s.dieAt (clusterDie s.arg.place)).rc.box = none ∧
      (s.clusterAt s.arg.place).dark = true :=
  ⟨⟨wafer { u := { scrub := 131071 } }, by decide⟩,
    ⟨flippedState 0 (1#72 <<< 71), by decide, by decide, by decide, 71, by decide⟩,
    ⟨{ clusters := [(0, { scrubs := [(255, 8191)] })], arg := { a := 255 } }, by decide⟩,
    ⟨{ clusters := [(0, { dark := true })] }, by decide⟩⟩

theorem witness_UpkeepAndWaves_wave :
    (∃ s : State, ∃ n j, n < 4096 ∧ s.wafer.jobs = [(n, some j)] ∧ (∀ d, (s.dieAt d).rc.box = none ∧ (s.dieAt d).ds = {}) ∧
      s.jobActive (BitVec.ofNat 12 n) = true) ∧
    (∃ s : State, ∃ n j, n < 4096 ∧ s.wafer.jobs = [(n, some j)] ∧ (∀ d, (s.dieAt d).rc.box = none ∧ (s.dieAt d).ds = {}) ∧
      s.jobActive (BitVec.ofNat 12 n) = false ∧ j.idle = 0) ∧
    (∃ s : State, ∃ n j, n < 4096 ∧ s.wafer.jobs = [(n, some j)] ∧ (∀ d, (s.dieAt d).rc.box = none ∧ (s.dieAt d).ds = {}) ∧
      s.jobActive (BitVec.ofNat 12 n) = false ∧ j.idle ≠ 0 ∧ j.events = 0 ∧ j.balance = 0 ∧ j.lost = false) ∧
    ∃ s : State, ∃ n j, n < 4096 ∧ s.wafer.jobs = [(n, some j)] ∧ (∀ d, (s.dieAt d).rc.box = none ∧ (s.dieAt d).ds = {}) ∧
      s.jobActive (BitVec.ofNat 12 n) = false ∧ j.idle ≠ 0 ∧ j.events = 0 ∧ j.balance = 1 :=
  ⟨⟨waveState jobOf { coreOf [] with u.job := some 5 }, 5, _, by decide, rfl, fun _ => ⟨rfl, rfl⟩, by decide⟩,
    ⟨waveState jobOf {}, 5, _, by decide, rfl, fun _ => ⟨rfl, rfl⟩, by decide⟩,
    ⟨waveState { jobOf with idle := 1 } {}, 5, _, by decide, rfl, fun _ => ⟨rfl, rfl⟩, by decide⟩,
    ⟨waveState { jobOf with idle := 1, counts := [(0, 2), (1, -1)] } {}, 5, _, by decide, rfl, fun _ => ⟨rfl, rfl⟩, by decide⟩⟩

theorem witness_UpkeepAndWaves_blocks :
    (let s : State := { boxState (coreOf []) with
       arg := { a := 1000 }, mem := { tags := (List.range 8).map fun i => (scanBlockFlat box0 i, { full := true }) } }
     ∀ i, i < 8 → (s.mem.tag (scanBlockFlat box0 i)).full = true) ∧
    let s : State := { boxState (coreOf []) with
      arg := { a := 1000 }, mem := { tags := (List.range 7).map fun i => (scanBlockFlat box0 i, { full := true }) } }
    (s.mem.tag (scanBlockFlat box0 7)).full = false ∧ ∀ k, k < 7 → (s.mem.tag (scanBlockFlat box0 k)).full = true := by
  decide +kernel

theorem witness_UpkeepAndWaves_watchdog :
    ∃ s : State, ∃ b, s.arg.place < slotCount ∧ s.takesNotice (slotDie s.arg.place) b ∧
      (s.dieAt (slotDie s.arg.place)).rc.scanWait = [] ∧ s.wafer.edges = [] ∧ s.stallClass s.arg.place = 1 ∧
      s.arg.a = (s.dieAt (slotDie s.arg.place)).rc.interval s.arg.place ∧
      (s.coreAt s.arg.place).u.prog.toNat = s.arg.b :=
  ⟨{ boxState (coreOf []) with arg := { a := 1000 } }, box0, by decide, takes_box0 _ rfl rfl rfl, by decide⟩

/-- Actor 0 of core 0 with a full ring, and core 1 of a higher class with the same job. -/
def driftState (d : DriftUnit) (mig full : Bool) (cls : BitVec 6 := 28) : State :=
  { cores := [(0, { g := { cls := 10 }, u := { job := some 5 },
                    q := { actors := [(0, { en := true, mig := mig, state := 0x600, size := 128,
                                            inq := [2, 0xFFFF, 0xFFFF, 0xFFFF, 0xFFFF, 0xFFFF, 0xFFFF, 0xFFFF] })] } }),
      (1, { g := { cls := cls }, u := { job := some 5 } })]
    dies := [(0, { drift := d })]
    wafer := { edges := [(2, { edgeOf (.actor 2 3) (.actor 0 0) with slots := 1, ring := 0x400 })] }
    mem := { tags := if full then [(0x400, { full := true })] else [] } }
def migOf (st : DriftState) : Migration := { slot := 0, num := 0, dst := 1, dnum := 0, job := 5, state := st }

theorem witness_DriftMovesActors_sample :
    ∃ s t : State, ∃ dst, s.arg.place < slotCount ∧ exec .driftSample s = .next t ∧
      let num := (s.busiest s.arg.place).2
      let k := FMap.get {} (t.dieAt (slotDie s.arg.place)).drift.counts s.arg.place
      k.run = 8 ∧ k.waits = [] ∧ (s.dieAt (slotDie s.arg.place)).drift.mig = none ∧
      (s.coreAt s.arg.place).movable num = true ∧ s.rowHeld s.arg.place = false ∧ s.destination s.arg.place num = some dst :=
  let s := driftState { counts := [(0, { run := 7 })] } false true
  ⟨s, after (exec .driftSample s), 1, by decide, next_after (by decide +kernel), by decide +kernel⟩

theorem witness_DriftMovesActors_steps :
    (∃ s : State, ∃ m k e, s.arg.place < dieCount ∧ (s.dieAt s.arg.place).drift.mig = some m ∧
      s.qualifies m.slot m.num m.dst (some m.dnum) = true ∧ s.edgesInto m.slot m.num = [(k, e)] ∧ s.edgeAt k = some e ∧
      m.state = .stopping ∧ ((s.coreAt m.slot).actor m.num).busy = false) ∧
    (∃ s : State, ∃ m k e, s.arg.place < dieCount ∧ (s.dieAt s.arg.place).drift.mig = some m ∧
      s.qualifies m.slot m.num m.dst (some m.dnum) = true ∧ s.edgesInto m.slot m.num = [(k, e)] ∧ s.edgeAt k = some e ∧
      m.state = .draining ∧ s.onTheWay k e = false ∧ s.noWatchers = true ∧ e.ring % 8 = 0 ∧ e.bytes % 8 = 0 ∧
      ((s.coreAt m.slot).actor m.num).state.toNat % 8 = 0 ∧ ((s.coreAt m.slot).actor m.num).size % 8 = 0 ∧
      ((s.coreAt m.slot).actor m.num).state.toNat + ((s.coreAt m.slot).actor m.num).size ≤ spSize ∧
      e.header e.slots ≤ spSize ∧ meetRange (((s.coreAt m.slot).actor m.num).state.toNat, ((s.coreAt m.slot).actor m.num).size)
        (e.ring, e.slots * (8 + e.bytes)) = false ∧ ∀ off, off < spSize → s.clean (spFlat m.slot off) = true) ∧
    (∃ s : State, ∃ m k e p n, s.arg.place < dieCount ∧ (s.dieAt s.arg.place).drift.mig = some m ∧
      s.qualifies m.slot m.num m.dst (some m.dnum) = true ∧ s.edgesInto m.slot m.num = [(k, e)] ∧ s.edgeAt k = some e ∧
      m.state = .copying ∧ (m.dst, m.dnum) ≠ (m.slot, m.num) ∧ s.edgesFrom m.slot m.num = [] ∧
      s.edgesInto m.dst m.dnum = [] ∧ e.src = .actor p n ∧ s.noWatchers = true) ∧
    ∃ s : State, ∃ m, s.arg.place < dieCount ∧ (s.dieAt s.arg.place).drift.mig = some m ∧ m.state = .draining ∧
      s.qualifies m.slot m.num m.dst (some m.dnum) = false :=
  ⟨⟨driftState { mig := some (migOf .stopping) } true false, _, 2, _, by decide, rfl, by decide +kernel, rfl, rfl, rfl, by decide⟩,
    ⟨driftState { mig := some (migOf .draining) } true false, _, 2, _, by decide, rfl, by decide +kernel, rfl, rfl, rfl, by decide,
      by decide, by decide, by decide, by decide, by decide, by decide, by decide, by decide, fun _ _ => rfl⟩,
    ⟨driftState { mig := some (migOf .copying) } true false, _, 2, _, _, _, by decide, rfl, by decide +kernel, rfl, rfl, rfl,
      by decide, by decide, by decide, rfl, by decide⟩,
    ⟨driftState { mig := some (migOf .draining) } true false 10, _, by decide, rfl, rfl, by decide +kernel⟩⟩

/-- A wafer in the midst of a load. -/
def loadState (l : Load) (arg : Arg := {}) (jobs : FMap (Option Job) := []) : State :=
  { wafer := { load := l, jobs := jobs }, arg := arg }

theorem witness_ConfigurationsLoad :
    (∃ s : State, s.wafer.load.state = .idle) ∧ (∃ s : State, s.wafer.load.state = .aborting) ∧
    (∃ s : State, s.arg.place = 71 ∧ s.wafer.load.answered s.arg.place = false ∧ s.wafer.load.state = .staging ∧
      s.arg.flag = true) ∧
    (∃ s : State, ∃ job j, s.arg.place < dieCount ∧ s.wafer.load.answered s.arg.place = false ∧ s.wafer.load.state = .staging ∧
      s.arg.flag = false ∧ s.jobAt job = some j ∧ j.live = true ∧ j.graph = imgSlot s.wafer.load.image ∧
      j.onDie s.arg.place = true) ∧
    (∃ s : State, s.arg.place < dieCount ∧ s.wafer.load.answered s.arg.place = false ∧ s.wafer.load.state = .staging ∧
      s.wafer.jobs = [] ∧ (s.dieAt s.arg.place).ds.waiting = []) ∧
    (∃ s : State, s.arg.place < dieCount ∧ s.wafer.load.answered s.arg.place = false ∧ s.wafer.load.state = .committing ∧
      ∀ p ∈ (s.dieAt s.arg.place).ds.waiting, p.waiting = true → p.graph ≠ imgSlot s.wafer.load.image) ∧
    (∃ s : State, ∃ d r rest, s.wafer.load.answers = (d, r) :: rest ∧ s.wafer.load.state = .staging ∧ r = 2) ∧
    (∃ s : State, ∃ d r rest, s.wafer.load.answers = (d, r) :: rest ∧ s.wafer.load.state = .staging ∧ r = 0 ∧
      (s.wafer.load.acks ++ [d]).length = dieCount) ∧
    (∃ s : State, ∃ d r rest, s.wafer.load.answers = (d, r) :: rest ∧ s.wafer.load.state = .committing ∧
      (s.wafer.load.acks ++ [d]).length = dieCount ∧ s.wafer.load.later = []) ∧
    ∃ s : State, s.arg.place < dieCount ∧ s.wafer.load.state = .aborting ∧ s.wafer.load.acks.contains s.arg.place = false ∧
      s.wafer.load.later = [] ∧ s.wafer.load.acks.length + 1 = dieCount :=
  ⟨⟨State.reset, rfl⟩, ⟨loadState { state := .aborting }, rfl⟩,
    ⟨loadState { state := .staging } { place := 71, flag := true }, by decide⟩,
    ⟨loadState { state := .staging } {} [(5, some jobOf)], 5, _, by decide, by decide, rfl, rfl, rfl, by decide⟩,
    ⟨loadState { state := .staging }, by decide⟩, ⟨loadState { state := .committing }, by decide⟩,
    ⟨loadState { state := .staging, answers := [(3, 2)] }, _, _, _, rfl, rfl, rfl⟩,
    ⟨loadState { state := .staging, answers := [(71, 0)], acks := List.range 71 }, _, _, _, rfl, by decide⟩,
    ⟨loadState { state := .committing, answers := [(71, 0)], acks := List.range 71 }, _, _, _, rfl, by decide⟩,
    ⟨loadState { state := .aborting, acks := List.range 71 } { place := 71 }, by decide⟩⟩

/-- A launch packet for configuration slot 0: generation, priority, job, and its records. -/
def launchWords (gen prio job : Nat) (recs : List Word := []) : List Word :=
  [BitVec.ofNat 64 (gen * 2 ^ 16 + prio * 2 ^ 32 + job * 2 ^ 36), BitVec.ofNat 64 (recs.length / 5), 0, 0, 0, 0, 0, 0] ++ recs
/-- Every die holds a configuration of a generation in slot 0. -/
def confState (gen : BitVec 16) (m : List Word) (words : List Word) (c : Core := {}) : State :=
  { wafer c with
    dies := (List.range 72).map fun d => (d, { ds := { slots := [(0, { gen := gen, active := m })] } })
    arg := { words := words } }
/-- An image of a grid of one core with eight bytes of code. -/
def oneCore : List Word := [0, 0x1010000, 0, 0x20000000100, 0x800000060, 0, 0, 0, 0, 0, 0, 0, 0x13]

theorem witness_LaunchesClaimCores_reports :
    (∃ s : State, ∃ ev, ev = Instr.ueLaunchPacket ∧ portDie s.arg.place = true ∧
      (s.arg.words.getD 0 0).extractLsb' 36 12 = (0 : BitVec 12) ∧ s.arg.words.getD 1 0 = 0) ∧
    (∃ s : State, ∃ ev p, ev = Instr.launchPacket ∧ launchOf s.arg.words = some p ∧
      ∀ d, d < dieCount → (s.conf d p.graph).gen ≠ 0 ∧ (s.conf d p.graph).gen ≠ p.gen ∧
        olderGen (s.conf d p.graph).gen p.gen = false) ∧
    (∃ s : State, ∃ ev p, ev = Instr.launchPacket ∧ launchOf s.arg.words = some p ∧
      (∀ d, d < dieCount → (s.conf d p.graph).gen = 0) ∧ olderGen 0 p.gen = false) ∧
    (∃ s : State, ∃ ev p, ev = Instr.launchPacket ∧ launchOf s.arg.words = some p ∧
      ∀ d, d < dieCount → (s.conf d p.graph).gen ≠ 0 ∧ olderGen (s.conf d p.graph).gen p.gen = true) ∧
    (∃ s : State, s.arg.place < dieCount ∧ launchOf s.arg.words = none ∧ s.arg.words.getD 1 0 ≠ 0) ∧
    ∃ s : State, s.arg.place < dieCount ∧ portDie s.arg.place = false :=
  ⟨⟨{ State.reset with arg := { place := 8 } }, _, rfl, by decide⟩,
    ⟨confState 2 [] (launchWords 1 0 5), _, { graph := 0, gen := 1, prio := 0, job := 5, recs := [] }, rfl, by decide +kernel⟩,
    ⟨confState 0 [] (launchWords 0x8000 0 5), _, { graph := 0, gen := 0x8000, prio := 0, job := 5, recs := [] }, rfl, by decide +kernel⟩,
    ⟨confState 1 [] (launchWords 2 0 5), _, { graph := 0, gen := 2, prio := 0, job := 5, recs := [] }, rfl, by decide +kernel⟩,
    ⟨confState 1 [] (launchWords 2 0 0 [0, 0, 0, 0, 0]), by decide +kernel⟩, ⟨State.reset, by decide⟩⟩

theorem witness_LaunchesClaimCores_claim :
    ∃ s : State, ∃ ev p m slot, ev = Instr.launchPacket ∧ launchOf s.arg.words = some p ∧ slot < slotCount ∧ p.gen ≠ 0 ∧
      (∀ d, d < dieCount → (s.conf d p.graph).gen = p.gen ∧ (s.dieAt d).ds.waiting = [] ∧ (s.conf d p.graph).active = m) ∧
      imgGrid m = [slot] ∧ s.isHole slot = false ∧ s.jobAt p.job = none ∧ imgActors m = [] ∧ imgEdges m = [] ∧
      (s.coreAt slot).vacant = true ∧ s.wafer.edges = [] ∧ s.noWatchers = true ∧ (s.dieAt (slotDie slot)).ds.saved = [] ∧
      (∀ off, off < spSize → s.clean (spFlat slot off) = true) ∧ (p.records m).length = 1 ∧ imgCodeAt m + (imgSec m 0).2 ≤ imgDataAt m ∧
      imgDataAt m + (imgSec m 1).2 ≤ spSize ∧ (p.records m).map Prod.snd = [slot] ∧ (imgSec m 0).2 = 8 :=
  ⟨confState 1 oneCore (launchWords 1 0 5 [0x0001000000000100, 0, 0, 0, 0]), _,
    { graph := 0, gen := 1, prio := 0, job := 5, recs := [({ prio := 1, code := 0x100 }, 0)] }, oneCore, 0, rfl,
    by decide +kernel, by decide, by decide, by decide +kernel, by decide +kernel, by decide +kernel, rfl, by decide +kernel,
    by decide +kernel, by decide, rfl, rfl, rfl, fun _ _ => rfl, by decide, by decide +kernel, by decide +kernel, by decide +kernel,
    by decide +kernel⟩

theorem witness_LaunchesClaimCores_preempt :
    ∃ s : State, ∃ ev p m slot job, ev = Instr.launchPacket ∧ launchOf s.arg.words = some p ∧ slot < slotCount ∧ p.gen ≠ 0 ∧
      (∀ d, d < dieCount → (s.conf d p.graph).gen = p.gen ∧ (s.dieAt d).ds.waiting = [] ∧ (s.conf d p.graph).active = m) ∧
      imgGrid m = [slot] ∧ s.isHole slot = false ∧ s.jobAt p.job = none ∧ imgActors m = [] ∧ imgEdges m = [] ∧
      (s.coreAt slot).u.job = some job ∧ p.prio.toNat < (s.coreAt slot).u.jobPrio.toNat ∧ (s.coreAt slot).u.whold = false ∧
      (s.coreAt slot).u.swap = none ∧ (s.coreAt slot).u.failed = false ∧ (s.coreAt slot).h.task = none :=
  ⟨confState 1 oneCore (launchWords 1 0 5) { u := { job := some 6, jobPrio := 1 } }, _,
    { graph := 0, gen := 1, prio := 0, job := 5, recs := [] }, oneCore, 0, 6, rfl, rfl, by decide, by decide, by decide +kernel,
    by decide +kernel⟩

/-- Core 0 with job 5's context and a swap, a save area at die 0, and job 0's page there. -/
def swapState (u : Upkeep) (len : Nat) (saved : List Saved := []) : State :=
  { cores := [(0, { h := { hs := .idle }, u := u })]
    dies := [(0, { ds := { areas := if len = 0 then [] else [(5, { addr := 0x0200000000000FF8, len := len })], saved := saved }
                   x := { tlb := [{ job := 0, vpn := 0, level := 0, pte := 0xDF }] } })] }
def swapOf (save : Bool) (cursor len : Nat) (image : List Byte := []) : Swap :=
  { save := save, job := 5, addr := 0x0200000000000FF8, len := len, cursor := cursor, image := image }

theorem witness_ContextsSwap_out :
    (∃ s : State, ∃ job, s.arg.place < slotCount ∧
      let c := s.coreAt s.arg.place
      c.u.job = some job ∧ c.u.preempt = true ∧ c.h.task = none ∧ c.h.traps = [] ∧ c.u.swap = none ∧ c.u.whold = false ∧
      (FMap.get {} (s.dieAt (slotDie s.arg.place)).ds.areas job.toNat).len = 0 ∧ (s.dieAt (slotDie s.arg.place)).rc.box = none) ∧
    ∃ s : State, ∃ job, s.arg.place < slotCount ∧
      let c := s.coreAt s.arg.place
      c.u.job = some job ∧ c.u.preempt = true ∧ c.h.task = none ∧ c.h.traps = [] ∧ c.u.swap = none ∧ c.u.whold = false ∧
      (FMap.get {} (s.dieAt (slotDie s.arg.place)).ds.areas job.toNat).len ≠ 0 ∧
      (s.enginesDone s.arg.place && c.e.sb.isEmpty && !s.migrating s.arg.place) = true :=
  ⟨⟨swapState { job := some 5, preempt := true } 0, 5, by decide⟩,
    ⟨swapState { job := some 5, preempt := true } 0x10000, 5, by decide⟩⟩

theorem witness_ContextsSwap_save :
    (∃ s : State, ∃ w f, s.arg.place < slotCount ∧ (s.coreAt s.arg.place).u.swap = some w ∧ w.save = true ∧ w.paused = false ∧
      (s.dieAt (slotDie s.arg.place)).rc.box = none ∧ w.cursor < 8 * (s.saveImage s.arg.place w.job).length ∧ w.cursor < w.len ∧
      s.dramSpot (slotDie s.arg.place) 0 (w.addr + BitVec.ofNat 64 w.cursor) .write = (s, .at_ f) ∧ dramBase ≤ f ∧
      s.noReplicas = true ∧ ∀ j, j < 8 → s.clean (f + j) = true) ∧
    (∃ s : State, ∃ w, s.arg.place < slotCount ∧ (s.coreAt s.arg.place).u.swap = some w ∧ w.save = true ∧ w.paused = false ∧
      (s.dieAt (slotDie s.arg.place)).rc.box = none ∧ 8 * (s.saveImage s.arg.place w.job).length ≤ w.cursor ∧
      (∀ l, l < 4 → levelRing (s.coreAt s.arg.place).q l = {}) ∧ (s.dieAt (slotDie s.arg.place)).ds.waiting = []) ∧
    ∃ s : State, ∃ w, s.arg.place < slotCount ∧ (s.coreAt s.arg.place).u.swap = some w ∧ w.save = true ∧ w.paused = false ∧
      (s.dieAt (slotDie s.arg.place)).rc.box = none ∧ w.cursor < 8 * (s.saveImage s.arg.place w.job).length ∧ w.len ≤ w.cursor ∧
      s.sleepersOf s.arg.place w.job = [] ∧ s.wafer.edges = [] ∧ (s.coreAt s.arg.place).q.waitq = [] ∧
      (s.coreAt s.arg.place).m.inq = [] ∧ ∀ p ∈ (s.coreAt s.arg.place).q.actors, p.2.en = false :=
  ⟨⟨swapState { job := some 5, swap := some (swapOf true 0 0x10000) } 0x10000, _, dramBase + 0xFF8, by decide, rfl, rfl, rfl, rfl,
      by decide +kernel⟩,
    ⟨swapState { job := some 5, swap := some (swapOf true 0x100000 0x200000) } 0x10000, _, by decide, rfl, rfl, rfl, rfl,
      by decide +kernel⟩,
    ⟨swapState { job := some 5, swap := some (swapOf true 8 8) } 8, _, by decide, rfl, rfl, rfl, rfl, by decide +kernel⟩⟩

theorem witness_ContextsSwap_restore :
    (∃ s : State, ∃ w f, s.arg.place < slotCount ∧ (s.coreAt s.arg.place).u.swap = some w ∧ w.save = false ∧ w.paused = false ∧
      (s.dieAt (slotDie s.arg.place)).rc.box = none ∧ w.cursor < 16 ∧ w.cursor < w.len ∧
      s.dramSpot (slotDie s.arg.place) 0 (w.addr + BitVec.ofNat 64 w.cursor) .read = (s, .at_ f) ∧
      ∀ j, j < 8 → s.clean (f + j) = true) ∧
    (∃ s : State, ∃ w v, s.arg.place < slotCount ∧ (s.coreAt s.arg.place).u.swap = some w ∧ w.save = false ∧ w.paused = false ∧
      (s.dieAt (slotDie s.arg.place)).rc.box = none ∧
      let l := wordsOf w.image (w.image.length / 8)
      let n := (l.getD 0 0).toNat
      16 ≤ w.cursor ∧ ((l.getD 1 0).setWidth 12 = w.job ∧ n ≤ w.len) ∧ n ≤ w.cursor ∧
      (s.dieAt (slotDie s.arg.place)).ds.saved = [v] ∧ v.slot = s.arg.place ∧ v.job = w.job ∧ (l.getD 1 0).toNat / 65536 = 0 ∧
      (l.drop 32).take 1536 = List.replicate 1536 0 ∧ v.actors = [] ∧ v.rings = [] ∧ s.wafer.edges = [] ∧
      (s.coreAt s.arg.place).q.waitq = [] ∧ (s.coreAt s.arg.place).m.inq = [] ∧
      (s.dieAt (slotDie s.arg.place)).ds.waiting = []) ∧
    ∃ s : State, ∃ w, s.arg.place < slotCount ∧ (s.coreAt s.arg.place).u.swap = some w ∧ w.save = false ∧ w.paused = false ∧
      (s.dieAt (slotDie s.arg.place)).rc.box = none ∧ w.cursor = 16 ∧
      ((wordsOf w.image (w.image.length / 8)).getD 1 0).setWidth 12 ≠ w.job ∧
      (s.dieAt (slotDie s.arg.place)).ds.waiting = [] ∧
      ∀ v ∈ (s.dieAt (slotDie s.arg.place)).ds.saved, v.slot = s.arg.place → v.job = w.job :=
  ⟨⟨swapState { swap := some (swapOf false 0 0x10000) } 0x10000, _, dramBase + 0xFF8, by decide, rfl, rfl, rfl, rfl, by decide +kernel⟩,
    ⟨swapState { swap := some (swapOf false 12544 0x10000 (bytesOf 12544 8 ++ bytesOf 5 8 ++ List.replicate 12528 0)) } 0x10000
        [{ slot := 0, job := 5, prio := 1 }], _, _, by decide, rfl, rfl, rfl, rfl, by decide +kernel, by decide +kernel, by decide +kernel,
      rfl, by decide +kernel⟩,
    ⟨swapState { swap := some (swapOf false 16 0x10000 (List.replicate 16 0)) } 0x10000 [{ slot := 0, job := 5, prio := 1 }], _,
      by decide, rfl, rfl, rfl, rfl, by decide +kernel⟩⟩

/-- A command in the next slot of die 0's mailbox. -/
def cmdState (op w1 w2 w3 : Word) (x : Die := {}) (c : Core := {}) : State :=
  { cores := [(0, c)]
    dies := [(0, { x with rc := { x.rc with box := some box0 } })]
    mem := { memOf [(0x104800, op), (0x104808, w1), (0x104810, w2), (0x104818, w3)] with tags := [(0x104800, { full := true })] } }

theorem witness_MailboxCommands_faults :
    (∃ s : State, ∃ b w1 w2 w3, s.commands s.arg.place b 1 w1 w2 w3 ∧ ∀ f ∈ (s.dieAt s.arg.place).x.faults, f.id ≠ some w1.toNat) ∧
    (∃ s : State, ∃ b w1 w2 w3 f k rest, s.commands s.arg.place b 1 w1 w2 w3 ∧ (s.dieAt s.arg.place).x.faults = [f] ∧
      f.id = some w1.toNat ∧ f.place < slotCount ∧ f.unit_ = 0 ∧ (s.coreAt f.place).e.cpq = k :: rest) ∧
    (∃ s : State, ∃ b w1 w2 w3 f w, s.commands s.arg.place b 1 w1 w2 w3 ∧ (s.dieAt s.arg.place).x.faults = [f] ∧
      f.id = some w1.toNat ∧ f.place < slotCount ∧ f.unit_ = 3 ∧ (s.coreAt f.place).u.swap = some w) ∧
    ∃ s : State, ∃ b w1 w2 w3 f k rest, s.commands s.arg.place b 2 w1 w2 w3 ∧ (s.dieAt s.arg.place).x.faults = [f] ∧
      f.id = some w1.toNat ∧ f.place < slotCount ∧ f.unit_ = 0 ∧ (s.coreAt f.place).e.cpq = k :: rest :=
  let cp : OpenFault := { id := some 255, va := 0, job := 5, reason := 1, access := 0, unit_ := 0, place := 0 }
  let sw : OpenFault := { id := some 255, va := 0, job := 5, reason := 1, access := 0, unit_ := 3, place := 0 }
  let waits : Core := { coreOf [] with e.cpq := [{ cpOf .go 8 0 0 with phase := .paused }] }
  ⟨⟨cmdState 1 255 0 0, box0, 255, 0, 0, ⟨takes_box0 _ rfl (by decide) (by decide), by decide +kernel⟩, by decide⟩,
    ⟨cmdState 1 255 0 0 { x := { faults := [cp] } } waits, box0, 255, 0, 0, cp, _, _,
      ⟨takes_box0 _ rfl (by decide) (by decide), by decide +kernel⟩, rfl, rfl, by decide, rfl, rfl⟩,
    ⟨cmdState 1 255 0 0 { x := { faults := [sw] } } { u := { swap := some { swapOf true 0 8 with paused := true } } }, box0, 255, 0, 0,
      sw, _, ⟨takes_box0 _ rfl (by decide) (by decide), by decide +kernel⟩, rfl, rfl, by decide, rfl, rfl⟩,
    ⟨cmdState 2 255 0 0 { x := { faults := [cp] } } waits, box0, 255, 0, 0, cp, _, _,
      ⟨takes_box0 _ rfl (by decide) (by decide), by decide +kernel⟩, rfl, rfl, by decide, rfl, rfl⟩⟩

theorem witness_MailboxCommands :
    (∃ s : State, ∃ b w1 w2 w3, s.commands s.arg.place b 3 w1 w2 w3 ∧ w1 = 4095 ∧ rootOk w2.toNat = true) ∧
    (∃ s : State, ∃ b w1 w2 w3, s.commands s.arg.place b 3 w1 w2 w3 ∧ w1 = 4096) ∧
    (∃ s : State, ∃ b w1 w2 w3, s.commands s.arg.place b 4 w1 w2 w3 ∧ w1 = 4095 ∧ w2 = 0) ∧
    (∃ s : State, ∃ b w1 w2 w3, s.commands s.arg.place b 5 w1 w2 w3 ∧ w1.toNat < 4096 ∧ isSpace2 w2 = true ∧ w2.toNat % 64 = 0 ∧
      (s.dieAt s.arg.place).ds.waiting = []) ∧
    (∃ s : State, ∃ b w1 w2 w3, s.commands s.arg.place b 5 w1 w2 w3 ∧ w2.toNat % 64 = 32) ∧
    (∃ s : State, ∃ b w1 w2 w3, s.commands s.arg.place b 6 w1 w2 w3 ∧ w1 = 0xFFFF ∧ w2 = 10) ∧
    (∃ s : State, ∃ b w1 w2 w3, s.commands s.arg.place b 6 w1 w2 w3 ∧ w2 = 9) ∧
    (∃ s : State, ∃ b w1 w2 w3, s.commands s.arg.place b 7 w1 w2 w3 ∧ w1 = 65536) ∧
    (∃ s : State, ∃ b w1 w2 w3, s.commands s.arg.place b 7 w1 w2 w3 ∧ w1 = 65537) ∧
    ∃ s : State, ∃ b w1 w2 w3, s.commands s.arg.place b 11 w1 w2 w3 :=
  ⟨⟨cmdState 3 4095 1 0, box0, 4095, 1, 0, ⟨takes_box0 _ rfl (by decide) (by decide), by decide +kernel⟩, rfl, by decide⟩,
    ⟨cmdState 3 4096 1 0, box0, 4096, 1, 0, ⟨takes_box0 _ rfl (by decide) (by decide), by decide +kernel⟩, rfl⟩,
    ⟨cmdState 4 4095 0 0, box0, 4095, 0, 0, ⟨takes_box0 _ rfl (by decide) (by decide), by decide +kernel⟩, rfl, rfl⟩,
    ⟨cmdState 5 5 0x0200000000000040 64, box0, 5, 0x0200000000000040, 64, ⟨takes_box0 _ rfl (by decide) (by decide),
      by decide +kernel⟩, by decide⟩,
    ⟨cmdState 5 5 0x0200000000000020 64, box0, 5, 0x0200000000000020, 64, ⟨takes_box0 _ rfl (by decide) (by decide),
      by decide +kernel⟩, by decide⟩,
    ⟨cmdState 6 0xFFFF 10 0, box0, 0xFFFF, 10, 0, ⟨takes_box0 _ rfl (by decide) (by decide), by decide +kernel⟩, rfl, rfl⟩,
    ⟨cmdState 6 0 9 0, box0, 0, 9, 0, ⟨takes_box0 _ rfl (by decide) (by decide), by decide +kernel⟩, rfl⟩,
    ⟨cmdState 7 65536 0 0, box0, 65536, 0, 0, ⟨takes_box0 _ rfl (by decide) (by decide), by decide +kernel⟩, rfl⟩,
    ⟨cmdState 7 65537 0 0, box0, 65537, 0, 0, ⟨takes_box0 _ rfl (by decide) (by decide), by decide +kernel⟩, rfl⟩,
    ⟨cmdState 11 0 0 0, box0, 0, 0, 0, ⟨takes_box0 _ rfl (by decide) (by decide), by decide +kernel⟩⟩⟩

/-- The command that binds port 1 of die 8 to job 5, whose grid holds the gateway cores. -/
def bindState : State :=
  { dies := [(8, { rc := { box := some { core := 4608, base := 0x4000 } } })]
    wafer := { jobs := [(5, some { jobOf with y0 := 24, h := 24 })] }
    arg := { place := 8 }
    mem := { memOf [(spFlat 4608 0x4800, 10), (spFlat 4608 0x4808, 0x50001), (spFlat 4608 0x4810, 0x800),
                    (spFlat 4608 0x4818, 0xFFF800)] with tags := [(spFlat 4608 0x4800, { full := true })] } }

theorem witness_MailboxCommands_bind :
    ∃ s : State, ∃ b w1 w2 w3, s.commands s.arg.place b 10 w1 w2 w3 ∧ w1 &&& 0xFFFFFFFFF000FFFE = 0 ∧ w2.toNat < 2 ^ 50 ∧
      w3.toNat < 2 ^ 24 ∧ w3.toNat % 2048 = 0 ∧ portDie s.arg.place = true ∧
      s.holdsGateways (w1.extractLsb' 16 12) s.arg.place (w1.toNat % 2) = true :=
  ⟨bindState, { core := 4608, base := 0x4000 }, 0x50001, 0x800, 0xFFF800,
    ⟨⟨rfl, by decide, rfl, rfl, by decide, by decide, by decide, by decide, by decide, by decide +kernel, by decide +kernel⟩, by decide +kernel⟩,
    by decide, by decide, by decide, by decide, by decide, by decide +kernel⟩

/-- With no poisoned or flipped tag listed every word is clean. -/
theorem clean_of_all (s : State) (h : (s.mem.tags.all fun p => !p.2.poison && p.2.flips == 0) = true) (f : Nat) : s.clean f = true := by
  have key : ∀ (l : FMap MemTag) (k : Nat), (l.all fun p => !p.2.poison && p.2.flips == 0) = true →
      (!(FMap.get {} l k).poison && (FMap.get {} l k).flips == 0) = true := by
    intro l k hl
    induction l with
    | nil => rfl
    | cons p t ih =>
      obtain ⟨j, v⟩ := p
      simp only [List.all_cons, Bool.and_eq_true] at hl
      unfold FMap.get FMap.find
      by_cases hj : j = k
      · rw [if_pos hj]; simpa using hl.1
      · rw [if_neg hj]; exact ih (by simpa using hl.2)
  exact key _ _ h

/-- Job 5's page 0 of space 0x02 stands at physical page 0, as die 0's translation unit holds it. -/
def pageDie (p : Pages := {}) : Die := { x := { tlb := [{ job := 5, vpn := 0, level := 0, pte := 0xDF }] }, pages := p }

theorem witness_PagesReplicateAndMove_replicate :
    ∃ s : State, ∃ b w1 w2 w3, ∃ e : TlbEntry, ∃ h f, s.commands s.arg.place b 8 w1 w2 w3 ∧ w1.toNat = 5 + 2 ^ 16 * 71 ∧ isSpace2 w2 = true ∧ w2.toNat % 4096 = 0 ∧
      FMap.get 0 s.wafer.seqDies 5 = 0 ∧ (s.dieAt s.arg.place).pages.repl = [] ∧ s.wafer.replq = [] ∧
      (s.dies.all fun p => p.2.pages.moves.isEmpty) = true ∧ w3 ≠ 0 ∧ replicaFlat s.arg.place w3 = some f ∧
      ((s.dieAt s.arg.place).x.tlb.find? fun e => e.job == w1.setWidth 12 && e.covers w2) = some e ∧
      leafReason e.pte (w1.setWidth 12) .read = none ∧ physFlat (leafAddr e.pte e.level w2) = some h ∧
      ∀ i, i < 4096 → s.clean (h / 4096 * 4096 + i) = true ∧ s.clean (f + i) = true :=
  ⟨cmdState 8 0x470005 0x0200000000000000 0x0100000000001000 (pageDie), box0, 0x470005, 0x0200000000000000, 0x0100000000001000,
    { job := 5, vpn := 0, level := 0, pte := 0xDF }, dramBase, cmFlat 0 0x1000,
    ⟨takes_box0 _ rfl (by decide) (by decide), by decide +kernel⟩, by decide, by decide, by decide, by decide, by decide, by decide, by decide,
    by decide, by decide, by decide +kernel, by decide, by decide, fun _ _ => ⟨clean_of_all _ (by decide) _, clean_of_all _ (by decide) _⟩⟩

theorem witness_PagesReplicateAndMove_write :
    ∃ s : State, ∃ w rest d x r n, s.wafer.replq = w :: rest ∧ s.dies = [(d, x)] ∧ x.pages.repl = [r] ∧ r.job = w.job ∧
      w.bytes.map Prod.fst = (List.range n).map (fun i => r.home + i) ∧ (∀ b ∈ w.bytes, b.2.2 = false) ∧ n = 1 ∧ r.home % 4096 = 0 ∧ s.noWatchers = true ∧
      (∀ i, i < 4096 → s.clean (r.at_ + i) = true) ∧ r.at_ % 8 = 0 :=
  ⟨{ dies := [(0, pageDie { repl := [{ job := 5, va := 0x0200000000000000, seqDie := 0, at_ := cmFlat 0 0x1000, home := dramBase }] })]
     wafer := { replq := [{ job := 5, bytes := [(dramBase, 7, false)], number := 0 }] } }, _, _, _, _, _, 1, rfl, rfl, rfl, rfl, rfl, by decide, rfl,
    by decide, by decide, fun _ _ => rfl, by decide⟩

theorem witness_PagesReplicateAndMove_poison :
    ∃ s : State, ∃ w d x r b, s.wafer.replq = [w] ∧ s.dies = [(d, x)] ∧ x.pages.repl = [r] ∧ r.job = w.job ∧ w.bytes = [b] ∧
      b.1 / 4096 * 4096 = r.home ∧ s.noWatchers = true ∧ s.clean (r.at_ + b.1 % 4096) = true ∧ b.2.2 = true ∧ b.1 % 4096 = 4095 :=
  ⟨{ dies := [(0, pageDie { repl := [{ job := 5, va := 0x0200000000000000, seqDie := 0, at_ := cmFlat 0 0x1000, home := dramBase }] })]
     wafer := { replq := [{ job := 5, bytes := [(dramBase + 4095, 7, true)], number := 0 }] } }, _, _, _, _, _, rfl, rfl, rfl, rfl, rfl,
    by decide +kernel⟩

/-- A move of page 0 to physical page 16 × 4 KiB × 16, which is of the same actor. -/
def moveOf (copied removal : Bool) : Move :=
  { job := 5, va := 0x0200000000000000, oldPa := 0, newPa := if removal then 0 else 0x10000, removal := removal, copied := copied }

theorem witness_PagesReplicateAndMove_move :
    (∃ s : State, ∃ b w1 w2 w3 old, s.commands s.arg.place b 9 w1 w2 w3 ∧ (s.dieAt s.arg.place).pages.moves = [] ∧
      w1.toNat < 4096 ∧ isSpace2 w2 = true ∧ w2.toNat % 4096 = 0 ∧ w3.toNat % 4096 = 0 ∧
      (w3 ≠ 0 ∧ w3.toNat < 2 ^ 46 ∧ physFlat w3.toNat ≠ none) ∧ s.heldPage s.arg.place (w1.setWidth 12) w2 w3.toNat = some old) ∧
    (∃ s : State, ∃ b w1 w2 w3 n, s.commands s.arg.place b 9 w1 w2 w3 ∧ (s.dieAt s.arg.place).pages.moves = [] ∧ w1.toNat < 4096 ∧
      isSpace2 w2 = true ∧ w2.toNat % 4096 = 0 ∧ w3 = 0 ∧ s.heldPage s.arg.place (w1.setWidth 12) w2 w3.toNat = none ∧ n < actorCount ∧
      actorDie n = s.arg.place) ∧
    (∃ s : State, ∃ b w1 w2 w3, s.commands s.arg.place b 9 w1 w2 w3 ∧ (s.dieAt s.arg.place).pages.moves = [] ∧ w2.toNat % 4096 = 2048) ∧
    (∃ s : State, ∃ m f g, s.arg.place < dieCount ∧ (s.dieAt s.arg.place).pages.moves = [m] ∧ m.copied = false ∧
      physFlat m.oldPa = some f ∧ physFlat m.newPa = some g ∧ f % 4096 = 0 ∧ g % 4096 = 0 ∧ f ≠ g ∧
      (∀ i, i < 4096 → s.clean (f + i) = true ∧ s.clean (g + i) = true) ∧ s.piecesIn m.oldPa = false) ∧
    ∃ s : State, ∃ b m w1 w2 w3, s.commands s.arg.place b 9 w1 w2 w3 ∧ (s.dieAt s.arg.place).pages.moves = [m] ∧ m.copied = true ∧
      ¬ (s.piecesFor m.oldPa = true ∨ (m.removal = false ∧ s.piecesIn m.newPa = true)) :=
  ⟨⟨cmdState 9 5 0x0200000000000000 0x10000 (pageDie), box0, 5, 0x0200000000000000, 0x10000, 0,
      ⟨takes_box0 _ rfl (by decide) (by decide), by decide +kernel⟩, rfl, by decide, by decide, by decide, by decide, by decide,
      by decide +kernel⟩,
    ⟨cmdState 9 5 0x0200000000001000 0 (pageDie), box0, 5, 0x0200000000001000, 0, 0,
      ⟨takes_box0 _ rfl (by decide) (by decide), by decide +kernel⟩, rfl, by decide +kernel⟩,
    ⟨cmdState 9 5 0x0200000000000800 0x10000 (pageDie), box0, 5, 0x0200000000000800, 0x10000,
      ⟨takes_box0 _ rfl (by decide) (by decide), by decide +kernel⟩, rfl, by decide⟩,
    ⟨{ dies := [(0, pageDie { moves := [moveOf false false] })] }, _, dramBase, dramBase + 0x1000, by decide, rfl, rfl, by decide,
      by decide, by decide, by decide, by decide, fun _ _ => ⟨rfl, rfl⟩, by decide⟩,
    ⟨cmdState 9 5 0x0200000000000000 0x10000 (pageDie { moves := [moveOf true false] }), box0, _, 5, 0x0200000000000000, 0x10000,
      ⟨takes_box0 _ rfl (by decide) (by decide), by decide +kernel⟩, rfl, rfl, by decide +kernel⟩⟩

/-- A region controller of die 0 with requests or waves. -/
def rcState (x : RegionCtl) (cores : FMap Core := []) : State := { cores := cores, dies := [(0, { rc := x })] }
def reqOf (col : Nat) (hole : Bool) : Removal := { row := 23, col := col, hole := hole, cause := 2 }
def waveOf (k : Nat) : Wave := { die := 0, row := 23, col := 5, first := 5, k := k, cause := 2 }
theorem unspent_row : ∀ p, p < 25 → (0x18#64).getLsbD (9 + p) = false := by decide

theorem witness_CoresAreRemoved_failures :
    (∃ s : State, s.arg.a = 24) ∧ (∃ s : State, s.arg.b = 25) ∧ (∃ s : State, s.arg.place = dieCount) ∧
    (∃ s : State, s.arg.place < dieCount ∧ s.arg.a < 24 ∧ s.arg.b < 25 ∧
      ((s.rowWord s.arg.place s.arg.a).getLsbD (9 + s.arg.b)
        || (s.dieAt s.arg.place).rc.failed.contains (s.arg.a, s.arg.b)) = true) ∧
    ∃ s : State, ∃ j, s.arg.place < dieCount ∧ s.arg.a = 23 ∧ s.arg.b = 23 ∧
      ((s.rowWord s.arg.place s.arg.a).getLsbD (9 + s.arg.b)
        || (s.dieAt s.arg.place).rc.failed.contains (s.arg.a, s.arg.b)) = false ∧
      (s.dieAt s.arg.place).rc.waves = [] ∧ rowSlotAt (s.rowWord s.arg.place s.arg.a) s.arg.b = some j :=
  ⟨⟨{ arg := { a := 24 } }, rfl⟩, ⟨{ arg := { b := 25 } }, rfl⟩, ⟨{ arg := { place := 72 } }, rfl⟩,
    ⟨{ rcState { failed := [(23, 24)] } with arg := { a := 23, b := 24 } }, by decide⟩,
    ⟨{ arg := { place := 71, a := 23, b := 23 } }, 23, by decide⟩⟩

theorem witness_CoresAreRemoved_requests :
    (∃ s : State, ∃ r, s.arg.place < dieCount ∧ (s.dieAt s.arg.place).rc.requests = [r] ∧ (s.dieAt s.arg.place).rc.waves = [] ∧
      r.row < 24 ∧ r.col < 25 ∧ (s.rowWord s.arg.place r.row).getLsbD (9 + r.col) = true) ∧
    (∃ s : State, ∃ r, s.arg.place < dieCount ∧ (s.dieAt s.arg.place).rc.requests = [r] ∧ (s.dieAt s.arg.place).rc.waves = [] ∧
      r.row < 24 ∧ r.col = 24 ∧ (s.rowWord s.arg.place r.row).getLsbD (9 + r.col) = false ∧
      rowShift (s.rowWord s.arg.place r.row) = 24) ∧
    (∃ s : State, ∃ r, s.arg.place < dieCount ∧ (s.dieAt s.arg.place).rc.requests = [r] ∧ (s.dieAt s.arg.place).rc.waves = [] ∧
      r.row < 24 ∧ r.col = 5 ∧ (s.rowWord s.arg.place r.row).getLsbD (9 + r.col) = false ∧
      rowSlotAt (s.rowWord s.arg.place r.row) r.col = none) ∧
    (∃ s : State, ∃ r f, s.arg.place < dieCount ∧ (s.dieAt s.arg.place).rc.requests = [r] ∧ (s.dieAt s.arg.place).rc.waves = [] ∧
      r.row < 24 ∧ r.col < 25 ∧ (s.rowWord s.arg.place r.row).getLsbD (9 + r.col) = false ∧
      ¬ (r.col = 24 ∧ rowShift (s.rowWord s.arg.place r.row) = 24) ∧ rowSlotAt (s.rowWord s.arg.place r.row) r.col = some f ∧
      r.hole = true ∧ s.atRest (dieSlot s.arg.place r.row f) = false) ∧
    (∃ s : State, ∃ r f, s.arg.place < dieCount ∧ (s.dieAt s.arg.place).rc.requests = [r] ∧ (s.dieAt s.arg.place).rc.waves = [] ∧
      r.row < 24 ∧ r.col < 25 ∧ (s.rowWord s.arg.place r.row).getLsbD (9 + r.col) = false ∧
      ¬ (r.col = 24 ∧ rowShift (s.rowWord s.arg.place r.row) = 24) ∧ rowSlotAt (s.rowWord s.arg.place r.row) r.col = some f ∧
      rowShift (s.rowWord s.arg.place r.row) < 24 ∧ s.atRest (dieSlot s.arg.place r.row f) = true ∧ s.wafer.edges = [] ∧
      (s.dieAt s.arg.place).rc.box = none ∧ (s.coreAt (dieSlot s.arg.place r.row f)).u.failed = false ∧
      s.contextsOf (dieSlot s.arg.place r.row f) = [] ∧ r.col = 24 ∧ f = 23) ∧
    ∃ s : State, ∃ r f, s.arg.place < dieCount ∧ (s.dieAt s.arg.place).rc.requests = [r] ∧ (s.dieAt s.arg.place).rc.waves = [] ∧
      r.row < 24 ∧ r.col < 25 ∧ (s.rowWord s.arg.place r.row).getLsbD (9 + r.col) = false ∧
      ¬ (r.col = 24 ∧ rowShift (s.rowWord s.arg.place r.row) = 24) ∧ rowSlotAt (s.rowWord s.arg.place r.row) r.col = some f ∧
      r.hole = false ∧ 24 ≤ rowShift (s.rowWord s.arg.place r.row) ∧
      ∀ p, f < p → p < 25 → (s.rowWord s.arg.place r.row).getLsbD (9 + p) = false :=
  ⟨⟨rcState { requests := [reqOf 5 false], rows := [(23, 0x4018)] }, _, by decide, rfl, by decide⟩,
    ⟨rcState { requests := [reqOf 24 false] }, _, by decide, rfl, by decide⟩,
    ⟨rcState { requests := [reqOf 5 false], rows := [(23, 5)] }, _, by decide, rfl, by decide⟩,
    ⟨rcState { requests := [reqOf 5 true] } [(dieSlot 0 23 5, coreOf [])], _, 5, by decide, rfl, by decide⟩,
    ⟨rcState { requests := [reqOf 24 false], rows := [(23, 0x4005)] }, _, 23, by decide, rfl, by decide⟩,
    ⟨rcState { requests := [reqOf 5 false] }, _, 5, by decide, rfl, by decide, by decide, by decide, by decide, by decide,
      by decide, by decide, by decide, fun p _ h => unspent_row p h⟩⟩

theorem atRest_row : ∀ j, j < 24 → (rcState { waves := [waveOf 24] }).atRest (dieSlot 0 23 j) = true := by decide

theorem witness_CoresAreRemoved_copies :
    (∃ s : State, ∃ v, s.arg.place < dieCount ∧ (s.dieAt s.arg.place).rc.waves = [v] ∧ v.row < 24 ∧ v.first < 24 ∧ v.col < 25 ∧
      v.k = 24 ∧ ∀ j, v.first ≤ j → j < 24 → s.atRest (dieSlot s.arg.place v.row j) = true) ∧
    (∃ s : State, ∃ v, s.arg.place < dieCount ∧ (s.dieAt s.arg.place).rc.waves = [v] ∧ v.row < 24 ∧ v.first < 24 ∧ v.col < 25 ∧
      v.first < v.k ∧ v.k < 24 ∧ (s.dieAt s.arg.place).rc.failed.contains (v.row, v.k + 1) = false ∧
      (s.coreAt (dieSlot s.arg.place v.row v.k)).u.failed = false ∧ v.k = 23) ∧
    ∃ s : State, ∃ v, s.arg.place < dieCount ∧ (s.dieAt s.arg.place).rc.waves = [v] ∧ v.row < 24 ∧ v.first < 24 ∧ v.col < 25 ∧
      v.k = v.first ∧ (s.dieAt s.arg.place).rc.failed.contains (v.row, v.k + 1) = false ∧
      (s.coreAt (dieSlot s.arg.place v.row v.k)).u.failed = false ∧ v.stopped = none :=
  ⟨⟨rcState { waves := [waveOf 24] }, _, by decide, rfl, by decide, by decide, by decide, rfl, fun j _ h => atRest_row j h⟩,
    ⟨rcState { waves := [waveOf 23] }, _, by decide, rfl, by decide⟩,
    ⟨rcState { waves := [waveOf 5] }, _, by decide, rfl, by decide⟩⟩

/-- A packet at router 0 and at router 205. -/
def netState (p : Packet) (tab : FMap Word := []) (slot : Nat := 0) : State :=
  { cores := [(slot, { routeTab := tab })]
    wafer := { net := [p], jobs := [(5, some { prio := 0, graph := 0, x0 := 0, y0 := 0, w := 1, h := 1 })] }
    arg := { place := p.at_ } }
def hopOf (dst at_ cls : Nat) : Packet := { packetOf dst cls (.msg (msgOf false)) with at_ := at_, route := 16, key := 9 }

theorem witness_PacketsCrossTheNetwork_default :
    (∃ s : State, routerCount ≤ s.arg.place) ∧
    (∃ s : State, ∃ p slot, s.onlyPacket s.arg.place p ∧ s.slotAtRouter s.arg.place = some slot ∧ s.entryFor slot p = 0 ∧
      s.arg.place % 200 < s.routerOf p.dst % 200) ∧
    (∃ s : State, ∃ p slot, s.onlyPacket s.arg.place p ∧ s.slotAtRouter s.arg.place = some slot ∧
      rtAct (s.entryFor slot p) = 3 ∧ p.key ≠ rtKey (s.entryFor slot p) ∧ s.routerOf p.dst % 200 < s.arg.place % 200) ∧
    (∃ s : State, ∃ p slot, s.onlyPacket s.arg.place p ∧ s.slotAtRouter s.arg.place = some slot ∧ s.entryFor slot p = 0 ∧
      s.arg.place % 200 = s.routerOf p.dst % 200 ∧ s.arg.place / 200 < s.routerOf p.dst / 200 ∧
      s.routerOf p.dst < routerCount) ∧
    (∃ s : State, ∃ p, s.onlyPacket s.arg.place p ∧ s.slotAtRouter s.arg.place = none ∧
      s.routerOf p.dst % 200 < s.arg.place % 200) ∧
    (∃ s : State, ∃ p slot, s.onlyPacket s.arg.place p ∧ s.slotAtRouter s.arg.place = some slot ∧ s.entryFor slot p = 0 ∧
      s.arg.place % 200 = s.routerOf p.dst % 200 ∧ s.routerOf p.dst / 200 < s.arg.place / 200) ∧
    ∃ s : State, ∃ p slot, s.onlyPacket s.arg.place p ∧ s.slotAtRouter s.arg.place = some slot ∧ s.entryFor slot p = 0 ∧
      s.arg.place = s.routerOf p.dst ∧ s.isHole p.dst = false ∧ s.hasInput p.dst { p with dst := p.dst } = true ∧
      p.trailer = none ∧ ∀ x ∈ s.wafer.net, x.src = p.src → x.dst = p.dst → x.cls = p.cls → x.held = false → p.num ≤ x.num :=
  ⟨⟨{ arg := { place := routerCount } }, Nat.le_refl _⟩,
    ⟨netState (hopOf 1 0 0), hopOf 1 0 0, 0, ⟨by decide, rfl, rfl, rfl, fun _ => rfl⟩, by decide⟩,
    ⟨netState (hopOf 0 5 0) [(16, 0xB000500001080000)] 5, hopOf 0 5 0, 5, ⟨by decide, rfl, rfl, rfl, fun _ => rfl⟩, by decide +kernel⟩,
    ⟨netState (hopOf (dieSlot 64 23 0) 0 3), hopOf (dieSlot 64 23 0) 0 3, 0, ⟨by decide, rfl, rfl, rfl, fun _ => rfl⟩, by decide +kernel⟩,
    ⟨netState (hopOf 0 24 0), hopOf 0 24 0, ⟨by decide, rfl, rfl, rfl, fun _ => rfl⟩, by decide +kernel⟩,
    ⟨netState (hopOf 0 200 0), hopOf 0 200 0, 192, ⟨by decide, rfl, rfl, rfl, fun _ => rfl⟩, by decide +kernel⟩,
    ⟨netState (hopOf 0 0 0), hopOf 0 0 0, 0, ⟨by decide, rfl, rfl, rfl, fun _ => rfl⟩, by decide⟩⟩

theorem witness_PacketsCrossTheNetwork_entries :
    (∃ s : State, ∃ p slot w port n, s.onlyPacket s.arg.place p ∧ s.slotAtRouter s.arg.place = some slot ∧
      w = FMap.get 0 (s.coreAt slot).routeTab (p.cls.toNat * 64 + p.route) ∧ w.getLsbD 63 = true ∧ w.extractLsb' 44 12 = p.job ∧
      rtAct w = 3 ∧ p.key = rtKey w ∧ portsOf (rtOut w) = [port] ∧ port = 0 ∧ nextRouter s.arg.place port = some n) ∧
    (∃ s : State, ∃ p slot w port n, s.onlyPacket s.arg.place p ∧ s.slotAtRouter s.arg.place = some slot ∧
      w = FMap.get 0 (s.coreAt slot).routeTab (p.cls.toNat * 64 + p.route) ∧ w.getLsbD 63 = true ∧ w.extractLsb' 44 12 = p.job ∧
      rtAct w = 0 ∧ portsOf (rtOut w) = [port] ∧ port = 3 ∧ nextRouter s.arg.place port = some n) ∧
    (∃ s : State, ∃ p slot w, s.onlyPacket s.arg.place p ∧ s.slotAtRouter s.arg.place = some slot ∧
      w = FMap.get 0 (s.coreAt slot).routeTab (p.cls.toNat * 64 + p.route) ∧ w.getLsbD 63 = true ∧ w.extractLsb' 44 12 = p.job ∧
      rtAct w = 0 ∧ portsOf (rtOut w) = [4] ∧ p.cls = 0 ∧ s.isHole slot = false ∧
      s.hasInput slot { p with dst := slot } = true ∧ p.trailer = none ∧
      ∀ x ∈ s.wafer.net, x.src = p.src → x.dst = p.dst → x.cls = p.cls → x.held = false → p.num ≤ x.num) ∧
    (∃ s : State, ∃ p slot w, s.onlyPacket s.arg.place p ∧ s.slotAtRouter s.arg.place = some slot ∧
      w = FMap.get 0 (s.coreAt slot).routeTab (p.cls.toNat * 64 + p.route) ∧ w.getLsbD 63 = true ∧ w.extractLsb' 44 12 = p.job ∧
      rtAct w = 1 ∧ p.cls = 0 ∧ (rtIn w).testBit p.inp = true) ∧
    ∃ s : State, ∃ p slot w a b n m, s.onlyPacket s.arg.place p ∧ s.slotAtRouter s.arg.place = some slot ∧
      w = FMap.get 0 (s.coreAt slot).routeTab (p.cls.toNat * 64 + p.route) ∧ w.getLsbD 63 = true ∧ w.extractLsb' 44 12 = p.job ∧
      rtAct w = 2 ∧ portsOf (rtOut w) = [a, b] ∧ b < 4 ∧ nextRouter s.arg.place a = some n ∧ nextRouter s.arg.place b = some m ∧
      (∃ j, s.jobAt p.job = some j) :=
  ⟨⟨netState (hopOf 1 205 0) [(16, 0xB000500001090000)] 197, hopOf 1 205 0, 197, _, 0, 5, ⟨by decide, rfl, rfl, rfl, fun _ => rfl⟩,
      by decide +kernel, rfl, by decide⟩,
    ⟨netState (hopOf 1 205 0) [(16, 0x8000500008000000)] 197, hopOf 1 205 0, 197, _, 3, 204, ⟨by decide, rfl, rfl, rfl, fun _ => rfl⟩,
      by decide +kernel, rfl, by decide⟩,
    ⟨netState (hopOf 1 0 0) [(16, 0x8000500010000000)], hopOf 1 0 0, 0, _, ⟨by decide, rfl, rfl, rfl, fun _ => rfl⟩, by decide, rfl,
      by decide⟩,
    ⟨netState (hopOf 1 0 0) [(16, 0x9000501000000000)], hopOf 1 0 0, 0, _, ⟨by decide, rfl, rfl, rfl, fun _ => rfl⟩, by decide, rfl,
      by decide⟩,
    ⟨netState (hopOf 1 0 0) [(16, 0xA000500006000000)], hopOf 1 0 0, 0, _, 1, 2, 1, 200, ⟨by decide, rfl, rfl, rfl, fun _ => rfl⟩,
      by decide, rfl, by decide, by decide, by decide, by decide, by decide, by decide, by decide, _, rfl⟩⟩

/-- Two heads that wait at a comb entry of router 0: inputs e and s, output s. -/
def combState (op : Word) (heads : List Nat) : State :=
  { netState (hopOf 1 0 0) [(16, 0x9000500604000000 ||| (op <<< 56))] with
    wafer := { net := heads.map fun i => { hopOf 1 0 0 with inp := i, held := true }
               jobs := [(5, some { prio := 0, graph := 0, x0 := 0, y0 := 0, w := 1, h := 1 })] }
    arg := { place := 0, a := 16 } }

theorem witness_PacketsCrossTheNetwork_combine :
    (∃ s : State, ∃ slot p q g h port n a b,
      let r := s.arg.place
      let w := FMap.get 0 (s.coreAt slot).routeTab (s.arg.a % 64)
      let head (i : Nat) (p : Packet) : Prop := (s.wafer.net.find? fun x =>
        x.at_ == r && x.held && x.inp == i && x.route == s.arg.a && x.job == w.extractLsb' 44 12) = some p
      r < routerCount ∧ s.slotAtRouter r = some slot ∧ w.getLsbD 63 = true ∧ s.wafer.links = [] ∧ s.flits = [] ∧
      portsOf (rtIn w) = [a, b] ∧ head a p ∧ head b q ∧ p.body = .msg g ∧ q.body = .msg h ∧ p.trailer = none ∧
      q.trailer = none ∧ p.rl = none ∧ q.rl = none ∧ h.route = none ∧ g.payload.length = h.payload.length ∧
      portsOf (rtOut w) = [port] ∧ port < 4 ∧ nextRouter r port = some n ∧ rtOp w = 5 ∧ s.jobAt q.job ≠ none) ∧
    ∃ s : State, ∃ slot a,
      let r := s.arg.place
      let w := FMap.get 0 (s.coreAt slot).routeTab (s.arg.a % 64)
      let head (i : Nat) (p : Packet) : Prop := (s.wafer.net.find? fun x =>
        x.at_ == r && x.held && x.inp == i && x.route == s.arg.a && x.job == w.extractLsb' 44 12) = some p
      r < routerCount ∧ s.slotAtRouter r = some slot ∧ w.getLsbD 63 = true ∧ s.wafer.links = [] ∧ s.flits = [] ∧ a ∈ portsOf (rtIn w) ∧
      ∀ p, ¬ head a p :=
  ⟨⟨combState 5 [1, 2], 0, { hopOf 1 0 0 with inp := 1, held := true }, { hopOf 1 0 0 with inp := 2, held := true }, msgOf false,
      msgOf false, 2, 200, 1, 2, by decide, by decide, by decide, rfl, rfl, by decide, by decide, by decide, rfl, rfl, rfl, rfl, rfl,
      rfl, rfl, rfl, by decide, by decide, by decide, by decide, by decide⟩,
    ⟨combState 0 [1], 0, 2, by decide, by decide, by decide, rfl, rfl, by decide, fun p h => by cases h⟩⟩

/-- Die 0 with clocks. -/
def clkState (k : Clocks) (c : Core := {}) : State := { cores := [(0, c)], dies := [(0, { clk := k })] }
/-- A release-class write that waits at die 0. -/
def relOf (e : Nat) (b : Option RelBody) : RelWrite :=
  let t : Trailer := { clock := [(e, 1)], rels := [(71, 1)] }
  { trailer := t, body := b.getD (.packet { packetOf 1 0 (.msg (msgOf false)) with trailer := some t }) }

theorem witness_ClocksOrderReleases_release :
    (∃ s : State, ∃ w, s.arg.place < dieCount ∧ (s.clocksAt s.arg.place).relq = [w] ∧ s.canApply s.arg.place w = false) ∧
    (∃ s : State, ∃ w p, s.arg.place < dieCount ∧ (s.clocksAt s.arg.place).relq = [w] ∧ s.canApply s.arg.place w = true ∧
      w.body = .packet p ∧ p.trailer = some w.trailer ∧ slotDie p.dst = s.arg.place ∧ s.isHole p.dst = false ∧
      s.wafer.net = [] ∧ (s.dies.all fun q => q.1 == s.arg.place || q.2.clk.relq.isEmpty) = true) ∧
    ∃ s : State, ∃ w slot seq job l n f fe, s.arg.place < dieCount ∧ (s.clocksAt s.arg.place).relq = [w] ∧
      s.canApply s.arg.place w = true ∧ w.body = .engine slot seq job l fe ∧
      (l.map fun x => (x.1, x.2.2)) = (List.range n).map (fun i => (f + i, false)) ∧ dramBase ≤ f ∧ s.noReplicas = true ∧
      s.wafer.replq = [] ∧ (∀ i, i < n → s.clean (f + i) = true) ∧ n = 2 :=
  ⟨⟨clkState { relq := [relOf 3 none] }, _, by decide, rfl, by decide⟩,
    ⟨clkState { relq := [relOf 71 none] }, _, _, by decide, rfl, by decide, rfl, by decide⟩,
    ⟨clkState { a := [(3, 1)], relq := [relOf 3 (some (.engine 0 0 5 [(dramBase, 7, false), (dramBase + 1, 8, false)] false))] }, _, _,
      _, _, _, 2, dramBase, _, by decide, rfl, by decide, rfl, rfl, by decide, by decide, rfl, fun _ _ => rfl, rfl⟩⟩

theorem witness_ClocksOrderReleases_notice :
    (∃ s : State, s.arg.place < dieCount ∧ s.arg.a = 71 ∧
      precedes (FMap.get 0 (s.clocksAt s.arg.place).a s.arg.a) (BitVec.ofNat 32 s.arg.b) = false) ∧
    (∃ s : State, s.arg.place < dieCount ∧ s.arg.a < dieCount ∧
      precedes (FMap.get 0 (s.clocksAt s.arg.place).a s.arg.a) (BitVec.ofNat 32 s.arg.b) = true ∧
      BitVec.ofNat 32 s.arg.b = FMap.get 0 (s.clocksAt s.arg.place).a s.arg.a + 1 ∧ (s.clocksAt s.arg.place).above_ s.arg.a = [] ∧
      (s.clocksAt s.arg.place).relq ≠ [] ∧ (s.clocksAt s.arg.place).acqq ≠ []) ∧
    (∃ s : State, s.arg.place < dieCount ∧ s.arg.a < dieCount ∧
      precedes (FMap.get 0 (s.clocksAt s.arg.place).a s.arg.a) (BitVec.ofNat 32 s.arg.b) = true ∧
      BitVec.ofNat 32 s.arg.b = FMap.get 0 (s.clocksAt s.arg.place).a s.arg.a + 1 ∧
      (s.clocksAt s.arg.place).above_ s.arg.a = [FMap.get 0 (s.clocksAt s.arg.place).a s.arg.a + 2]) ∧
    ∃ s : State, s.arg.place < dieCount ∧ s.arg.a < dieCount ∧
      precedes (FMap.get 0 (s.clocksAt s.arg.place).a s.arg.a) (BitVec.ofNat 32 s.arg.b) = true ∧
      BitVec.ofNat 32 s.arg.b ≠ FMap.get 0 (s.clocksAt s.arg.place).a s.arg.a + 1 ∧ (s.clocksAt s.arg.place).above_ s.arg.a = [] :=
  ⟨⟨{ arg := { a := 71, b := 2 ^ 31 } }, by decide⟩,
    ⟨{ clkState { relq := [relOf 3 none], acqq := [{ clock := [], body := .cp 0 }] } with arg := { a := 71, b := 1 } }, by decide⟩,
    ⟨{ clkState { above := [(71, 1)], a := [(71, 0xFFFFFFFF)] } with arg := { a := 71, b := 0 } }, by decide⟩,
    ⟨{ arg := { a := 71, b := 3 } }, by decide⟩⟩

theorem witness_ClocksOrderReleases_acquire :
    (∃ s : State, ∃ w, s.arg.place < dieCount ∧ (s.clocksAt s.arg.place).acqq = [w] ∧
      ¬ ∀ e, e < dieCount → precedes ((s.clocksAt s.arg.place).known e []) (FMap.get 0 w.clock e) = false) ∧
    (∃ s : State, ∃ w slot c rest, s.arg.place < dieCount ∧ (s.clocksAt s.arg.place).acqq = [w] ∧
      (∀ e, e < dieCount → precedes ((s.clocksAt s.arg.place).known e []) (FMap.get 0 w.clock e) = false) ∧ w.body = .cp slot ∧
      (s.coreAt slot).e.cpq = c :: rest ∧ c.phase = .acquire) ∧
    ∃ s : State, s.arg.place < slotCount ∧ (s.coreAt s.arg.place).m.unacked ≤ 1 ∧ (s.coreAt s.arg.place).m.sendq ≠ [] ∧
      (s.coreAt s.arg.place).e.sb ≠ [] :=
  ⟨⟨clkState { acqq := [{ clock := [(71, 1)], body := .cp 0 }] }, _, by decide, rfl, by decide +kernel⟩,
    ⟨clkState { a := [(71, 1)], acqq := [{ clock := [(71, 1)], body := .cp 0 }] }
        { coreOf [] with e.cpq := [{ cpOf .go 8 0 0 with phase := .acquire }] }, _, _, _, _, by decide, rfl, by decide +kernel, rfl, rfl, rfl⟩,
    ⟨wafer { coreOf [] with m.unacked := 1, m.sendq := [(2, [{ dst := 24, job := 5, rl := none, body := .msg (msgOf false) }])],
                            e.sb := [.store [[]]] }, by decide⟩⟩

/-- The link between the routers 0 and 1 has failed; the routers stand with the update as given. -/
def deadLink (rounds : FMap Nat) (reason : Nat := 0) : LinkUpdate :=
  { link := { px := 0, py := 0, south := false, reason := reason }, rounds := rounds }
def roundState (rounds : FMap Nat) (e : FMap Edge := []) : State :=
  { dies := [(0, { rc := { box := some box0 } })], wafer := { links := [deadLink rounds], edges := e } }

theorem witness_LinksFailInRounds_declare :
    (∃ s : State, nextRouter s.arg.place 1 = none) ∧
    (∃ s : State, s.arg.place < routerCount ∧ (nextRouter s.arg.place 1).isSome = true ∧ s.arg.flag = false ∧
      s.linkDead s.arg.place 1 = true) ∧
    (∃ s : State, s.arg.place < routerCount ∧ (nextRouter s.arg.place 2).isSome = true ∧ s.arg.flag = true ∧
      s.linkDead s.arg.place 2 = false ∧ s.arg.a = 0 ∧
      (FMap.get [] s.wafer.monitors (linkAt s.arg.place 2).key).count true = 16) ∧
    ∃ s : State, s.arg.place < routerCount ∧ (nextRouter s.arg.place 1).isSome = true ∧ s.arg.flag = false ∧
      s.linkDead s.arg.place 1 = false ∧ s.arg.a = 2 :=
  ⟨⟨{ arg := { place := 199 } }, by decide⟩, ⟨roundState [(0, 1)], by decide⟩,
    ⟨{ wafer := { monitors := [((linkAt 42999 2).key, List.replicate 16 true)] }, arg := { place := 42999, flag := true } },
      by decide +kernel⟩,
    ⟨{ arg := { a := 2 } }, by decide⟩⟩

theorem witness_LinksFailInRounds_flood :
    (∃ s : State, ∃ u, s.wafer.links[s.arg.a]? = some u ∧ s.arg.place < routerCount ∧ u.round s.arg.place ≠ 0) ∧
    (∃ s : State, ∃ u, s.wafer.links[s.arg.a]? = some u ∧ s.arg.place < routerCount ∧ u.round s.arg.place = 0 ∧
      ¬ ∃ p, p < 4 ∧ ∃ q, nextRouter s.arg.place p = some q ∧ s.linkDead s.arg.place p = false ∧ u.round q ≠ 0) ∧
    ∃ s : State, ∃ u p q, s.wafer.links[s.arg.a]? = some u ∧ s.arg.place < routerCount ∧ u.round s.arg.place = 0 ∧ p < 4 ∧
      nextRouter s.arg.place p = some q ∧ s.linkDead s.arg.place p = false ∧ u.round q ≠ 0 :=
  ⟨⟨roundState [(0, 1)], deadLink [(0, 1)], rfl, by decide⟩,
    ⟨{ roundState [(0, 1)] with arg := { place := 1 } }, deadLink [(0, 1)], rfl, by decide, rfl, by
      rintro ⟨p, hp, q, hq, hd, hu⟩
      match p, hp with
      | 0, _ => cases hq
      | 1, _ => cases hq; exact hu rfl
      | 2, _ => cases hq; exact hu rfl
      | 3, _ => cases hq; exact absurd hd (by decide)⟩,
    ⟨{ roundState [(0, 1)] with arg := { place := 200 } }, deadLink [(0, 1)], 0, 0, rfl, by decide⟩⟩

theorem witness_LinksFailInRounds_rounds :
    (∀ n, n ≤ 5 → ∃ s : State, ∃ u, s.wafer.links[s.arg.a]? = some u ∧ s.arg.place < routerCount ∧ u.round s.arg.place = n) ∧
    (∃ s : State, ∃ u k e slot a, s.wafer.links[s.arg.a]? = some u ∧ s.arg.place < routerCount ∧ u.round s.arg.place = 3 ∧
      s.wafer.edges = [(k, e)] ∧ e.src = .actor slot a ∧ s.routerOf slot = s.arg.place ∧
      s.pathCrosses (s.edgePacket k e) u.link 500 = true ∧ e.window ≠ []) ∧
    (∃ s : State, ∃ u, s.wafer.links[s.arg.a]? = some u ∧ s.arg.place < routerCount ∧ u.round s.arg.place = 4 ∧
      ¬ ∃ p, p < 4 ∧ ∃ q, nextRouter s.arg.place p = some q ∧ u.link.same (linkAt s.arg.place p) = true) ∧
    ∃ s : State, ∃ u p q b, s.wafer.links[s.arg.a]? = some u ∧ s.arg.place < routerCount ∧ u.round s.arg.place = 4 ∧ p < 4 ∧
      nextRouter s.arg.place p = some q ∧ u.link.same (linkAt s.arg.place p) = true ∧ s.takesNotice (routerDie s.arg.place) b :=
  ⟨fun n _ => ⟨roundState [(0, n)], deadLink [(0, n)], rfl, (by decide : 0 < routerCount), rfl⟩,
    ⟨roundState [(0, 3)] [(2, { edgeOf (.actor 0 63) (.actor 1 0) with window := [tokOf 3] })], deadLink [(0, 3)], 2, _, _, _, rfl,
      by decide, rfl, rfl, rfl, by decide +kernel⟩,
    ⟨{ roundState [(205, 4)] with arg := { place := 205 } }, deadLink [(205, 4)], rfl, by decide, rfl, by
      rintro ⟨p, hp, q, -, h⟩
      revert h
      match p, hp with
      | 0, _ => decide
      | 1, _ => decide
      | 2, _ => decide
      | 3, _ => decide⟩,
    ⟨roundState [(0, 4)], deadLink [(0, 4)], 1, 1, box0, rfl, by decide, rfl, by decide, rfl, by decide, takes_box0 _ rfl rfl rfl⟩⟩

theorem witness_LinksFailInRounds_packets :
    (let s : State := { wafer := { links := [deadLink [(0, 1)]], net := [hopOf 1 0 0] } }
     (s.wafer.net.filter fun q => q.at_ = 0 ∧ q.held = false) = [hopOf 1 0 0] ∧ s.routeMove (hopOf 1 0 0) = .go 1 ∧
       (nextRouter 0 1).isSome = true ∧ s.updateAt 0 1 = some (deadLink [(0, 1)]) ∧ (deadLink [(0, 1)]).round 0 < 2) ∧
    let s : State := { wafer := { links := [deadLink [(0, 2)]], net := [hopOf 1 0 0] } }
    (s.wafer.net.filter fun q => q.at_ = 0 ∧ q.held = false) = [hopOf 1 0 0] ∧ s.routeMove (hopOf 1 0 0) = .go 1 ∧
      (nextRouter 0 1).isSome = true ∧ s.updateAt 0 1 = some (deadLink [(0, 2)]) ∧ (deadLink [(0, 2)]).round 0 = 2 ∧
      (s.darn 0 1).isSome = true := by
  decide +kernel

/-- A wafer at a freeze state. -/
def freezeState (f : FreezeState) (reads : List Nat := []) : State := { wafer (coreOf [(1, 7)]) with wafer := { freeze := f, reads := reads } }

/-- What holds of some number holds of a least one. -/
theorem least_or_none (p : Nat → Prop) : (∀ d, ¬ p d) ∨ ∃ d, p d ∧ ∀ e, e < d → ¬ p e := by
  by_cases h : ∃ d, p d ∧ ∀ e, e < d → ¬ p e
  · exact .inr h
  · exact .inl fun d => Nat.strongRecOn d fun n ih hn => h ⟨n, hn, ih⟩

theorem witness_FreezeAndPower_freeze :
    (let s : State := { freezeState .running with arg := { place := tapDie 71 } }
     s.arg.place < tapDie dieCount ∧ s.wafer.freeze = .running) ∧
    (let s := freezeState .frozen
     s.arg.place < tapDie dieCount ∧ s.wafer.freeze ≠ .running) ∧
    (freezeState .freezing).wafer.freeze = .freezing ∧
    (let s : State := { freezeState .frozen with dies := [(0, { rc := { box := some box0 } })] }
     s.wafer.freeze = .frozen ∧ (∀ p ∈ s.cores, ∀ a ∈ p.2.q.actors, a.2.en = false) ∧
       ∀ p ∈ s.dies, ∀ b, p.2.rc.box = some b → b.queue = []) ∧
    (let x : Die := { rc := { box := some { box0 with queue := [{ kind := 6, w1 := 1, w2 := 2, w3 := 3 }] } } }
     let s : State := { freezeState .frozen with dies := [(0, x)] }
     s.wafer.freeze = .frozen ∧ (∀ p ∈ s.cores, ∀ a ∈ p.2.q.actors, a.2.en = false) ∧ s.dies = [(0, x)] ∧
       State.takesNotice { s with
         dies := [(0, { x with rc.box := some { box0 with queue := [] } })], wafer.freeze := .running } 0 { box0 with queue := [] }) ∧
    (let s : State := { freezeState .frozen with arg := { list := [0, routerCount] } }
     s.wafer.freeze = .frozen ∧ s.arg.list.filter (fun p => p < routerCount) = [0]) ∧
    ((freezeState .reading).wafer.freeze = .reading ∧ (freezeState .reading).wafer.reads = []) ∧
    let s := freezeState .reading [0]
    s.wafer.freeze = .reading ∧ s.wafer.reads = [0] ∧ 0 < routerCount ∧ s.slotAtCore 0 = some 0 ∧ s.core.h.getX 1 = 7 :=
  ⟨by decide +kernel, by decide +kernel, rfl, ⟨rfl, by decide, fun p h b hb => by
      obtain rfl : p = (0, { rc := { box := some box0 } }) := by simpa using h
      obtain rfl : box0 = b := by simpa using hb
      rfl⟩,
    ⟨rfl, by decide, rfl, takes_box0 _ rfl (by decide +kernel) (by decide +kernel)⟩, by decide +kernel, ⟨rfl, rfl⟩, by decide +kernel⟩

theorem witness_FreezeAndPower_power :
    (let s : State := { arg := { place := 2591 } }
     s.arg.place < clusterCount ∧ (s.clusterAt s.arg.place).dark = false ∧ (s.dieAt (clusterDie s.arg.place)).rc.waves = [] ∧
       (s.dieAt (clusterDie s.arg.place)).rc.box = none) ∧
    (let s : State := { clusters := [(2591, { dark := true })], arg := { place := 2591 } }
     s.arg.place < clusterCount ∧ (s.clusterAt s.arg.place).dark = true) ∧
    (let s : State := { wafer { g := { clk := 5 } } with arg := { a := 4 } }
     s.arg.place < dieCount ∧ slotDie 0 = s.arg.place ∧ s.arg.a < (s.coreAt 0).g.clk.toNat) ∧
    (let s : State := { arg := { place := 71 } }
     s.arg.place < dieCount) ∧
    ({ module_ := { tripped := true } } : State).module_.tripped = true ∧
    (let s : State := { State.reset with module_ := { booted := true } }
     (s.module_.booted || !s.module_.powered) = true) ∧
    let s : State := { State.reset with arg := { list := [7, 0], list2 := [37, 28] } }
    (s.module_.booted || !s.module_.powered) = false ∧
    (let image (d : Nat) : RomImage := s.arg.images.getD d {}
     let good (d : Nat) : Prop := d < dieCount ∧ Config.sha3 (image d).key = Config.vendorKeyHash ∧
       Config.verify (image d).key (Config.sha3 (image d).body) (image d).sign = true ∧
       Config.securityVersion.toNat ≤ (image d).version
     (∀ d, ¬ good d) ∨ ∃ d, good d ∧ ∀ e, e < d → ¬ good e) ∧
    (s.arg.list.zip s.arg.list2).find? (fun p => p.1 = 7) = some (7, 37) ∧ (36 < 37 ∧ 7 < routerCount) :=
  ⟨by decide +kernel, by decide +kernel, by decide +kernel, by decide +kernel, rfl, by decide +kernel, by decide +kernel,
    least_or_none _, by decide +kernel, by decide⟩

/-- A wafer with host output edge 7 of job 5. -/
def hostState (credits : Nat) (c : Nat) (p : Planak := {}) : State :=
  { wafer := { edges := [(2, { edgeOf .host (.actor 1 0) with credits := credits, seq := 3 })], planak := p }
    arg := { a := 5, b := 7, c := c, words := [9] } }

/-- The edge that a host token names, with nothing that waits before it. -/
def hostGets (s : State) (x : Edge) : Bool :=
  s.arg.place == 0 && decide (s.hostEdge (BitVec.ofNat 12 s.arg.a) (s.arg.b % 8) = some (2, x)) && decide (s.edgeAt 2 = some x) &&
    s.wafer.planak.waiting.isEmpty

theorem witness_ControlNodeFrames_host :
    let x (n : Nat) : Edge := { edgeOf .host (.actor 1 0) with credits := n, seq := 3 }
    (hostGets (hostState 1 2) (x 1) = true ∧ precedes (BitVec.ofNat 32 (hostState 1 2).arg.c) (x 1).seq = true) ∧
    (hostGets (hostState 1 4) (x 1) = true ∧ precedes (BitVec.ofNat 32 (hostState 1 4).arg.c) (x 1).seq = false ∧
      BitVec.ofNat 32 (hostState 1 4).arg.c ≠ (x 1).seq) ∧
    (hostGets (hostState 0 3) (x 0) = true ∧ precedes (BitVec.ofNat 32 (hostState 0 3).arg.c) (x 0).seq = false ∧ (x 0).credits = 0) ∧
    (let s := hostState 1 3
     hostGets s (x 1) = true ∧ BitVec.ofNat 32 s.arg.c = (x 1).seq ∧ (x 1).credits ≠ 0 ∧ (x 1).rel = false ∧
       s.holdsTokens (x 1) = false ∧ (x 1).slots ≠ 0) ∧
    (let h : HostTok := { edge := 2, job := 5, port := 7, token := tokOf 3 }
     ∀ c ∈ [3, 4], let s := hostState 1 c { unacked := [h] }
      s.wafer.planak.unacked = [h] ∧ h.job.toNat = s.arg.a ∧ h.port = s.arg.b ∧ (h.token.seq.toNat = s.arg.c ↔ c = 3)) := by
  decide +kernel

theorem witness_ControlNodeFrames_ports :
    (2 ≤ ({ arg := { place := 2 } } : State).arg.place) ∧
    (let s : State := { arg := { place := 1 } }
     ¬ 2 ≤ s.arg.place ∧ ¬ s.wafer.planak.primary = s.arg.place) ∧
    (let h : HostTok := { edge := 2, job := 5, port := 7, token := tokOf 3 }
     let s : State := { hostState 1 3 { unacked := [h] } with arg := { place := 0 } }
     ¬ 2 ≤ s.arg.place ∧ s.wafer.planak.primary = s.arg.place ∧ s.wafer.planak.down.contains (1 - s.arg.place) = false ∧
       s.wafer.planak.unacked = [h] ∧ (s.edgeAt h.edge).isSome = true) ∧
    (let s : State := { arg := { place := 0 } }
     s.wafer.planak.primary = s.arg.place ∧ s.wafer.planak.down.contains (1 - s.arg.place) = false ∧ s.wafer.planak.unacked = []) ∧
    State.reset.module_.booted = false ∧
    (let s : State := { dies := [(3, { rc := { requests := [{ row := 0, col := 0, hole := false, cause := 2 }] } })], module_ := { booted := true } }
     ∃ p ∈ s.dies, ∃ q ∈ p.2.rc.requests, q.cause = 2) ∧
    (let s : State := { agenda := [{ ev := .coreFailureDetected, arg := {} }], module_ := { booted := true } }
     ∃ d ∈ s.agenda, d.ev = .coreFailureDetected) ∧
    (let p : PortSetting := { die := 8, port := 1, cc := .rccc, peers := [(3, 0xA000)] }
     let s : State := { module_ := { booted := true }, arg := { list := [0], list2 := [0xFF000], ports := [p] } }
     ¬ (s.module_.booted = false ∨
       (∃ p ∈ s.dies, (∃ q ∈ p.2.rc.requests, q.cause = 2) ∨ ∃ v ∈ p.2.rc.waves, v.cause = 2) ∨
       ∃ d ∈ s.agenda, d.ev = .coreFailureDetected) ∧
     0 < dieCount ∧ s.arg.list[0]? = some 0 ∧ s.arg.list2[0]? = some 0xFF000 ∧ 0 < slotCount ∧ slotDie 0 = 0 ∧
       0xFF000 % 4096 = 0 ∧ 0xFF000 + 4096 ≤ spSize ∧ s.arg.ports = [p] ∧ portDie p.die = true ∧ p.port < 2 ∧
       (s.wafer.planak.toNode.any fun f => f.ty == 4) = false) ∧
    let f : Frame := { ty := 4, words := [] }
    let s : State := { module_ := { booted := true }, wafer := { planak := { toNode := [f] } } }
    ¬ (s.module_.booted = false ∨
      (∃ p ∈ s.dies, (∃ q ∈ p.2.rc.requests, q.cause = 2) ∨ ∃ v ∈ p.2.rc.waves, v.cause = 2) ∨
      ∃ d ∈ s.agenda, d.ev = .coreFailureDetected) ∧
    (s.wafer.planak.toNode.any fun f => f.ty == 4) = true :=
  ⟨by decide +kernel, by decide +kernel, by decide +kernel, by decide +kernel, rfl, ⟨_, .head _, _, .head _, rfl⟩,
    ⟨_, .head _, rfl⟩, ⟨by simp, by decide +kernel⟩, by simp, by decide +kernel⟩

/-- Port 0 of die 8. -/
def portState (p : PortEng) (a : Arg) (c : Core := {}) : State :=
  { cores := [(4608, c)], dies := [(8, { ports := [(0, p)] })],
    wafer := { jobs := [(5, some { prio := 0, graph := 0, x0 := 0, y0 := 0, w := 1, h := 1 })] }, arg := { a with place := 8 } }
def blockOf : List Word := (5 + 2 ^ 35) :: List.replicate 8 7
def chunkOf (bits : BitVec 64) : Chunk := { coll := 5, pos := 0, step := 0, index := 0, bits := bits }

/-- An event happens at port 0 of die 8. -/
def standsAtPort (s : State) (p : PortEng) : Bool :=
  portDie s.arg.place && decide (s.arg.place = 8 ∧ s.arg.a < 2) && decide (s.portAt s.arg.place s.arg.a = p)

theorem witness_PortEnginesMoveBlocks_receive :
    (let s : State := { arg := { place := 7 } }
     portDie s.arg.place = false) ∧
    (let s : State := { arg := { place := 8, a := 2 } }
     2 ≤ s.arg.a) ∧
    (let p : PortEng := {}
     let s := portState p { words := blockOf }
     standsAtPort s p = true ∧ s.arg.words ≠ [] ∧ p.waiting = [] ∧ p.bound = false) ∧
    (let p : PortEng := { bound := true }
     let s := portState p { words := blockOf }
     standsAtPort s p = true ∧ s.arg.words ≠ [] ∧ p.waiting = [] ∧ (!p.bound || !p.up) = false ∧ s.wafer.chunks = [] ∧ p.queue = []) ∧
    (let p : PortEng := { bound := true }
     let s : State := { portState p { words := blockOf } with wafer.chunks := [chunkOf (1 <<< 8)] }
     let h := s.arg.words.getD 0 0
     standsAtPort s p = true ∧ s.arg.words ≠ [] ∧ p.waiting = [] ∧ (!p.bound || !p.up) = false ∧
       s.wafer.chunks.any (fun c => (c.coll == h.setWidth 16 && c.pos == h.extractLsb' 16 8 && c.step == h.extractLsb' 24 8
        && c.index == h.toNat / 2 ^ 32 / 64) && c.bits.getLsbD (h.toNat / 2 ^ 32 % 64)) = true) ∧
    (let p : PortEng := { bound := true, queue := List.replicate 64 (0, blockOf) }
     let s := portState p { words := blockOf }
     standsAtPort s p = true ∧ s.arg.words ≠ [] ∧ p.waiting = [] ∧ s.wafer.chunks = [] ∧
       64 ≤ (p.queue.filter fun q => q.1 = (s.arg.words.getD 0 0).toNat / 2 ^ 32 % 8).length) ∧
    let p : PortEng := { job := 5, queue := [(0, blockOf)], peers := [(0, 0xA000)] }
    let s : State := { portState p {} { g.fpool := 0x0000010000000000 } with wafer.chunks := [chunkOf (BitVec.allOnes 64)] }
    let slot := gatewaySlot 8 0 0
    standsAtPort s p = true ∧ s.arg.words = [] ∧ p.queue = [(0, blockOf)] ∧ p.waiting = [] ∧ blockOf.length = 9 ∧ s.isHole slot = false ∧
      s.takesJob slot p.job = true ∧ (s.coreAt slot).fifoRoom p.prio.toNat = true ∧ (s.coreAt slot).freeFrame false = some 0 ∧
      s.noWatchers = true ∧ frameBase (s.coreAt slot).g 0 % 64 = 0 ∧ 80 ≤ frameSize (s.coreAt slot).g ∧
      s.wafer.chunks = [chunkOf (BitVec.allOnes 64)] ∧ (chunkOf (BitVec.allOnes 64)).acked = false ∧
      s.dies = [(8, { ports := [(0, p)] })] ∧ FMap.keys ([(0, p)] : FMap PortEng) = [0] := by decide +kernel

theorem witness_PortEnginesMoveBlocks_send :
    (let p : PortEng := { bound := true }
     let s : State := { portState p {} with mem := { tags := [(cmFlat (slotCluster (gatewaySlot 8 0 3)) 0x1800, { full := true })] } }
     let f := txFlat 8 0 p 3 0
     standsAtPort s p = true ∧ p.bound = true ∧ p.rings.find? (s.txReady 8 0 p) = some 3 ∧ (∀ j, j < 16 → s.clean (f + 8 * j) = true) ∧
       f % 8 = 0) ∧
    (let p : PortEng := { sent := [(0, 0, 0x400200000503, [])] }
     let s := portState p { word := 0x102030005 }
     let w : Word := 0x400200000503
     let v := s.arg.word
     let h := w >>> 8
     standsAtPort s p = true ∧ p.sent = [(0, 0, w, [])] ∧ v.extractLsb' 0 16 = h.extractLsb' 0 16 ∧
       v.extractLsb' 24 8 = h.extractLsb' 24 8 ∧ v.toNat / 2 ^ 32 = h.toNat / 2 ^ 32 / 64 ∧
       v.extractLsb' 16 8 = w.extractLsb' 0 8 ∧ s.ringEdges (wordAt (txFlat 8 0 p 0 0)) = [] ∧ s.noWatchers = true ∧
       (∀ e, (s.dieAt e).rc.box = none)) := by
  refine ⟨⟨by decide +kernel, rfl, by decide +kernel, fun _ _ => clean_of_all _ (by decide) _, by decide +kernel⟩,
    by decide +kernel, rfl, by decide, by decide, by decide, by decide, by decide +kernel, by decide +kernel, fun e => ?_⟩
  by_cases h : (8 : Nat) = e
  · subst h; rfl
  · simp [State.dieAt, portState, FMap.get, FMap.find, h]

theorem witness_PortEnginesMoveBlocks_collectives :
    (let p : PortEng := {}
     let s := portState p { word := 5 }
     standsAtPort s p = true ∧ (p.coll (s.arg.word.extractLsb' 0 16) (s.arg.word.extractLsb' 16 8)).state = .running ∧ s.arg.flag = false) ∧
    (∀ via ∈ [none, some (8, 0), some (7, 1)],
      let x : Coll := { coll := 5, pos := 1, via := via }
      let p : PortEng := { colls := [x] }
      let s := portState p { flag := true }
      standsAtPort s p = true ∧ s.arg.flag = true ∧ s.dies = [(8, { ports := [(0, p)] })] ∧
        FMap.keys ([(0, p)] : FMap PortEng) = [0] ∧ p.colls = [x] ∧ x.state = .running ∧
        (x.via.getD (8, 0) = (8, 0) ↔ via ≠ some (7, 1))) ∧
    (∀ dead ∈ [false, true],
      let p : PortEng := { colls := [{ coll := 5, pos := 0, state := .reforming }], up := !dead }
      let s := portState p { word := 5, b := 8, c := 0 }
      standsAtPort s p = true ∧ (p.coll (s.arg.word.extractLsb' 0 16) (s.arg.word.extractLsb' 16 8)).state = .reforming ∧
        portDie s.arg.b = true ∧ s.arg.c < 2 ∧ ((s.portAt s.arg.b s.arg.c).up = true ∨ s.arg.flag = true ↔ dead = false)) ∧
    (let p : PortEng := { sent := [(0, 0, 0x400200000503, [7])],
                          colls := [{ coll := 5, pos := 0, state := .restarting, via := some (8, 1) }] }
     let s := portState p { word := 5 }
     let c := p.coll (s.arg.word.extractLsb' 0 16) (s.arg.word.extractLsb' 16 8)
     standsAtPort s p = true ∧ c.state = .restarting ∧ (∀ e ∈ p.sent, (e.2.2.1 >>> 8).setWidth 16 = c.coll) ∧ c.via = some (8, 1)) ∧
    let p : PortEng := { colls := [{ coll := 5, pos := 0, state := .reforming }] }
    let b : Mailbox := { core := 4608, base := 0x4000 }
    let s : State := { dies := [(8, { ports := [(0, p)], rc := { box := some b } })], arg := { place := 8, word := 5 } }
    standsAtPort s p = true ∧ (p.coll (s.arg.word.extractLsb' 0 16) (s.arg.word.extractLsb' 16 8)).state = .reforming ∧
      s.takesNotice s.arg.place b :=
  ⟨by decide +kernel, by decide +kernel, by decide +kernel, by decide +kernel, by decide +kernel, by decide +kernel, rfl, by decide,
    rfl, rfl, by decide, by decide, by decide, by decide, by decide, by decide +kernel, by decide +kernel⟩

/-- A move from a local record's elements to elements far away fails no check. -/
theorem tsr_far (n : Nat) : ¬ layFails (tsrNum 0x400 4) (tsrNum 0x0100000000000000 4) 0 n := by
  intro h
  unfold layFails at h
  split at h
  all_goals first
    | exact h
    | exact h (spaced_one _ (by decide) fun _ => by decide +kernel)
    | exact h.2 (spaced_one _ (by decide) fun _ => by decide +kernel)
    | (revert h; decide +kernel)

/-- A form in an open entry whose registers are free. -/
def heldGoes (c : Core) (srcs dsts : List XReg) : Bool := (wafer c).free srcs dsts && (wafer c).core.inEntry
/-- A hold buffer with no room. -/
def fullHold : List Held := List.replicate 64 { op := .join 0x200 5, depth := 1 }

theorem witness_FormsInAnOpenEntry_misused :
    ∀ x ∈ ([(.taskEnd, regionOf []), (.taskChain 1, regionOf []), (.barArrive Ord.plain 3 1, regionOf []),
        (.barJoin Ord.plain 3 1, txnOf []), (.barLeave Ord.plain 1, regionOf []), (.barPhase Ord.plain 3 1, regionOf []),
        (.sysHalt 1, regionOf []), (.sysResume 1, regionOf []), (.sysInspect 3 1 2, txnOf []), (.sysScan 3 1, regionOf []),
        (.sysSig 3 1, regionOf []), (.nbAddD Ord.plain 3 1 2, regionOf []), (.nbCasD Ord.plain 0 1 2, regionOf []),
        (.amoaddW false false 3 1 2, regionOf [(1, 0x1000000)]), (.amoaddW false false 0 1 2, txnOf [(1, 0xFFFF8)]),
        (.lrD false false 3 1, txnOf []), (.scW true true 3 1 2, txnOf []),
        (.sysFreeze, { regionOf [] with h.mode := .s, h.task := some { item := { job := 0 }, prio := 1, budget := 0x100000 } }),
        (.sysRemap 1 2, { regionOf [] with h.mode := .s, h.task := some { item := { job := 0 }, prio := 1, budget := 0x100000 } })]
        : List (Instr × Core)),
      (wafer x.2).core.inEntry = true ∧ ((misused x.1 (wafer x.2)).any fun p => (wafer x.2).free p.1 p.2) = true := by decide +kernel

theorem witness_FormsInAnOpenEntry_tasks :
    (let c := regionOf [(1, 0x200)]
     heldGoes c [1] [] = true ∧ (wafer c).readsIn 0x200 32 4 1 = true ∧ (wafer c).x 1 = 0x200 ∧ c.r.hold.length < 64) ∧
    (let c := { txnOf [(1, 0x200)] with r.hold := fullHold, r.rset := (List.range 63).map fun i => (0x1000 + 64 * i, 0x1000 + 64 * i) }
     heldGoes c [1] [] = true ∧ (wafer c).readsIn 0x200 32 4 1 = true ∧ ¬ c.r.hold.length < 64) ∧
    (let c := regionOf [(1, 0xFFFE0)]
     heldGoes c [1] [] = true ∧ ((wafer c).x 1).toNat % 32 = 0 ∧ inWindow ((wafer c).x 1) 32 = true) := by decide +kernel

theorem witness_FormsInAnOpenEntry_sends :
    (let s := wafer (regionOf [(1, 0x200), (2, 7)])
     s.free [1, 2] [] = true ∧ s.core.inEntry = true ∧ s.readsIn (s.x 1) 32 4 1 = true ∧
       ((s.seenWords (s.x 1) 4).getD 2 0).extractLsb' 50 2 = (0 : BitVec 2) ∧
       ((s.seenWords (s.x 1) 4).getD 3 0).extractLsb' 50 14 = (0 : BitVec 14) ∧
       ((s.seenWords (s.x 1) 4).getD 3 0).extractLsb' 0 48 = (0 : BitVec 48)) ∧
    (let s := wafer { txnOf [(1, 0x200), (2, 0x400)] with g.fpool := 0x0001020000000000 } [(0x210, 0x4000000000000800), (0x218, 0x900)]
     let w := s.seenWords (s.x 1) 4
     s.free [1, 2] [] = true ∧ s.core.inEntry = true ∧ s.readsIn (s.x 1) 32 4 1 = true ∧
       (w.getD 2 0).extractLsb' 50 2 = (0 : BitVec 2) ∧ (w.getD 3 0).extractLsb' 50 14 = (0 : BitVec 14) ∧
       ((w.getD 2 0).extractLsb' 52 11 : BitVec 11).toNat = 1024 ∧ s.readsIn (s.x 2) 8 128 19 = true ∧
       (w.getD 3 0).extractLsb' 0 48 ≠ (0 : BitVec 48) ∧ s.core.m.credits < frameReply s.core.g) ∧
    (let s := wafer (regionOf [(1, 0x200), (2, 0x400)]) [(0x210, 0x0080000000000800), (0x218, 0xFFFC000000000000)]
     let w := s.seenWords (s.x 1) 4
     s.free [1, 2] [] = true ∧ s.core.inEntry = true ∧ s.readsIn (s.x 1) 32 4 1 = true ∧ s.core.routeOf = none ∧
       (w.getD 2 0).extractLsb' 50 2 = (0 : BitVec 2) ∧ ((w.getD 2 0).extractLsb' 52 11 : BitVec 11).toNat = 8 ∧
       s.readsIn (s.x 2) 8 1 4 = true) ∧
    let r : Route := { origin := 3, rcode := 0x800, rprio := 2, job := 5, top := false }
    let s := wafer { regionOf [(1, 0x200), (2, 0x400)] with
        h.task := some { item := { job := 5, frame := 0x4000, msg := true, chk := true }, prio := 1, budget := 9 }
        g.fpool := 0x0002010000000000, m.frames := [1], m.routes := [(1, some r)] } [(0x210, 0x0080000000000800)]
    let w := s.seenWords (s.x 1) 4
    s.free [1, 2] [] = true ∧ s.core.inEntry = true ∧ s.readsIn (s.x 1) 32 4 1 = true ∧ s.core.routeOf = some (1, r) ∧
      (w.getD 2 0).extractLsb' 50 2 = (0 : BitVec 2) ∧ ((w.getD 2 0).extractLsb' 52 11 : BitVec 11).toNat = 8 ∧
      s.readsIn (s.x 2) 8 1 4 = true := by decide +kernel

theorem witness_FormsInAnOpenEntry_replies_and_puts :
    (let r : Route := { origin := 3, rcode := 0x800, rprio := 2, job := 5, top := false }
     let c : Core := { txnOf [(1, 0x200), (2, 1024)] with
        h.task := some { item := { job := 5, frame := 0x4000, msg := true, chk := true }, prio := 1, budget := 9 }
        g.fpool := 0x0002010000000000, m.frames := [1], m.routes := [(1, some r)] }
     let s := wafer c
     s.free [1, 2] [] = true ∧ s.core.inEntry = true ∧ s.core.routeOf = some (1, r) ∧ (s.x 2).toNat = 1024 ∧
       inWindow (s.x 1) 1 = true ∧ s.readsIn (s.x 1) 8 128 18 = true) ∧
    let e := edgeOf (.actor 0 63) (.actor 1 0)
    let s : State := { wafer { firingCore [(1, 7), (2, 9)] with r := (regionOf []).r } with wafer := { edges := [(2, e)] } }
    (putOperands (.edgePut true 3 1 2) s).isSome = true ∧ (putOperands (.edgeDone false 0 1) s).isSome = true ∧
      s.free [1, 2] [] = true ∧ s.core.inEntry = true ∧ s.putTarget (s.x 1) = some (63, 2, e) := by decide +kernel

theorem witness_FormsInAnOpenEntry_nearBank :
    (let s := wafer (regionOf [(1, 0x1FFFFC0), (2, 9)])
     nbScalar (.nbAddfD Ord.plain 0 1 2) = some (.addf, true, Ord.plain, 0, 1, 2) ∧ s.free [1, 2] [0] = true ∧
       s.core.inEntry = true ∧ (s.x 1).toNat % 64 = 0 ∧ s.nbPlace (s.x 1) = some (0, 0xFFFFC0)) ∧
    (let s := wafer (txnOf [(1, 0x1000004), (2, 9)])
     nbScalar (.nbMinW Ord.plain 1 2) = some (.minmax 0, false, Ord.plain, 0, 1, 2) ∧ s.free [1, 2] [0] = true ∧
       s.core.inEntry = true ∧ (s.x 1).toNat % 4 = 0 ∧ s.nbPlace (s.x 1) = some (0, 4)) ∧
    (let s := wafer (txnOf [(1, 0x1000040), (2, 0x200)])
     nbLine (.nbVaddD Ord.plain 1 2) = some (0, true, Ord.plain, 1, 2) ∧ s.free [1, 2] [] = true ∧ s.core.inEntry = true ∧
       (s.x 1).toNat % 64 = 0 ∧ s.nbPlace (s.x 1) = some (0, 64) ∧ s.readsIn (s.x 2) 64 8 1 = true) ∧
    let s := wafer (regionOf [(1, 0x1FFFFFC), (2, 9)])
    amoForm (.amoaddW true false 0 1 2) = some (0, 1, 2, 4) ∧ s.free [1, 2] [0] = true ∧ s.core.inEntry = true ∧
      (s.x 1).toNat % 4 = 0 ∧ 0x1000000 ≤ (s.x 1).toNat ∧ (s.x 1).toNat < 0x2000000 :=
  ⟨by decide +kernel, by decide +kernel, by decide +kernel, by decide +kernel⟩

theorem witness_FormsInAnOpenEntry_commands :
    heldGoes (txnOf []) [1, 2] [3] = true ∧ (wafer (txnOf [])).core.inTxn = true ∧
    (let c := { regionOf [(2, 0xFFFF9)] with e.shadow := [(0x20, 8), (0x21, 1)] }
     heldGoes c [1, 2] [3] = true ∧ (wafer c).core.eng 0x21 = 1 ∧
       ¬ (0xFFFF9 + 0 * (stepOf ((wafer c).core.eng 0x23)).toInt + 8 ≤ spSize)) ∧
    (let c := { regionOf [(2, 0xFFFF8)] with e.shadow := [(0x20, 8), (0x21, 1)] }
     heldGoes c [1, 2] [3] = true ∧ (wafer c).core.inTxn = false ∧ (wafer c).core.e.cpq.length < 4 ∧
       ∀ r, r < ((wafer c).core.eng 0x21).toNat → ((wafer c).core.eng 0x20).toNat ≠ 0 →
         let d : Int := ((wafer c).x 2).toNat + r * (stepOf ((wafer c).core.eng 0x23)).toInt
         0 ≤ d ∧ d + ((wafer c).core.eng 0x20).toNat ≤ spSize) := by decide +kernel

theorem witness_FormsInAnOpenEntry_layout :
    (let s := wafer (txnOf [(1, 0x200), (2, 0x240)]) (tsrAt 0x200 0x400 4 ++ tsrAt 0x240 0x800 4)
     (s.free [1, 2] [3] && s.core.inTxn) = true ∧ s.readsIn (s.x 1) 64 8 2 = true ∧ s.readsIn (s.x 2) 64 8 2 = true ∧
       layRecs s = (tsrNum 0x400 4, tsrNum 0x800 4, 0) ∧ ∀ n, ¬ layFails (tsrNum 0x400 4) (tsrNum 0x800 4) 0 n) ∧
    let s := wafer (regionOf [(1, 0x200), (2, 0x240)]) (tsrAt 0x200 0x400 4 ++ tsrAt 0x240 0x0100000000000000 4)
    (s.free [1, 2] [3] && s.core.inEntry) = true ∧ s.core.inTxn = false ∧ s.readsIn (s.x 1) 64 8 2 = true ∧
      s.readsIn (s.x 2) 64 8 2 = true ∧ layRecs s = (tsrNum 0x400 4, tsrNum 0x0100000000000000 4, 0) ∧
      (∀ n, ¬ layFails (tsrNum 0x400 4) (tsrNum 0x0100000000000000 4) 0 n) ∧
      let dv := tsrNum 0x0100000000000000 4
      spSize ≤ dv % 2 ^ 64 ∧ ∀ d, d < recRank dv → recExt dv d ≠ 0 :=
  ⟨⟨by decide +kernel, by decide +kernel, by decide +kernel, by decide +kernel, tsr_ok⟩, by decide +kernel, by decide +kernel,
    by decide +kernel, by decide +kernel, by decide +kernel, tsr_far, by decide +kernel⟩

theorem witness_FormsInAnOpenEntry_dram :
    ∀ x ∈ [(txnOf [(1, 0x0200000000000000)], true), ({ regionOf [(1, 0x0200000000000000)] with e.shadow := [(0x51, 1)] }, true),
        ({ regionOf [(1, 0x0200000000000000), (2, 0xFFFF8)] with e.shadow := [(0x50, 8)] }, false)],
      let s := wafer x.1
      let ctl := (s.core.eng 0x51).toNat
      let len := (s.core.eng 0x50).toNat
      heldGoes x.1 [1, 2] [3] = true ∧ ctl % 16 < 2 ∧ (s.x 2).toNat % 8 = 0 ∧ (s.x 1).toNat % 8 = 0 ∧
        inWindow (s.x 2) (max 1 len) = true ∧ s.core.e.drq.length < 8 ∧
        ((s.core.inTxn = true ∨ ¬ (ctl % 16 = 0 ∧ (s.x 2).toNat + len ≤ spSize)) ↔ x.2 = true) := by decide +kernel

/-- A closing form of the one open entry, which holds what is given. -/
def closingCore (c : Core) (hold : List Held) : Core := { c with r.hold := hold }
/-- A message that waits in the hold buffer, by a capability of slot 1. -/
def heldMsg : Msg × Nat × CapUse :=
  ({ reply := false, job := 5, code := 0x800, prio := 1, wid := true, payload := [7], top := false }, 1,
   { addr := 0x200, w0 := 0x0000100500010001, w1 := Config.seal 0 0x0000100500010001, needs := 1 })
def heldSends (l : List (Msg × Nat × CapUse)) : List Held := l.map fun p =>
  { op := .send 0 { dst := p.2.1, job := p.1.job, rl := none, body := .msg p.1 } p.2.2 none, depth := 1 }

theorem witness_FormsInAnOpenEntry_released :
    ∀ c ∈ [regionOf [], txnOf [], { regionOf [] with m.sendq := [(0, List.replicate 16 { dst := 1, job := 5, rl := none, body := .msg (msgOf false) })] }],
      let s := wafer (closingCore c (heldSends [heldMsg]))
      ∃ e, s.core.r.stack = [e] ∧ s.core.r.closing = false ∧ s.core.r.owed = none ∧
        (e.txn = true → s.core.e.sb = [] ∧ s.core.r.doomed = false ∧ s.core.r.wset = []) ∧ (s.core.sendq 0).length ≤ 16 ∧
        (∀ p ∈ [heldMsg], p.2.2.checked = true → s.capFault s.core.jobOf p.2.2.w0 p.2.2.w1 p.2.2.needs = 0) ∧
        s.core.r.hold = heldSends [heldMsg] := by
  intro c hc
  have h (s : State) (h0 : s.core.jobOf = 5) (h1 : s.sealOf 0x0000100500010001 = Config.seal 0 0x0000100500010001) (h2 : s.genOf 1 = 1) :
      ∀ p ∈ [heldMsg], p.2.2.checked = true → s.capFault s.core.jobOf p.2.2.w0 p.2.2.w1 p.2.2.needs = 0 := by
    intro p hp _
    obtain rfl : p = heldMsg := by simpa using hp
    show s.capFault _ 0x0000100500010001 (Config.seal 0 0x0000100500010001) 1 = 0
    rw [← h1]
    exact capFault_sealed _ _ _ _ 1 (by decide) (by rw [h2]; decide) (.inl (by rw [h0]; decide)) (by decide)
  rcases hc with _ | ⟨_, _ | ⟨_, _ | ⟨_, hc⟩⟩⟩
  · exact ⟨_, rfl, rfl, rfl, by decide, by decide, h _ rfl rfl rfl, rfl⟩
  · exact ⟨_, rfl, rfl, rfl, by decide, by decide, h _ rfl rfl rfl, rfl⟩
  · exact ⟨_, rfl, rfl, rfl, by decide, by decide, h _ rfl rfl rfl, rfl⟩
  · cases hc

theorem witness_FormsInAnOpenEntry_refused :
    let cap : CapUse := { addr := 0x200, w0 := 0, w1 := 0, needs := 1 }
    let s := wafer (closingCore (regionOf []) (heldSends [(heldMsg.1, 1, cap)]))
    ∃ e, s.core.r.stack = [e] ∧ e.txn = false ∧ s.core.r.closing = false ∧ s.core.r.owed = none ∧
      s.core.r.hold = heldSends [(heldMsg.1, 1, cap)] ∧ cap.checked = true ∧ s.capFault s.core.jobOf cap.w0 cap.w1 cap.needs ≠ 0 := by
  refine ⟨_, rfl, rfl, rfl, rfl, rfl, rfl, ?_⟩
  have hg : ∀ s : State, s.genOf 0 = 1 → s.capFault s.core.jobOf 0 0 1 ≠ 0 := by
    intro s h
    unfold State.capFault
    split
    · decide
    · rw [if_pos (by rw [show capSlot 0 = some 0 by decide]; simp [h]; decide)]
      decide
  exact hg _ rfl

theorem witness_FormsInAnOpenEntry_commandsRelease :
    (let op := { nbOf .add 8 7 with fetch := false, rd := 0 }
     let s := wafer (closingCore (regionOf []) [{ op := .nb op, depth := 1 }])
     s.core.r.stack.length = 1 ∧ s.core.r.closing = false ∧ s.core.r.owed = none ∧ s.formWaits op.ord op.remote = false) ∧
    (∀ n ∈ [0, 3, 4],
      let c := cpOf .go 8 0 0
      let s := wafer { closingCore (regionOf []) [{ op := .cp c, depth := 1, rd := 3 }] with e.cpq := List.replicate n c }
      s.core.r.stack.length = 1 ∧ s.core.r.closing = false ∧ s.core.r.owed = none ∧ (s.core.e.cpq.length < 4 ↔ n ≠ 4)) ∧
    ∀ n ∈ [0, 7, 8],
      let c := drOf 0
      let s := wafer { closingCore (regionOf []) [{ op := .dram c, depth := 1, rd := 3 }] with e.drq := List.replicate n c }
      s.core.r.stack.length = 1 ∧ s.core.r.closing = false ∧ s.core.r.owed = none ∧ (s.core.e.drq.length < 8 ↔ n ≠ 8) := by
  decide +kernel

/-- Reset with a word where the hart of slot 0 fetches next. -/
def fetchState (w : Nat) : State := State.reset.withFetchWord 32 w

/-- The hart of slot 0 has the turn and may run. -/
def hasTurn (s : State) : Bool :=
  let u : State := { s with cur := 0, sched := [] }
  s.sched == [.hart 0] && s.running && u.core.mayRun && u.core.h.wait.isNone
/-- Nothing stands before the instruction at its pc, which it may fetch. -/
def mayFetch (s : State) : Bool :=
  let u : State := { s with cur := 0, sched := [] }
  let pc := u.core.h.pc
  hasTurn s && !u.core.r.closing && (u.core.h.hs == .run || u.core.h.hs == .boot) && u.preempts == none &&
    decide (pc.toNat % 4 = 0) && inWindow pc 4 && s.crc == [] && u.clean (u.flat pc)
/-- The word that it fetches. -/
def fetched (s : State) : IWord := BitVec.ofNat 32 (littleEndian s.mem.byte (s.flat s.core.h.pc) 4)
/-- The turn of slot 0, whose core is as given. -/
def turnState (c : Core) (l : List (Nat × Word) := []) : State := { wafer c l with sched := [.hart 0] }

theorem witness_StepRunsTheDecodedInstruction :
    (let s := turnState { closingCore (regionOf []) fullHold with r.closing := true }
     hasTurn s = true ∧ s.core.r.closing = true) ∧
    (let s := turnState { coreOf [] with h.pc := 0x102 }
     hasTurn s = true ∧ s.core.r.closing = false ∧ s.core.h.hs = .run ∧ s.preempts = none ∧ s.core.h.pc.toNat % 4 ≠ 0) ∧
    (let s := turnState { coreOf [] with h.pc := 0x100000 }
     hasTurn s = true ∧ s.core.r.closing = false ∧ s.core.h.hs = .run ∧ s.preempts = none ∧ inWindow s.core.h.pc 4 = false) ∧
    (let s := fetchState 0x00700093
     mayFetch s = true ∧ decode (fetched s) = .ok (.addi 1 0 7) ∧ s.awaitsAcquire (.addi 1 0 7) = false) ∧
    (let s := turnState { coreOf [] with e.cpq := [{ cpOf .go 8 0 0 with ord := ⟨true, false, 3⟩ }], e.issued := 1 } [(0x100, 0x00013083)]
     mayFetch s = true ∧ decode (fetched s) = .ok (.ld 1 2 0) ∧ s.awaitsAcquire (.ld 1 2 0) = true) ∧
    let s : State := { freezeState .frozen with sched := [.event 0], agenda := [{ ev := .thaw, arg := {} }] }
    s.agenda[0]? = some { ev := .thaw, arg := {} } ∧ s.mayPerform .thaw = true ∧ encode .thaw = none :=
  ⟨by decide +kernel, by decide +kernel, by decide +kernel, ⟨by decide +kernel, rfl, by decide +kernel⟩, ⟨by decide +kernel, by rw [show fetched _ = 0x00013083 by decide +kernel]; rfl, by decide +kernel⟩,
    rfl, by decide +kernel, rfl⟩

theorem witness_IllegalInstructions :
    (0 : IWord).toNat % 4 ≠ 3 ∧ ((7 : IWord).toNat % 4 = 3 ∧ (7 : IWord).toNat / 4 % 32 ∈ illegalMajors) ∧
    mayFetch (fetchState 0x10) = true ∧ ∃ m, decode (fetched (fetchState 0x10)) = .error m :=
  ⟨by decide, by decide, by decide +kernel, _, rfl⟩

/-- What a form's registers are, and whether one is pending, or holds an error token. -/
def guardOf (i : Instr) (s : State) : Option (Bool × Option XReg × Bool) :=
  (scalarRegs i s).map fun (srcs, dsts) =>
    ((srcs ++ dsts).any fun r => hasBit s.core.h.pend r && !hasBit s.core.h.hpend r,
      if s.core.atTask then srcs.find? fun r => hasBit s.core.h.mark r else none, (srcs ++ dsts).any fun r => hasBit s.core.h.hpend r)

theorem witness_RegistersStandGuard :
    guardOf (.add 3 1 2) (wafer { coreOf [] with h.pend := 8 }) = some (true, none, false) ∧
    (let s := wafer { coreOf [(2, 0x8000000000000010)] with h.mark := 4 }
     guardOf (.sd 2 1 0) s = some (false, some 2, false) ∧ s.core.inEntry = false) ∧
    (let s := wafer { logCore [(1, 0x8000000000000020)] [{ txn := false, mark := 0x1000, begin_ := 0x100 }] with h.mark := 2 }
     guardOf (.beq 1 2 4) s = some (false, some 1, false) ∧ s.core.inEntry = true ∧ s.x 1 ≠ 0x8000000000000010) ∧
    guardOf (.ld 3 1 0) (wafer { coreOf [] with h.pend := 8, h.hpend := 8 }) = some (false, none, true) ∧
    forbidden .mret (wafer (coreOf [])) = true ∧ forbidden (.csrrs 3 0xC00 1) (wafer (coreOf [])) = true := by
  decide +kernel

theorem witness_DecodeOfEncode :
    (∃ i w, Instr.wf i = true ∧ encode i = some w) ∧ ∃ w i, decode w = .ok i :=
  ⟨⟨.nbAddD ⟨true, true, 3⟩ 31 30 29, _, by decide, rfl⟩, ⟨0x12B6452B, _, rfl⟩⟩

theorem witness_MemoryKeepsItsForm : ∃ s t : State, s.mem.wf = true ∧ step s = .next t ∧ s.mem.bytes ≠ [] :=
  ⟨fetchState 0x00700093, after (step (fetchState 0x00700093)), by decide, next_after (by decide +kernel), by decide⟩

theorem witness_FrozenWaferStandsStill :
    ∃ s0 s t : State, s0.StandsStill s ∧ step s = .next t ∧ s.agenda ≠ [] :=
  let s : State := { freezeState .reading [0] with agenda := [{ ev := .readOut, arg := {} }, { ev := .scrubTick, arg := {} }] }
  ⟨s, s, after (step s), ⟨by decide, rfl, rfl, rfl, rfl, rfl, rfl, rfl, rfl, by decide⟩, next_after (by decide +kernel), by decide⟩

/-! ### Single steps -/

/-- addi of 7 into x1 runs as the first instruction after reset. -/
theorem test_first_step : (after (step (fetchState 0x00700093))).core.h.x = [(1, 7)] := by decide +kernel
/-- A word whose two low bits are 00 raises cause 2. -/
theorem test_illegal_step : (after (step (fetchState 0x10))).core.t.mcause = 2 := by decide +kernel
/-- An ecall of a task in U raises cause 8 with the pc saved. -/
theorem test_ecall :
    (after (exec .ecall (wafer (coreOf [])))).core.t.mcause = 8 ∧ (after (exec .ecall (wafer (coreOf [])))).core.t.mepc = 0x100 := by
  decide +kernel

end Sys2Proof.Tests
end

section
/-! SUPPORT. The act of a hart and of a due event (R14, R20, R66, R169, R183, R388): the passing of lc, the fetch of a word, and the
turn with each of its ends. -/
namespace Sys2Proof.Machine

/-! ### The passing of lc (R20, R169, R200, R204, R263, R272) -/

theorem FMap.find_map {α : Type} (f : α → α) (m : FMap α) (k : Nat) :
    FMap.find (m.map fun p => (p.1, f p.2)) k = (FMap.find m k).map f := by
  induction m with
  | nil => rfl
  | cons p t ih =>
    obtain ⟨j, v⟩ := p
    by_cases h : j = k <;> simp [FMap.find, h, ih]

/-- A change of every entry that keeps the default changes what each key reads. -/
theorem FMap.get_map {α : Type} {d : α} {f : α → α} (hd : f d = d) (m : FMap α) (k : Nat) :
    FMap.get d (m.map fun p => (p.1, f p.2)) k = f (FMap.get d m k) := by
  unfold FMap.get
  rw [FMap.find_map]
  cases FMap.find m k with
  | none => exact hd.symm
  | some v => rfl

/-- An event becomes due, unless a condition holds. -/
def State.dueUnless (s : State) (p : Prop) [Decidable p] (ev : Instr) (arg : Arg) : State :=
  { s with agenda := s.agenda ++ if p then [] else [{ ev := ev, arg := arg }] }

theorem State.ite_due (s : State) (p : Prop) [Decidable p] (ev : Instr) (arg : Arg) :
    (if p then s else s.due ev arg) = s.dueUnless p ev arg := by
  by_cases h : p
  · rw [if_pos h, State.dueUnless, if_pos h, List.append_nil]
  · rw [if_neg h, State.dueUnless, if_neg h]; rfl

@[simp] theorem State.dueUnless_agenda (s : State) (p : Prop) [Decidable p] (ev : Instr) (arg : Arg) :
    (s.dueUnless p ev arg).agenda = s.agenda ++ if p then [] else [{ ev := ev, arg := arg }] := rfl
@[simp] theorem State.dueUnless_coreAt (s : State) (p : Prop) [Decidable p] (ev : Instr) (arg : Arg) (m : Nat) :
    (s.dueUnless p ev arg).coreAt m = s.coreAt m := rfl
@[simp] theorem State.dueUnless_clusterAt (s : State) (p : Prop) [Decidable p] (ev : Instr) (arg : Arg) (m : Nat) :
    (s.dueUnless p ev arg).clusterAt m = s.clusterAt m := rfl

/-- A core at which n lc have passed, with the rounds of its scrubber and its samples taken off. -/
def Core.afterLcs (c : Core) (n : Nat) (charged : Bool) : Core :=
  let d := (c.lcPass n charged).memPass n
  { d with u.scrubLc := d.u.scrubLc % 256, u.sampleLc := d.u.sampleLc % sampleLcs d }

/-- An actor after n lc: its stall counter has counted them while it waits, up to the counter's largest value (R204). -/
def ActorEntry.afterLcs (a : ActorEntry) (n : Nat) : ActorEntry :=
  if a.stalled then { a with stallCount := BitVec.ofNat 32 (min (a.stallCount.toNat + n) (2 ^ 32 - 1)) } else a

theorem Core.afterLcs_actor (c : Core) (n : Nat) (charged : Bool) (j : Nat) :
    (c.afterLcs n charged).actor j = (c.actor j).afterLcs n :=
  FMap.get_map (f := fun a : ActorEntry => a.afterLcs n) rfl ..

/-- n lc pass at the acting hart's core, and at it alone. -/
def State.spend (s : State) (n : Nat) (charged : Bool) : State :=
  (s.mapCore fun c => (c.lcPass n charged).memPass n).mapCore fun c =>
    { c with u.scrubLc := c.u.scrubLc % 256, u.sampleLc := c.u.sampleLc % sampleLcs c }

theorem State.spend_core (s : State) (n : Nat) (charged : Bool) : (s.spend n charged).core = s.core.afterLcs n charged := by
  simp only [State.spend, State.mapCore_core]; rfl

theorem State.spend_other (s : State) (n : Nat) (charged : Bool) {m : Nat} (h : m ≠ s.cur) :
    (s.spend n charged).coreAt m = s.coreAt m := by
  unfold State.spend
  rw [State.mapCore_other (s.mapCore _) m _ h, State.mapCore_other s m _ h]

/-- The clock of the slot's cluster once the slot's core has passed it on (R272, entry 123). -/
def State.clusterClock (s : State) (slot : Nat) : Nat :=
  max (s.clusterAt (slotCluster slot)).cycles (s.coreAt slot).u.memCycles

theorem State.dueUnless_clusterClock (s : State) (p : Prop) [Decidable p] (ev : Instr) (arg : Arg) (slot : Nat) :
    (s.dueUnless p ev arg).clusterClock slot = s.clusterClock slot := rfl

theorem State.le_clusterClock (s : State) (slot : Nat) : (s.clusterAt (slotCluster slot)).cycles ≤ s.clusterClock slot :=
  Nat.le_max_left ..

theorem State.clusterPass_eq (s : State) (slot : Nat) :
    let cl := slotCluster slot
    let old := (s.clusterAt cl).cycles
    let new := s.clusterClock slot
    s.clusterPass slot = (s.mapClusterAt cl fun c => { c with cycles := new }).dueUnless
      (new / 256 = old / 256) .clusterScrubTick { place := cl, b := new / 256 - old / 256 } :=
  State.ite_due ..

@[simp] theorem State.clusterPass_coreAt (s : State) (slot m : Nat) : (s.clusterPass slot).coreAt m = s.coreAt m := by
  rw [State.clusterPass_eq]; rfl

theorem State.clusterPass_clusterAt (s : State) (slot m : Nat) :
    (s.clusterPass slot).clusterAt m =
      if m = slotCluster slot then { s.clusterAt m with cycles := s.clusterClock slot } else s.clusterAt m := by
  rw [State.clusterPass_eq, State.dueUnless_clusterAt]
  by_cases h : m = slotCluster slot
  · rw [if_pos h, h, State.mapClusterAt_clusterAt]
  · rw [if_neg h, State.mapClusterAt_other _ _ _ _ h]

/-- The scrubbers of a cluster are due for the rounds of 256 cycles that its clock has gone on (R273). -/
theorem State.clusterPass_agenda (s : State) (slot : Nat) :
    let rounds := s.clusterClock slot / 256 - (s.clusterAt (slotCluster slot)).cycles / 256
    (s.clusterPass slot).agenda = s.agenda ++
      if rounds = 0 then [] else [{ ev := .clusterScrubTick, arg := { place := slotCluster slot, b := rounds } }] := by
  have hle := Nat.div_le_div_right (c := 256) (s.le_clusterClock slot)
  have h : s.clusterClock slot / 256 - (s.clusterAt (slotCluster slot)).cycles / 256 = 0 ↔
      s.clusterClock slot / 256 = (s.clusterAt (slotCluster slot)).cycles / 256 := by omega
  simp only [State.clusterPass_eq, State.dueUnless_agenda, State.mapClusterAt_agenda, h]

/-- The lc of a turn: the core's own counters, the events of its scrubber and its sampler, the cluster's clock. -/
theorem State.passLc_eq (s : State) (n : Nat) (charged : Bool) :
    let scrub := (s.core.u.scrubLc + n) / 256
    let sample := (s.core.u.sampleLc + n) / sampleLcs s.core
    s.passLc s.cur n charged =
      (((s.spend n charged).dueUnless (scrub = 0) .scrubTick { place := s.cur, a := scrub }).dueUnless
        (sample = 0) .driftSample { place := s.cur, a := sample }).clusterPass s.cur := by
  have h : (s.mapCoreAt s.cur fun c => (c.lcPass n charged).memPass n).coreAt s.cur = (s.core.lcPass n charged).memPass n :=
    State.mapCoreAt_coreAt ..
  have hs : 0 < sampleLcs s.core := by unfold sampleLcs Core.lcPerMicro; omega
  simp only [State.passLc, State.ite_due, h, Nat.div_eq_zero_iff_lt hs, Nat.div_eq_zero_iff_lt (show 0 < 256 by decide)]
  rfl

theorem State.account_cur (s : State) (n : Nat) (charged : Bool) : (s.account n charged).cur = s.cur := by
  show (s.passLc s.cur n charged).cur = _
  rw [State.passLc_eq, State.clusterPass_eq]; rfl

theorem State.account_coreAt (s : State) (n : Nat) (charged : Bool) (m : Nat) :
    (s.account n charged).coreAt m = (s.spend n charged).coreAt m := by
  show (s.passLc s.cur n charged).coreAt m = _
  rw [State.passLc_eq, State.clusterPass_coreAt, State.dueUnless_coreAt, State.dueUnless_coreAt]

/-- The cluster's clock follows the acting core's own once n lc have passed there (R272, entry 123). -/
theorem State.spend_clusterClock (s : State) (n : Nat) (charged : Bool) :
    (s.spend n charged).clusterClock s.cur =
      max (s.clusterAt (slotCluster s.cur)).cycles
        (s.core.u.memCycles + (s.core.u.memPart + 1500 * n) / s.core.lcPerMicro) :=
  congrArg (fun c : Core => max (s.clusterAt (slotCluster s.cur)).cycles c.u.memCycles) (s.spend_core n charged)

theorem State.account_clusterAt (s : State) (n : Nat) (charged : Bool) (m : Nat) :
    (s.account n charged).clusterAt m =
      if m = slotCluster s.cur then { s.clusterAt m with cycles := (s.spend n charged).clusterClock s.cur }
      else s.clusterAt m := by
  show (s.passLc s.cur n charged).clusterAt m = _
  rw [State.passLc_eq, State.clusterPass_clusterAt]
  rfl

/-- A turn's lc pass as the spec says (R20, R169, R200, R204, R263, R272, R273). -/
theorem State.account_passed (s : State) (n : Nat) (charged : Bool) : s.Passed (s.account n charged) n charged := by
  have hcore : (s.account n charged).core = s.core.afterLcs n charged := by
    rw [State.core, State.account_cur, State.account_coreAt, ← State.spend_core]; rfl
  have hclock := s.spend_clusterClock n charged
  refine ⟨?frame, rfl, fun m hm => ?others, fun m hm => ?clusters, ?cluster, ?agenda, ?core, fun j => ?actor⟩
  case frame =>
    simp only [State.account, State.passLc_eq, State.clusterPass_eq]; rfl
  case others => rw [State.account_coreAt, State.spend_other _ _ _ hm]
  case clusters => rw [State.account_clusterAt, if_neg hm]
  case cluster => rw [State.account_clusterAt, if_pos rfl, hclock]; rfl
  case agenda =>
    show (s.passLc s.cur n charged).agenda = _
    simp only [State.passLc_eq, State.clusterPass_agenda, State.dueUnless_agenda, State.dueUnless_clusterClock,
      State.dueUnless_clusterAt, hclock]
    rfl
  case core =>
    rw [hcore]
    cases charged
    · cases h : s.core.h.task <;> simp [Core.afterLcs, Core.lcPass, Core.memPass, sampleLcs, Core.lcPerMicro, h]
    · rfl
  case actor => rw [hcore, Core.afterLcs_actor]; rfl

/-! ### The fetch (R66, R96) -/

theorem littleEndian_lt (b : Nat → Byte) (f n : Nat) : littleEndian b f n < 2 ^ (8 * n) := by
  induction n generalizing f with
  | zero => simp [littleEndian]
  | succ k ih =>
    have := ih (f + 1)
    have := (b f).isLt
    rw [littleEndian, show 8 * (k + 1) = 8 * k + 8 by omega, Nat.pow_add]
    omega

/-- The bytes of a run, cut in two. -/
theorem littleEndian_append (b : Nat → Byte) (f m n : Nat) :
    littleEndian b f (m + n) = littleEndian b f m + 2 ^ (8 * m) * littleEndian b (f + m) n := by
  induction m generalizing f with
  | zero => simp [littleEndian]
  | succ k ih =>
    rw [show k + 1 + n = (k + n) + 1 by omega, littleEndian, littleEndian, ih, show f + 1 + k = f + (k + 1) by omega,
      show 8 * (k + 1) = 8 * k + 8 by omega, Nat.pow_add, Nat.mul_add, Nat.add_assoc, Nat.mul_right_comm, Nat.mul_comm _ (2 ^ 8)]

/-- The bytes inside a run, from its number. -/
theorem littleEndian_inside (b : Nat → Byte) {f k n m : Nat} (h : k + n ≤ m) :
    littleEndian b f m / 2 ^ (8 * k) % 2 ^ (8 * n) = littleEndian b (f + k) n := by
  obtain ⟨r, rfl⟩ := Nat.exists_eq_add_of_le h
  rw [Nat.add_assoc, littleEndian_append b f k (n + r), Nat.add_mul_div_left _ _ (Nat.two_pow_pos _),
    Nat.div_eq_of_lt (littleEndian_lt b f k), Nat.zero_add, littleEndian_append b (f + k) n r, Nat.add_mul_mod_self_left,
    Nat.mod_eq_of_lt (littleEndian_lt b (f + k) n)]

/-- The half of a 64-bit word at a flat address that is a multiple of 4 (R66). -/
theorem Mem.word_half (m : Mem) {f : Nat} (h : f % 4 = 0) :
    (m.word (wordAt f)).extractLsb' (8 * (f % 8)) 32 = BitVec.ofNat 32 (littleEndian m.byte f 4) := by
  have hf : wordAt f + f % 8 = f := by unfold wordAt; omega
  have hin := littleEndian_inside m.byte (f := wordAt f) (k := f % 8) (n := 4) (m := 8) (by omega)
  rw [hf] at hin
  apply BitVec.eq_of_toNat_eq
  rw [Mem.word, Mem.nat_littleEndian, BitVec.extractLsb'_toNat, BitVec.toNat_ofNat, BitVec.toNat_ofNat,
    Nat.mod_eq_of_lt (littleEndian_lt m.byte (wordAt f) 8), Nat.shiftRight_eq_div_pow, hin,
    Nat.mod_eq_of_lt (littleEndian_lt m.byte f 4)]

theorem State.clean_iff (s : State) (f : Nat) : s.clean f = true ↔ (s.mem.tag f).poison = false ∧ (s.mem.tag f).flips = 0 := by
  simp [State.clean]

/-- What CheckECC finds in a word without damage (R198). -/
theorem State.ecc_of_clean {s : State} {f : Nat} (h : s.clean f = true) :
    s.mem.ecc f = { data := s.mem.word (wordAt f), corrected := false, bad := false } := by
  rw [Mem.ecc, ((s.clean_iff f).1 h).2]; rfl

theorem State.isBad_of_clean {s : State} {f : Nat} (h : s.clean f = true) : s.mem.isBad f = false := by
  rw [Mem.isBad, State.ecc_of_clean h, ((s.clean_iff f).1 h).1]; rfl

theorem State.checkWord_of_clean {s : State} {f : Nat} (h : s.clean f = true) : s.checkWord f = s := by
  simp only [State.checkWord, State.mapMem, Mem.scrubbed, State.ecc_of_clean h, Bool.false_eq_true, if_false]

/-- With no damage to come a transfer arrives as it was sent (R290). -/
theorem State.transfer_of_no_crc {s : State} (h : s.crc = []) (fs : List Nat) : s.transfer fs = (s, false) := by
  unfold State.transfer
  split
  · rw [h]; cases s; subst h; rfl
  · rfl

/-- The low bits that make an address no multiple of 4. -/
theorem Word.and_three_ne_zero (a : Word) : (a &&& 3 != 0) = decide (a.toNat % 4 ≠ 0) := by
  have h : (a &&& 3).toNat = a.toNat % 4 := by
    rw [BitVec.toNat_and]; exact Nat.and_two_pow_sub_one_eq_mod a.toNat 2
  rw [← h]
  have h0 : a &&& 3 = 0 ↔ (a &&& 3).toNat = 0 := BitVec.toNat_inj.symm
  rw [Bool.eq_iff_iff, bne_iff_ne, decide_eq_true_eq, ne_eq, ne_eq, h0]

theorem spFlat_mod_four (slot off : Nat) : spFlat slot off % 4 = off % 4 := by
  unfold spFlat
  rw [show spSize = 4 * 0x40000 from rfl, Nat.mul_left_comm, Nat.mul_add_mod]

theorem cmFlat_mod_four (cluster off : Nat) : cmFlat cluster off % 4 = off % 4 := by
  unfold cmFlat
  rw [show cmBase = 4 * 2 ^ 38 by decide, show cmSize = 4 * 0x400000 by decide, Nat.mul_left_comm, ← Nat.mul_add, Nat.mul_add_mod]

/-- A local-window address that is a multiple of 4 names a flat address that is one. -/
theorem State.flat_mod_four (s : State) {a : Word} (h : a.toNat % 4 = 0) : s.flat a % 4 = 0 := by
  unfold State.flat localFlat
  split
  · rw [Option.getD_some, spFlat_mod_four, h]
  · split
    · rw [Option.getD_some, cmFlat_mod_four]; omega
    · rfl

/-- A pc that is no multiple of 4 or outside the local windows raises cause 1 (R66). -/
theorem State.fetch_of_bad_pc {s : State} (h : s.core.h.pc.toNat % 4 ≠ 0 ∨ inWindow s.core.h.pc 4 = false) :
    s.fetch = .trapped (s.trap 1 s.core.h.pc) := by
  have hb : (!inWindow s.core.h.pc 4 || s.core.h.pc &&& 3 != 0) = true := by
    rw [Word.and_three_ne_zero]; simpa [or_comm] using h
  rw [State.fetch, if_pos hb]

/-- A fetch of undamaged memory gives the four bytes at the pc and changes nothing (R66, R96). -/
theorem State.fetch_of_clean {s : State} (h4 : s.core.h.pc.toNat % 4 = 0) (hw : inWindow s.core.h.pc 4 = true)
    (hcrc : s.crc = []) (hc : s.clean (s.flat s.core.h.pc) = true) :
    s.fetch = .word s (BitVec.ofNat 32 (littleEndian s.mem.byte (s.flat s.core.h.pc) 4)) := by
  have hb : ¬ (!inWindow s.core.h.pc 4 || s.core.h.pc &&& 3 != 0) = true := by
    rw [Word.and_three_ne_zero]; simp [hw, h4]
  have hword : s.fetchWord s.core.h.pc = BitVec.ofNat 32 (littleEndian s.mem.byte (s.flat s.core.h.pc) 4) := by
    rw [State.fetchWord, Mem.data, State.ecc_of_clean hc]
    exact Mem.word_half _ (s.flat_mod_four h4)
  simp only [State.fetch, if_neg hb, State.checkWord_of_clean hc, State.transfer_of_no_crc hcrc, State.isBad_of_clean hc, hword]
  rfl

/-! ### The turn of a hart (R14, R20, R67, R183, R388) -/

/-- What a turn's end comes to: the act and its lc, or, where it would report what no queue has room for, its lc alone (R343). -/
theorem State.orStall_account_passed (s t : State) (n : Nat) (charged : Bool) :
    if t.overfull = true then s.Passed ((s.orStall t).account n charged) n charged
    else t.Passed ((s.orStall t).account n charged) n charged := by
  rw [State.orStall_eq]
  split <;> exact State.account_passed ..

/-- The turn of a hart that the schedule chooses. -/
theorem step_hart {s : State} {slot : Nat} {rest : List Pick} (hs : s.sched = .hart slot :: rest) (hslot : slot < slotCount)
    (hrun : s.running = true) : step s = State.ownTurn { s with cur := slot, sched := rest } := by
  have hrun' : State.running { s with sched := rest } = true := hrun
  rw [step, State.act, hs]
  simp only [State.perform, State.hartTurn, if_neg (Nat.not_le.2 hslot), hrun', if_true]

/-- A closing form whose release has begun goes on with it (R183). -/
theorem State.ownTurn_of_closing {s : State} (hrun : s.core.mayRun = true) (hwait : s.core.h.wait = none)
    (hclosing : s.core.r.closing = true) : s.ownTurn = .next ((s.orStall s.closeOn).account s.turnLcs s.core.atTask) := by
  simp [State.ownTurn, hrun, hwait, hclosing]

/-- A hart before whose instruction nothing stands fetches it. -/
theorem State.ownTurn_of_free {s : State} (hrun : s.core.mayRun = true) (hwait : s.core.h.wait = none)
    (hclosing : s.core.r.closing = false) (hs : s.core.h.hs = .run ∨ s.core.h.hs = .boot) (hpre : s.preempts = none) :
    s.ownTurn = s.fetchTurn s.turnLcs s.core.atTask := by
  rcases hs with hs | hs <;> simp [State.ownTurn, hrun, hwait, hclosing, hs, hpre]

theorem State.fetchTurn_of_trapped {s t : State} (h : s.fetch = .trapped t) (n : Nat) (charged : Bool) :
    s.fetchTurn n charged = .next (t.account n charged) := by
  rw [State.fetchTurn, h]

theorem State.fetchTurn_of_ok {s t : State} {w : IWord} {i : Instr} (h : s.fetch = .word t w) (hd : decode w = .ok i) (n : Nat)
    (charged : Bool) : s.fetchTurn n charged = t.runInstr i n charged := by
  simp only [State.fetchTurn, h, hd]

/-- An instruction that has to wait for an acquire lets the lc pass alone (R388). -/
theorem State.runInstr_of_awaits {s : State} {i : Instr} (h : s.awaitsAcquire i = true) (n : Nat) (charged : Bool) :
    s.runInstr i n charged = .next (s.account n charged) := by
  rw [State.runInstr, if_pos h]

section
variable {s : State} {i : Instr} (h : ¬ s.awaitsAcquire i = true) (n : Nat) (charged : Bool)
include h

theorem State.runInstr_of_next {t : State} (hx : exec i s = .next t) :
    s.runInstr i n charged = .next ((s.orStall (t.afterAccess i s.core.h.pc)).account n charged) := by
  rw [State.runInstr, if_neg h, hx]

theorem State.runInstr_of_fault {f : Fault} (hx : exec i s = .fault f) : s.runInstr i n charged = .fault f := by
  rw [State.runInstr, if_neg h, hx]

theorem State.runInstr_of_refused {r : Refusal} (hx : exec i s = .refused r) : s.runInstr i n charged = .refused r := by
  rw [State.runInstr, if_neg h, hx]

end

/-! ### The turn of a due event -/

theorem step_event {s : State} {k : Nat} {rest : List Pick} (hs : s.sched = .event k :: rest) :
    step s = State.eventTurn { s with sched := rest } k := by
  rw [step, State.act, hs]; rfl

/-- An event that is no instruction of a hart is its meaning with its argument, no longer due. -/
theorem State.eventAct_of_event (s : State) (k : Nat) {d : Due} (he : encode d.ev = none) :
    s.eventAct k d = exec d.ev { s with agenda := s.agenda.eraseIdx k, arg := d.arg } := by
  simp [State.eventAct, he]

section
variable {s : State} {k : Nat} {d : Due} (hd : s.agenda[k]? = some d) (hp : s.mayPerform d.ev = true)
include hd hp

theorem State.eventTurn_of_next {t : State} (hx : s.eventAct k d = .next t) : s.eventTurn k = .next (s.orStall t) := by
  simp [State.eventTurn, hd, hp, hx]

theorem State.eventTurn_of_fault {f : Fault} (hx : s.eventAct k d = .fault f) : s.eventTurn k = .fault f := by
  simp [State.eventTurn, hd, hp, hx]

theorem State.eventTurn_of_refused {r : Refusal} (hx : s.eventAct k d = .refused r) : s.eventTurn k = .refused r := by
  simp [State.eventTurn, hd, hp, hx]

end

/-! ### Which instruction a step runs -/

/-- Settles O53: the turn's stages one after another (closing, pc, fetch, wait, exec), each ended by the passing of its lc; a due
event by its own turn. -/
theorem stepRunsTheDecodedInstruction : Obligations.StepRunsTheDecodedInstruction := by
  unfold Obligations.StepRunsTheDecodedInstruction
  refine ⟨?hart, ?event⟩
  case hart =>
    intro s slot rest hsched hslot hrunning u pc passed stalls hrun hwait
    have hstep : step s = u.ownTurn := step_hart hsched hslot hrunning
    have hends (t : State) : stalls t ((u.orStall t).account u.turnLcs u.core.atTask) := u.orStall_account_passed t ..
    refine ⟨fun hclosing => ⟨_, hstep.trans (State.ownTurn_of_closing hrun hwait hclosing), hends _⟩, ?_⟩
    intro hclosing hhs hpre
    have hfetch : step s = u.fetchTurn u.turnLcs u.core.atTask :=
      hstep.trans (State.ownTurn_of_free hrun hwait hclosing hhs hpre)
    refine ⟨fun hbad => ⟨_, _, u.trap_traps 1 pc,
      hfetch.trans (State.fetchTurn_of_trapped (State.fetch_of_bad_pc hbad) ..), State.account_passed ..⟩, ?_⟩
    intro i h4 hw hcrc hclean hdec
    have hinstr : step s = u.runInstr i u.turnLcs u.core.atTask :=
      hfetch.trans (State.fetchTurn_of_ok (State.fetch_of_clean h4 hw hcrc hclean) hdec ..)
    split
    next hawait => exact ⟨_, hinstr.trans (State.runInstr_of_awaits hawait ..), State.account_passed ..⟩
    next hawait =>
      cases hx : exec i u with
      | next t => exact ⟨_, hinstr.trans (State.runInstr_of_next hawait _ _ hx), hends _⟩
      | fault f => exact hinstr.trans (State.runInstr_of_fault hawait _ _ hx)
      | refused r => exact hinstr.trans (State.runInstr_of_refused hawait _ _ hx)
  case event =>
    intro s k rest d hsched hd hp he
    let v : State := { s with sched := rest }
    have hstep : step s = v.eventTurn k := step_event hsched
    have hact := v.eventAct_of_event k he
    cases hx : exec d.ev { s with sched := rest, agenda := s.agenda.eraseIdx k, arg := d.arg } with
    | next t => exact hstep.trans (State.eventTurn_of_next (s := v) hd hp (hact.trans hx))
    | fault f => exact hstep.trans (State.eventTurn_of_fault (s := v) hd hp (hact.trans hx))
    | refused r => exact hstep.trans (State.eventTurn_of_refused (s := v) hd hp (hact.trans hx))

end Sys2Proof.Machine
end

section
/-! SUPPORT. The fields of the instruction formats (R71 to R73): what a word's fields are once it is put together, and which decoder
reads it. -/
namespace Sys2Proof

/-! ### Fields of a word put together -/

theorem RF.extractLsb'_join (op : BitVec 7) (r : RF) (s l : Nat) : (RF.join op r).extractLsb' s l =
    BitVec.extractLsb' (n := 7 + 5 + 5 + 3 + 5 + 7) s l (r.f7 ++ r.rs2 ++ r.rs1 ++ r.f3 ++ r.rd ++ op) := rfl

theorem UF.extractLsb'_join (op : BitVec 7) (imm : BitVec 20) (rd : BitVec 5) (s l : Nat) :
    (UF.join op imm rd).extractLsb' s l = BitVec.extractLsb' (n := 20 + 5 + 7) s l (imm ++ rd ++ op) := rfl

theorem GM.extractLsb'_join (op : BitVec 7) (g : GM) (s l : Nat) : (GM.join op g).extractLsb' s l =
    BitVec.extractLsb' (n := 3 + 2 + 1 + 1 + 5 + 5 + 3 + 5 + 7) s l
      (g.sub ++ g.scope ++ BitVec.ofBool g.aq ++ BitVec.ofBool g.rl ++ g.rs2 ++ g.rs1 ++ g.f3 ++ g.rd ++ op) := rfl

theorem GM.getLsbD_join (op : BitVec 7) (g : GM) (i : Nat) : (GM.join op g).getLsbD i =
    BitVec.getLsbD (w := 3 + 2 + 1 + 1 + 5 + 5 + 3 + 5 + 7)
      (g.sub ++ g.scope ++ BitVec.ofBool g.aq ++ BitVec.ofBool g.rl ++ g.rs2 ++ g.rs1 ++ g.f3 ++ g.rd ++ op) i := rfl

theorem GV.extractLsb'_join (op : BitVec 7) (g : GV) (s l : Nat) : (GV.join op g).extractLsb' s l =
    BitVec.extractLsb' (n := 2 + 5 + 5 + 5 + 3 + 5 + 7) s l
      (g.w ++ g.op ++ g.vs2 ++ g.vs1 ++ g.km ++ g.vd ++ op) := rfl

@[simp] theorem RF.split_join (op : BitVec 7) (r : RF) : RF.split (RF.join op r) = r := by
  simp (disch := decide) only [RF.split, RF.extractLsb'_join, BitVec.extractLsb'_append_eq_of_le,
    BitVec.extractLsb'_append_eq_of_add_le, BitVec.extractLsb'_eq_self, Nat.reduceSub]

@[simp] theorem GM.split_join (op : BitVec 7) (g : GM) : GM.split (GM.join op g) = g := by
  simp (disch := decide) only [GM.split, GM.extractLsb'_join, GM.getLsbD_join, BitVec.getLsbD_append,
    BitVec.extractLsb'_append_eq_of_le, BitVec.extractLsb'_append_eq_of_add_le, BitVec.extractLsb'_eq_self, Nat.reduceSub,
    if_neg, if_pos]
  simp

@[simp] theorem GV.split_join (op : BitVec 7) (g : GV) : GV.split (GV.join op g) = g := by
  simp (disch := decide) only [GV.split, GV.extractLsb'_join, BitVec.extractLsb'_append_eq_of_le,
    BitVec.extractLsb'_append_eq_of_add_le, BitVec.extractLsb'_eq_self, Nat.reduceSub]

@[simp] theorem UF.rd_split_join (op : BitVec 7) (imm : BitVec 20) (rd : BitVec 5) :
    (RF.split (UF.join op imm rd)).rd = rd := by
  simp (disch := decide) only [RF.split, UF.extractLsb'_join, BitVec.extractLsb'_append_eq_of_le,
    BitVec.extractLsb'_append_eq_of_add_le, BitVec.extractLsb'_eq_self, Nat.reduceSub]

@[simp] theorem UF.immU_split_join (op : BitVec 7) (imm : BitVec 20) (rd : BitVec 5) :
    (RF.split (UF.join op imm rd)).immU = imm := by
  simp (disch := decide) only [RF.split, RF.immU, BitVec.extractLsb'_append_extractLsb'_eq_extractLsb']
  exact (BitVec.extractLsb'_append_eq_of_le (by decide)).trans BitVec.extractLsb'_append_eq_left

@[simp] theorem RF.op_join (op : BitVec 7) (r : RF) : (RF.join op r).extractLsb' 0 7 = op := BitVec.extractLsb'_append_eq_right
@[simp] theorem UF.op_join (op : BitVec 7) (imm : BitVec 20) (rd : BitVec 5) : (UF.join op imm rd).extractLsb' 0 7 = op :=
  BitVec.extractLsb'_append_eq_right
@[simp] theorem GM.op_join (op : BitVec 7) (g : GM) : (GM.join op g).extractLsb' 0 7 = op := BitVec.extractLsb'_append_eq_right
@[simp] theorem GV.op_join (op : BitVec 7) (g : GV) : (GV.join op g).extractLsb' 0 7 = op := BitVec.extractLsb'_append_eq_right

/-! ### Immediates and operands that are cut up -/

/-- The low field and the rest, put together again. -/
theorem append_halves_12 (x : BitVec 12) : x.extractLsb' 5 7 ++ x.extractLsb' 0 5 = x :=
  (BitVec.extractLsb'_append_extractLsb'_eq_extractLsb' (start₂ := 5) (start₁ := 0) rfl).trans BitVec.extractLsb'_eq_self

@[simp] theorem RF.immI_halves (imm : BitVec 12) (rs1 : BitVec 5) (f3 : BitVec 3) (rd : BitVec 5) :
    RF.immI ⟨imm.extractLsb' 5 7, imm.extractLsb' 0 5, rs1, f3, rd⟩ = imm := append_halves_12 imm

@[simp] theorem RF.immS_halves (imm : BitVec 12) (rs2 rs1 : BitVec 5) (f3 : BitVec 3) :
    RF.immS ⟨imm.extractLsb' 5 7, rs2, rs1, f3, imm.extractLsb' 0 5⟩ = imm := append_halves_12 imm

@[simp] theorem RF.immB_halves (imm : BitVec 12) (rs2 rs1 : BitVec 5) (f3 : BitVec 3) :
    RF.immB ⟨bHi imm, rs2, rs1, f3, bLo imm⟩ = imm := by
  simp (disch := decide) only [RF.immB, bHi, bLo, BitVec.extractLsb'_append_eq_of_le,
    BitVec.extractLsb'_append_eq_of_add_le, BitVec.extractLsb'_eq_self, Nat.reduceSub,
    BitVec.extractLsb'_append_extractLsb'_eq_extractLsb']

@[simp] theorem jImm_jField (imm : BitVec 20) : jImm (jField imm) = imm := by
  simp (disch := decide) only [jImm, jField, BitVec.extractLsb'_append_eq_of_le,
    BitVec.extractLsb'_append_eq_of_add_le, BitVec.extractLsb'_eq_self, Nat.reduceSub,
    BitVec.extractLsb'_append_extractLsb'_eq_extractLsb']

/-- The bits above a shift amount select the shift. -/
@[simp] theorem extractLsb'_shiftField (c : BitVec 6) (x : BitVec 1) : BitVec.extractLsb' (n := 7) 1 6 (c ++ x) = c :=
  BitVec.extractLsb'_append_eq_left

@[simp] theorem RF.shamt6_halves (c : BitVec 6) (sh : BitVec 6) (rs1 : BitVec 5) (f3 : BitVec 3) (rd : BitVec 5) :
    RF.shamt6 ⟨c ++ sh.extractLsb' 5 1, sh.extractLsb' 0 5, rs1, f3, rd⟩ = sh := by
  unfold RF.shamt6
  rw [BitVec.extractLsb'_append_eq_right]
  exact (BitVec.extractLsb'_append_extractLsb'_eq_extractLsb' (start₂ := 5) (start₁ := 0) rfl).trans BitVec.extractLsb'_eq_self

section
variable (f5 : BitVec 5) (aq rl : Bool) (rs2 rs1 : BitVec 5) (f3 : BitVec 3) (rd : BitVec 5)

@[simp] theorem RF.funct5_amoField : RF.funct5 ⟨amoField f5 aq rl, rs2, rs1, f3, rd⟩ = f5 :=
  (BitVec.extractLsb'_append_eq_of_le (by decide)).trans BitVec.extractLsb'_append_eq_left

@[simp] theorem RF.aq_amoField : RF.aq ⟨amoField f5 aq rl, rs2, rs1, f3, rd⟩ = aq := by
  refine BitVec.getLsbD_append.trans ?_
  exact BitVec.getLsbD_append.trans (by simp)

@[simp] theorem RF.rl_amoField : RF.rl ⟨amoField f5 aq rl, rs2, rs1, f3, rd⟩ = rl :=
  BitVec.getLsbD_append.trans (by simp)

end

/-- A small operand in a wider field is read back. -/
@[simp] theorem extractLsb'_setWidth_self {n v : Nat} (x : BitVec n) (h : n ≤ v := by decide) :
    (x.setWidth v).extractLsb' 0 n = x :=
  (BitVec.extractLsb'_setWidth_of_le (by omega)).trans BitVec.extractLsb'_eq_self

/-- Above a small operand its field is zero (R75). -/
@[simp] theorem extractLsb'_setWidth_above {n v : Nat} (x : BitVec n) (l : Nat) : (x.setWidth v).extractLsb' n l = 0 := by
  ext i hi
  simp 

end Sys2Proof
end

section
/-! SUPPORT. Which decoder reads a word. -/
namespace Sys2Proof

@[simp] theorem reservedUnless_true (i : Instr) : reservedUnless true i = .ok i := rfl
@[simp] theorem chosenWhen_true (i : Instr) (rest : Except Illegal Instr) : chosenWhen true i rest = .ok i := rfl
@[simp] theorem chosenWhen_false (i : Instr) (rest : Except Illegal Instr) : chosenWhen false i rest = rest := rfl

section
variable (r : RF) (g : GM) (v : GV) (imm : BitVec 20) (rd : BitVec 5)

theorem decode_load : decode (RF.join 0x03 r) = decodeLoad r := by simp [decode]
theorem decode_miscMem : decode (RF.join 0x0f r) = decodeMiscMem r := by simp [decode]
theorem decode_opImm : decode (RF.join 0x13 r) = decodeOpImm r := by simp [decode]
theorem decode_opImm32 : decode (RF.join 0x1b r) = decodeOpImm32 r := by simp [decode]
theorem decode_store : decode (RF.join 0x23 r) = decodeStore r := by simp [decode]
theorem decode_amo : decode (RF.join 0x2f r) = decodeAmo r := by simp [decode]
theorem decode_op : decode (RF.join 0x33 r) = decodeOp r := by simp [decode]
theorem decode_op32 : decode (RF.join 0x3b r) = decodeOp32 r := by simp [decode]
theorem decode_branch : decode (RF.join 0x63 r) = decodeBranch r := by simp [decode]
theorem decode_system : decode (RF.join 0x73 r) = decodeSystem r := by simp [decode]
theorem decode_auipc : decode (UF.join 0x17 imm rd) = .ok (.auipc rd imm) := by simp [decode]
theorem decode_lui : decode (UF.join 0x37 imm rd) = .ok (.lui rd imm) := by simp [decode]
theorem decode_jal : decode (UF.join 0x6f imm rd) = .ok (.jal rd (jImm imm)) := by simp [decode]
theorem decode_jalr (h : r.f3 = 0) : decode (RF.join 0x67 r) = .ok (.jalr r.rd r.rs1 r.immI) := by simp [decode, h]
theorem decode_control : decode (GM.join 0x0b g) = decodeControl g := by simp [decode]
theorem decode_engine : decode (GM.join 0x2b g) = decodeEngine g := by simp [decode]
theorem decode_vecArith : decode (GV.join 0x5b v) = decodeVecArith v := by simp [decode]
theorem decode_vecData : decode (GV.join 0x7b v) = decodeVecData v := by simp [decode]
end

end Sys2Proof
end

section
/-! SUPPORT. The decoder of an encoded instruction (R66 to R82), and what the decoders can answer. -/
namespace Sys2Proof

/-! ### Decoding an encoded instruction -/

/-- vcvtf converts between two formats (R75). -/
theorem Instr.src_ne_of_wf {w src : BitVec 2} {km : KReg} {vd vs1 : VReg} (h : (Instr.vcvtf w km src vd vs1).wf = true) :
    src ≠ w := by
  simpa [Instr.wf, Instr.cvtOk, Instr.decOk] using h

/-- vtdec has a destination format (R74). -/
theorem Instr.w_ne_of_wf {w p : BitVec 2} {km : KReg} {vd vs1 : VReg} (h : (Instr.vtdec w km p vd vs1).wf = true) :
    w ≠ 3#2 := by
  simpa [Instr.wf, Instr.cvtOk, Instr.decOk] using h

/-- The word of a well-formed instruction decodes to it: by major opcode, its decoder, and there its form. Events have no word. -/
theorem decode_encode (i : Instr) (w : IWord) (hwf : i.wf = true) (h : encode i = some w) : decode w = .ok i := by
  cases i
  case lb | lh | lw | ld | lbu | lhu | lwu =>
    cases h; exact (decode_load _).trans (by simp [decodeLoad])
  case sb | sh | sw | sd => cases h; exact (decode_store _).trans (by simp [decodeStore])
  case fence | fenceI => cases h; exact decode_miscMem _
  case addi | slti | sltiu | xori | ori | andi | slli | srli | srai =>
    cases h; exact (decode_opImm _).trans (by simp [decodeOpImm])
  case auipc => cases h; exact decode_auipc ..
  case addiw | slliw | srliw | sraiw =>
    cases h; exact (decode_opImm32 _).trans (by simp [decodeOpImm32])
  case amoswapW | amoaddW | amoxorW | amoandW | amoorW | amominW | amomaxW | amominuW | amomaxuW | lrW | scW |
      amoswapD | amoaddD | amoxorD | amoandD | amoorD | amominD | amomaxD | amominuD | amomaxuD | lrD | scD =>
    cases h; exact (decode_amo _).trans (by simp [decodeAmo])
  case add | sub | sll | slt | sltu | xor | srl | sra | or | and | mul | mulh | mulhsu | mulhu | div | divu | rem |
      remu =>
    cases h; exact decode_op _
  case lui => cases h; exact decode_lui ..
  case addw | subw | sllw | srlw | sraw | mulw | divw | divuw | remw | remuw =>
    cases h; exact decode_op32 _
  case beq | bne | blt | bge | bltu | bgeu =>
    cases h; exact (decode_branch _).trans (by simp [decodeBranch])
  case jalr => cases h; rw [decode_jalr _ rfl, RF.immI_halves]
  case jal => cases h; rw [decode_jal, jImm_jField]
  case ecall | ebreak | csrrw | csrrs | csrrc | csrrwi | csrrsi | csrrci | mret | sret | wfi | sfenceVma =>
    cases h; exact (decode_system _).trans (by simp [decodeSystem])
  case taskEnd | taskChain | taskSpawn | taskJoin | taskSelf0 | taskSelf1 | taskSelf2 | taskSelf3 | taskSelf4 |
      taskSelf5 | taskSelf6 | taskSelf7 | taskSelf8 | taskSelf9 | taskSelf10 | taskSelf11 | taskSelf12 | taskSelf13 |
      taskSelf14 | taskSelf15 | taskSelf16 | taskSelf17 | taskSelf18 | taskSelf19 | taskSelf20 | taskSelf21 |
      taskSelf22 | taskSelf23 | taskSelf24 | taskSelf25 | taskSelf26 | taskSelf27 | taskSelf28 | taskSelf29 |
      taskSelf30 | taskSelf31 | taskPrio0 | taskPrio1 | taskPrio2 | taskPrio3 | taskPrio4 | taskPrio5 | taskPrio6 |
      taskPrio7 | taskPrio8 | taskPrio9 | taskPrio10 | taskPrio11 | taskPrio12 | taskPrio13 | taskPrio14 | taskPrio15
      | taskPrio16 | taskPrio17 | taskPrio18 | taskPrio19 | taskPrio20 | taskPrio21 | taskPrio22 | taskPrio23 |
      taskPrio24 | taskPrio25 | taskPrio26 | taskPrio27 | taskPrio28 | taskPrio29 | taskPrio30 | taskPrio31 | msgSend
      | msgSendl | msgReply | msgFwd | capMint | capNarrow | capCheck | rcvBegin | rcvPreserve | rcvEnd | rcvFail |
      txnBegin | txnRetry | txnElse | txnEnd | txnAbort | sysFreeze | sysHalt | sysResume | sysInspect | sysScan |
      sysSig | sysRemap | sysInject =>
    cases h; exact decode_control _
  case feLd | feLdk | feSt | feStf | feClr | feTest | edgePut | edgePutv | edgeDone | strSample | fenceScCore |
      fenceScCluster | fenceScDie | fenceScWafer | fenceEngCore | fenceEngCluster | fenceEngDie | fenceEngWafer |
      fenceMxCore | fenceMxCluster | fenceMxDie | fenceMxWafer | engWr | engRd | engSwap | mxZero0 | mxZero1 | mxZero2
      | mxZero3 | mxZero4 | mxZero5 | mxZero6 | mxZero7 | cpGo | cpGomx | cpGath | cpScat | layGo | dramReq | dramReqv
      | barArrive | barJoin | barLeave | barPhase | nbAddD | nbAddW | nbAddfD | nbAddfW | nbFaddD | nbFaddW | nbMinD |
      nbMinW | nbMaxD | nbMaxW | nbMinuD | nbMinuW | nbMaxuD | nbMaxuW | nbFminD | nbFminW | nbFmaxD | nbFmaxW |
      nbAndD | nbAndW | nbOrD | nbOrW | nbXorD | nbXorW | nbSwapD | nbSwapW | nbCasD | nbCasW | nbVaddD | nbVaddW |
      nbVfaddD | nbVfaddW | nbVfminD | nbVfminW | nbVfmaxD | nbVfmaxW | nbVandD | nbVandW | nbVorD | nbVorW | nbVxorD
      | nbVxorW =>
    cases h; exact decode_engine _
  case mxMma | mxMmac | mxStore =>
    cases h; exact (decode_engine _).trans (by simp [decodeEngine, GM.ord])
  case vadd | vsub | vmul | vmulh | vmin | vminu | vmax | vmaxu | vand | vor | vxor | vsll | vsrl | vsra | vfadd |
      vfsub | vfmul | vfdiv | vfsqrt | vfmin | vfmax | vfmadd | vfmsub | vfnmadd | vfnmsub | vfsgnj | vfsgnjn |
      vfclass =>
    cases h; exact decode_vecArith _
  case vcomp24 | vbaq | vdot4 => cases h; exact (decode_vecArith _).trans (by simp [decodeVecArith])
  case vcvti | vcvtx | vld | vst | vlds | vsts | vldx | vstx | vldb | vperm | vslup | vsldn | vzip | vuzp | vsplat |
      vredadd | vfredadd | vfredmax =>
    cases h; exact decode_vecData _
  case vtenc | vrepkPack | vrepkUnpk | vcmpeq | vcmplt | vcmpltu | vfcmpeq | vfcmplt | kand | kor | kxor | kmv | kst
      =>
    cases h; exact (decode_vecData _).trans (by simp [decodeVecData])
  case vcvtf =>
    cases h; exact (decode_vecData _).trans (by simp [decodeVecData, Instr.src_ne_of_wf hwf])
  case vtdec =>
    cases h; exact (decode_vecData _).trans (by simp [decodeVecData, Instr.w_ne_of_wf hwf])
  all_goals cases h

/-! ### What the decoders can answer -/

/-- A well-formed instruction of a hart. -/
def Instr.coded (i : Instr) : Bool := i.wf && i.hasWord

theorem Instr.coded_taskSelf : ∀ r, (Instr.taskSelf r).coded = true := by decide
theorem Instr.coded_taskPrio : ∀ r, (Instr.taskPrio r).coded = true := by decide
theorem Instr.coded_mxZero : ∀ z, (Instr.mxZero z).coded = true := by decide
theorem Instr.coded_fenceSc : ∀ scope, (Instr.fenceSc scope).coded = true := by decide
theorem Instr.coded_fenceEng : ∀ scope, (Instr.fenceEng scope).coded = true := by decide
theorem Instr.coded_fenceMx : ∀ scope, (Instr.fenceMx scope).coded = true := by decide

theorem Instr.coded_vcvtf {w src : BitVec 2} (km : KReg) (vd vs1 : VReg) (h : src ≠ w) :
    (Instr.vcvtf w km src vd vs1).coded = true := by
  simp [Instr.coded, Instr.wf, Instr.cvtOk, Instr.decOk, h]; rfl

theorem Instr.coded_vtdec {w : BitVec 2} (km : KReg) (p : BitVec 2) (vd vs1 : VReg) (h : w ≠ 3) :
    (Instr.vtdec w km p vd vs1).coded = true := by
  simp only [Instr.coded, Instr.wf, Instr.cvtOk, Instr.decOk, h, ne_eq, not_false_eq_true, decide_true]; rfl

/-- An answer of a decoder that is no instruction but a well-formed one with a word. -/
structure Assigned (x : Except Illegal Instr) : Prop where
  coded : ∀ i, x = .ok i → i.coded = true

theorem Assigned.error (e : Illegal) : Assigned (.error e) := ⟨fun _ h => nomatch h⟩

theorem Assigned.ok {i : Instr} (h : i.coded = true) : Assigned (.ok i) := ⟨fun _ e => Except.ok.inj e ▸ h⟩

theorem Assigned.ite {p : Prop} [Decidable p] {x y : Except Illegal Instr} (hx : Assigned x) (hy : Assigned y) :
    Assigned (if p then x else y) := by
  split <;> assumption

/-- An instruction that may rest on its reserved fields being as R75 asks. -/
theorem Assigned.reservedWhen {ok : Bool} {i : Instr} (h : ok = true → i.coded = true) : Assigned (reservedUnless ok i) := by
  cases ok
  case false => exact .error _
  case true => exact .ok (h rfl)

theorem Assigned.reserved {ok : Bool} {i : Instr} (h : i.coded = true) : Assigned (reservedUnless ok i) :=
  .reservedWhen fun _ => h

theorem Assigned.chosen {sel : Bool} {i : Instr} {rest : Except Illegal Instr} (h : i.coded = true) (hr : Assigned rest) :
    Assigned (chosenWhen sel i rest) :=
  .ite (.ok h) hr

section
variable (r : RF) (g : GM) (v : GV)

theorem assigned_load : Assigned (decodeLoad r) := by
  unfold decodeLoad; split <;> apply_rules [Assigned.error, Assigned.ok, rfl]

theorem assigned_miscMem : Assigned (decodeMiscMem r) := by
  unfold decodeMiscMem; split <;> apply_rules [Assigned.error, Assigned.ok, rfl]

theorem assigned_opImm : Assigned (decodeOpImm r) := by
  unfold decodeOpImm; split <;> apply_rules [Assigned.error, Assigned.ok, Assigned.chosen, rfl]

theorem assigned_opImm32 : Assigned (decodeOpImm32 r) := by
  unfold decodeOpImm32; split <;> apply_rules [Assigned.error, Assigned.ok, Assigned.chosen, rfl]

theorem assigned_store : Assigned (decodeStore r) := by
  unfold decodeStore; split <;> apply_rules [Assigned.error, Assigned.ok, rfl]

theorem assigned_amo : Assigned (decodeAmo r) := by
  unfold decodeAmo; split <;> apply_rules [Assigned.error, Assigned.chosen, rfl]

theorem assigned_op : Assigned (decodeOp r) := by
  unfold decodeOp; split <;> apply_rules [Assigned.error, Assigned.chosen, rfl]

theorem assigned_op32 : Assigned (decodeOp32 r) := by
  unfold decodeOp32; split <;> apply_rules [Assigned.error, Assigned.chosen, rfl]

theorem assigned_branch : Assigned (decodeBranch r) := by
  unfold decodeBranch; split <;> apply_rules [Assigned.error, Assigned.ok, rfl]

theorem assigned_system : Assigned (decodeSystem r) := by
  unfold decodeSystem; split <;> apply_rules [Assigned.error, Assigned.ok, Assigned.chosen, rfl]

theorem assigned_control : Assigned (decodeControl g) := by
  unfold decodeControl
  split <;> apply_rules [Assigned.error, Assigned.reserved, Instr.coded_taskSelf, Instr.coded_taskPrio, rfl]

theorem assigned_engine : Assigned (decodeEngine g) := by
  unfold decodeEngine
  split <;> apply_rules [Assigned.error, Assigned.ok, Assigned.ite, Assigned.reserved, Instr.coded_fenceSc,
    Instr.coded_fenceEng, Instr.coded_fenceMx, Instr.coded_mxZero, rfl]

theorem assigned_vecArith : Assigned (decodeVecArith v) := by
  unfold decodeVecArith; split <;> apply_rules [Assigned.error, Assigned.ok, Assigned.reserved, rfl]

theorem assigned_vecData : Assigned (decodeVecData v) := by
  unfold decodeVecData
  split
  case h_1 => exact .reservedWhen fun h => Instr.coded_vcvtf _ _ _ (by simp at h; exact h.2)
  case h_5 => exact .reservedWhen fun h => Instr.coded_vtdec _ _ _ _ (by simp at h; exact h.2)
  all_goals apply_rules [Assigned.error, Assigned.ok, Assigned.ite, Assigned.reserved, rfl]

end

/-- Whatever a word decodes to is well formed and has a word (R74, R75). -/
theorem assigned_decode (w : IWord) : Assigned (decode w) := by
  unfold decode
  split <;> apply_rules [assigned_load, assigned_miscMem, assigned_opImm, assigned_opImm32, assigned_store, assigned_amo,
    assigned_op, assigned_op32, assigned_branch, assigned_system, assigned_control, assigned_engine, assigned_vecArith,
    assigned_vecData, Assigned.ite, Assigned.ok, Assigned.error, rfl]

end Sys2Proof
end

section
/-! PROOF. The obligations about the encoding (R66 to R82). -/
namespace Sys2Proof.Machine

/-- Settles O57: the encoder by its cases, the decoder by its branches. -/
theorem decodeOfEncode : Obligations.DecodeOfEncode := by
  unfold Obligations.DecodeOfEncode
  refine ⟨decode_encode, fun w i h => ?_⟩
  have hcoded := (assigned_decode w).coded i h
  simpa [Instr.coded, Instr.hasWord] using hcoded

/-- Settles O58: each word by evaluation. -/
theorem decodeOfWords : Obligations.DecodeOfWords := by
  unfold Obligations.DecodeOfWords
  refine ⟨rfl, rfl, rfl, rfl, rfl, rfl, rfl, rfl, rfl, rfl, ?_⟩
  simp only [List.forall_mem_cons, List.not_mem_nil, false_imp_iff, implies_true, and_true]
  exact ⟨⟨_, rfl⟩, ⟨_, rfl⟩, ⟨_, rfl⟩, ⟨_, rfl⟩, ⟨_, rfl⟩, ⟨_, rfl⟩⟩

end Sys2Proof.Machine
end

section
/-! PROOF. A word that is no instruction (R66 to R68). -/
namespace Sys2Proof.Machine

/-! ### Words of illegal major opcodes -/

/-- The low seven bits of a word, as a number. -/
theorem toNat_op (w : IWord) : (w.extractLsb' 0 7).toNat = w.toNat % 128 := by
  simp [BitVec.extractLsb'_toNat]

/-- A word of a major opcode that the map marks illegal, or whose low bits are not 11, is no instruction (R66, R68). -/
theorem decode_illegalMajor {w : IWord} (h : w.toNat % 4 ≠ 3 ∨ w.toNat / 4 % 32 ∈ illegalMajors) : ∃ m, decode w = .error m := by
  have hlow : w.toNat % 4 = (w.extractLsb' 0 7).toNat % 4 := by rw [toNat_op]; omega
  have hmajor : w.toNat / 4 % 32 = (w.extractLsb' 0 7).toNat / 4 := by rw [toNat_op]; omega
  rw [hlow, hmajor] at h
  unfold decode
  split
  case h_19 => split <;> exact ⟨_, rfl⟩
  all_goals
    next hop => rw [hop] at h; exact absurd h (by decide)

/-! ### The turn that fetches one -/

section
variable {s t : State} {n : Nat} {charged : Bool} (h : s.Passed t n charged)
include h

/-- The passing of lc leaves storage, the wafer and the dies alone. -/
theorem State.Passed.frame : t.mem = s.mem ∧ t.wafer = s.wafer ∧ t.dies = s.dies := by
  obtain ⟨hs, -⟩ := h
  exact ⟨(congrArg State.mem hs :), (congrArg State.wafer hs :), (congrArg State.dies hs :)⟩

theorem State.Passed.others {m : Nat} (hm : m ≠ s.cur) : t.coreAt m = s.coreAt m := by
  obtain ⟨-, -, hothers, -⟩ := h
  exact hothers m hm

/-- Of the acting hart the passing of lc changes the task's count alone, and of its core the counters. -/
theorem State.Passed.core : t.core.t = s.core.t ∧ t.core.c = s.core.c ∧ t.core.r = s.core.r ∧ t.core.m = s.core.m ∧
    t.core.e = s.core.e ∧ t.core.g = s.core.g ∧ t.core.h = { s.core.h with task := t.core.h.task } := by
  obtain ⟨-, -, -, -, -, -, hcore, -⟩ := h
  generalize t.core = d at hcore ⊢
  rw [hcore]
  exact ⟨rfl, rfl, rfl, rfl, rfl, rfl, rfl⟩

end

theorem State.fetchTurn_of_error {s t : State} {w : IWord} {m : Illegal} (h : s.fetch = .word t w) (hd : decode w = .error m)
    (n : Nat) (charged : Bool) : s.fetchTurn n charged = .next ((t.trap 2 (w.setWidth 64)).account n charged) := by
  simp only [State.fetchTurn, h, hd]

/-- Settles O54: the decoder by its major opcodes; the turn ends in the trap, and after it only lc pass. -/
theorem illegalInstructions : Obligations.IllegalInstructions := by
  unfold Obligations.IllegalInstructions
  refine ⟨fun w => decode_illegalMajor, ?_⟩
  intro s slot rest m hsched hslot hrunning u pc hrun hwait hclosing hhs hpre h4 hw hcrc hclean w hdec
  let t := u.trap 2 (w.setWidth 64)
  have hstep : step s = .next (t.account u.turnLcs u.core.atTask) :=
    ((step_hart hsched hslot hrunning).trans (State.ownTurn_of_free hrun hwait hclosing hhs hpre)).trans
      (State.fetchTurn_of_error (State.fetch_of_clean h4 hw hcrc hclean) hdec ..)
  have htraps : u.Traps t 2 (w.setWidth 64) := u.trap_traps ..
  have hpassed := t.account_passed u.turnLcs u.core.atTask
  obtain ⟨hmem, hwafer, hdies⟩ := hpassed.frame
  have hothers (n : Nat) (hn : n ≠ slot) : (t.account u.turnLcs u.core.atTask).coreAt n = s.coreAt n :=
    (hpassed.others hn).trans (htraps.1.2 n hn)
  exact ⟨t, _, htraps, hstep, hmem, hwafer, hdies, hothers, hpassed.core⟩

end Sys2Proof.Machine
end

section
/-! SUPPORT. The hart that acts stays the same through the effects of a write (R185, R189, R256, R343), through the discarding of
held effects, the undo log and a rollback (R181). -/
namespace Sys2Proof.Machine

theorem State.each_keeps {α β : Type} (p : State → β) {f : State → α → State} (hf : ∀ s a, p (f s a) = p s) (s : State)
    (l : List α) : p (s.each l f) = p s := by
  unfold State.each
  induction l generalizing s with
  | nil => rfl
  | cons a l ih => exact (ih _).trans (hf s a)

@[simp] theorem State.each_cur {α : Type} {f : State → α → State} (hf : ∀ s a, (f s a).cur = s.cur) (s : State) (l : List α) :
    (s.each l f).cur = s.cur := State.each_keeps State.cur hf s l

/-! ### Effects of a write on other agents -/

@[simp] theorem State.doomLines_cur (s : State) (agent : Option Nat) (lines : List Nat) :
    (s.doomLines agent lines).cur = s.cur := by
  refine (State.each_cur ?_ _ _).trans (State.each_cur ?_ _ _) <;> exact fun _ _ => rfl

@[simp] theorem State.markWoken_cur (s : State) (cl : Nat) (lines : List Nat) : (s.markWoken cl lines).cur = s.cur := by
  simp only [State.markWoken]
  split
  · rfl
  · refine (State.each_cur ?_ _ _).trans (State.mapClusterAt_cur ..); exact fun _ _ => rfl

@[simp] theorem State.enqueueAt_cur (s : State) (slot : Nat) (r : Rec) : (s.enqueueAt slot r).cur = s.cur := by
  simp only [State.enqueueAt]; split <;> simp [State.spillTo]

@[simp] theorem State.wakeOne_cur (s : State) (cl : Nat) (sl : Sleeper) : (s.wakeOne cl sl).cur = s.cur := by
  unfold State.wakeOne; split <;> simp

@[simp] theorem State.touch_cur (s : State) (agent : Option Nat) (f : Nat) : (s.touch agent f).cur = s.cur := by
  unfold State.touch; split <;> simp [State.touchLines]

@[simp] theorem State.touchAll_cur (s : State) (agent : Option Nat) (fs : List Nat) : (s.touchAll agent fs).cur = s.cur := by
  simp [State.touchAll]

@[simp] theorem State.balance_cur (s : State) (place : Nat) (job : BitVec 12) (d : Int) :
    (s.balance place job d).cur = s.cur := by
  unfold State.balance; split <;> simp

@[simp] theorem State.mapEdge_cur (s : State) (e : Nat) (f : Edge → Edge) : (s.mapEdge e f).cur = s.cur := by
  unfold State.mapEdge; split <;> simp

/-! ### Notices and corrected words -/

@[simp] theorem State.flushNotices_cur (s : State) (d n : Nat) : (s.flushNotices d n).cur = s.cur := by
  induction n generalizing s with
  | zero => rfl
  | succ k ih => unfold State.flushNotices; (repeat' split) <;> simp [ih, State.writeNotice]

@[simp] theorem State.notice_cur (s : State) (d : Nat) (n : Notice) : (s.notice d n).cur = s.cur := by
  simp only [State.notice]; (repeat' split) <;> simp

@[simp] theorem State.countCore_cur (s : State) (slot : Nat) : (s.countCore slot).cur = s.cur := by
  simp only [State.countCore]; split <;> simp [State.putSample]

@[simp] theorem State.checkWord_cur (s : State) (f : Nat) : (s.checkWord f).cur = s.cur := by
  simp only [State.checkWord, State.countCorr]; (repeat' split) <;> simp

/-! ### Firings, and what follows from a full bit that changes -/

@[simp] theorem State.mapActor_cur (s : State) (slot n : Nat) (f : ActorEntry → ActorEntry) :
    (s.mapActor slot n f).cur = s.cur := rfl

@[simp] theorem State.clearCompared_cur (s : State) (a : ActorEntry) : (s.clearCompared a).cur = s.cur := by
  unfold State.clearCompared; split <;> simp

@[simp] theorem State.fire_cur (s : State) (slot n : Nat) : (s.fire slot n).cur = s.cur := by
  simp only [State.fire, State.enqueueAt_cur, State.balance_cur, State.mapActor_cur]; split <;> simp

@[simp] theorem State.fireOr_cur (s : State) (slot n : Nat) : (s.fireOr slot n).cur = s.cur := by
  simp only [State.fireOr]; (repeat' split) <;> simp

@[simp] theorem State.recompare_cur (s : State) (slot e f : Nat) (x y : Edge) : (s.recompare slot e f x y).cur = s.cur := by
  rw [State.recompare, apply_ite State.cur, State.touchAll_cur, State.mapEdge_cur, State.mapEdge_cur, State.mapMem_cur,
    State.askReinject, State.askReinject, State.due_cur, State.due_cur, State.touchAll_cur, State.mapEdge_cur,
    State.mapEdge_cur, State.mapMem_cur, ite_self]

@[simp] theorem State.evalActor_cur (s : State) (slot n : Nat) : (s.evalActor slot n).cur = s.cur := by
  simp only [State.evalActor]; (repeat' split) <;> simp

@[simp] theorem State.advance_cur (s : State) (en : Nat) (e : Edge) (slot n : Nat) : (s.advance en e slot n).cur = s.cur := by
  simp only [State.advance, State.balance_cur]; (repeat' split) <;> simp

@[simp] theorem State.emptied_cur (s : State) (en : Nat) (e : Edge) (slot i : Nat) : (s.emptied en e slot i).cur = s.cur := by
  unfold State.emptied; split <;> simp

@[simp] theorem State.dueCommand_cur (s : State) (d : Nat) : (s.dueCommand d).cur = s.cur := by
  simp only [State.dueCommand]; (repeat' split) <;> simp

@[simp] theorem State.fullChanged_cur (s : State) (f : Nat) (now : Bool) : (s.fullChanged f now).cur = s.cur := by
  unfold State.fullChanged
  extract_lets s1 die s2
  have hs1 : s1.cur = s.cur := by
    refine State.each_cur (fun s p => ?_) ..
    simp only [State.evalActor_cur]
    (repeat' split) <;> simp
  have hs2 : s2.cur = s.cur := by
    rw [← hs1]
    simp only [s2]
    split
    case h_1 => rfl
    case h_2 b hb =>
      split
      · split
        · exact State.dueCommand_cur ..
        · rfl
      · split
        · exact State.flushNotices_cur ..
        · split
          · refine State.each_cur ?_ _ _; exact fun _ _ => rfl
          · rfl
  split
  · refine (State.each_cur ?_ _ _).trans hs2; exact fun _ _ => rfl
  · exact hs2

@[simp] theorem State.putFull_cur (s : State) (agent : Option Nat) (f : Nat) (b : Bool) : (s.putFull agent f b).cur = s.cur := by
  simp [State.putFull, State.putFulls]

/-! ### Rollback -/

@[simp] theorem State.restoreWord_cur (s : State) (f : Nat) (d : Word) (full poison toWset : Bool) :
    (s.restoreWord f d full poison toWset).cur = s.cur := by
  unfold State.restoreWord; split <;> simp [State.restoreMem]

@[simp] theorem State.discardHeld_cur (s : State) (x : Held) : (s.discardHeld x).cur = s.cur := by
  simp only [State.discardHeld]; (repeat' split) <;> simp

@[simp] theorem State.discardFrom_cur (s : State) (depth : Nat) : (s.discardFrom depth).cur = s.cur := by
  simp [State.discardFrom]

@[simp] theorem State.popLog_cur (s : State) (mark : Nat) (regs : Bool) (wmark : Option Nat) (n : Nat) :
    (s.popLog mark regs wmark n).1.cur = s.cur := by
  induction n generalizing s with
  | zero => rfl
  | succ k ih =>
    unfold State.popLog
    extract_lets top a toWset f s0 s1 tag val kind where_ r j s2
    have hs1 : s1.cur = s.cur := by simp only [s1, s0, State.mapCore_cur, State.checkWord_cur]
    have hs2 : s2.cur = s.cur := by
      rw [← hs1]
      simp only [s2]
      (repeat' split) <;> simp
    split
    · rfl
    · split
      · exact hs1
      · exact (ih s2).trans hs2

theorem State.rollback_cur (s : State) (i : Nat) (regs : Bool) : (s.rollback i regs).1.cur = s.cur := by
  simp only [State.rollback]; (repeat' split) <;> simp

end Sys2Proof.Machine
end

section
/-! SUPPORT. An interrupt (R158, R160, R163, R165), a rollback of a transaction's stack (R181, R185), and a store's way from the buffer
to memory where nothing watches it (R96, R185, R189, R287). -/
namespace Sys2Proof.Machine

/-! ### Operations as another hart -/

/-- What an event does as the hart of a slot, seen with that hart acting. -/
theorem State.asCore_back (s : State) (slot : Nat) (f : State → State) (h : (f { s with cur := slot }).cur = slot) :
    ({ s.asCore slot f with cur := slot } : State) = f { s with cur := slot } := by
  unfold State.asCore
  generalize f { s with cur := slot } = v at h
  subst h
  rfl

/-! ### Interrupts -/

/-- The first of two sets of pending interrupts, where the first set stands above the second. -/
theorem firstInterrupt_orElse (w v : Word) :
    (firstInterrupt w).orElse (fun _ => firstInterrupt v) =
      firstInterrupt (if w.getLsbD 9 || w.getLsbD 1 || w.getLsbD 5 then w else v) := by
  unfold firstInterrupt
  cases h9 : w.getLsbD 9 <;> cases h1 : w.getLsbD 1 <;> cases h5 : w.getLsbD 5 <;>
    simp [-BitVec.getLsbD_eq_getElem, h9, h1, h5]

/-- The order SEI, SSI, STI (R163). -/
theorem firstInterrupt_of_first {w : Word} {code : Nat}
    (h : if w.getLsbD 9 then code = 9 else if w.getLsbD 1 then code = 1 else w.getLsbD 5 = true ∧ code = 5) :
    firstInterrupt w = some code := by
  unfold firstInterrupt
  split at h
  next h9 => rw [if_pos h9, h]
  next h9 =>
    split at h
    next h1 => rw [if_neg h9, if_pos h1, h]
    next h1 => rw [if_neg h9, if_neg h1, if_pos h.1, h.2]

/-- The status bits that trap entry into S leaves (R158). -/
theorem Core.enter_toS_mstatus (c : Core) (intr : Bool) (code : Nat) (epc tval : Word) (h : c.mode ≠ .m) (n : Nat) :
    (c.enter true intr code epc tval).c.mstatus.getLsbD n =
      if n = 1 then false else if n = 5 then c.c.mstatus.getLsbD 1 else if n = 8 then decide (c.mode = .s)
      else c.c.mstatus.getLsbD n := by
  have hs : (c.mode != Priv.u) = decide (c.mode = .s) := by
    revert h; cases c.mode <;> decide
  simp only [Core.enter, if_true, putBits_getLsbD, mSPP_bit, mSIE_bit, mSPIE_bit, decide_eq_true_eq, hs,
    hasBits_bit _ _ 1 mSIE_bit]
  by_cases h8 : n = 8
  · subst h8; simp
  · by_cases h1 : n = 1 <;> simp [h8, h1]

/-- The status bits that trap entry into M leaves (R158). -/
theorem Core.enter_toM_mstatus (c : Core) (intr : Bool) (code : Nat) (epc tval : Word) (n : Nat) :
    (c.enter false intr code epc tval).c.mstatus.getLsbD n =
      if n = 3 then false else if n = 7 then c.c.mstatus.getLsbD 3 else if n = 11 then decide (c.mode ≠ .u)
      else if n = 12 then decide (c.mode = .m) else c.c.mstatus.getLsbD n := by
  simp only [Core.enter, if_false, Bool.false_eq_true, BitVec.getLsbD_or, BitVec.getLsbD_and, BitVec.getLsbD_not,
    code_shift_bit, putBits_getLsbD, mMPP_bit, mMIE_bit, mMPIE_bit, decide_eq_true_eq, hasBits_bit _ _ 3 mMIE_bit]
  rcases Nat.lt_or_ge n 64 with hn | hn
  · by_cases h11 : n = 11
    · subst h11; simp
    · by_cases h12 : n = 12
      · subst h12; simp
      · by_cases h3 : n = 3
        · subst h3; simp
        · by_cases h7 : n = 7 <;> simp [h11, h12, h3, h7, hn]
  · have hbig : n ≠ 3 ∧ n ≠ 7 ∧ n ≠ 11 ∧ n ≠ 12 := by omega
    simp [hbig, BitVec.getLsbD_of_ge _ _ hn]

/-- The cause of an interrupt: its code with the top bit (R160). -/
theorem interruptCause {code : Nat} (h : code < 2 ^ 63) :
    (BitVec.ofNat 64 code ||| 1#64 <<< 63 : Word) = BitVec.ofNat 64 (2 ^ 63 + code) := by
  apply BitVec.eq_of_toNat_eq
  have hor : code ||| 2 ^ 63 = 2 ^ 63 + code := by
    rw [Nat.or_comm]; exact (Nat.two_pow_add_eq_or_of_lt h 1 ▸ by simp)
  simp only [BitVec.toNat_or, BitVec.toNat_ofNat, BitVec.toNat_shiftLeft]
  rw [Nat.mod_eq_of_lt (show code < 2 ^ 64 by omega), Nat.mod_eq_of_lt (show 2 ^ 63 + code < 2 ^ 64 by omega), ← hor]
  rfl

/-- Taking an interrupt does what the spec says of it (R158, R160, R163, R165). -/
theorem State.interrupt_interrupts (s : State) {code : Nat} (hcode : code < 2 ^ 63) :
    s.Interrupts (s.interrupt code) code := by
  unfold State.Interrupts
  refine ⟨s.mapCore_only _, ?_⟩
  have hc : (s.interrupt code).core = s.core.enter (s.core.delegated true code) true code
      (if s.core.h.hs = .idle then 0 else s.core.h.pc) 0 := by rw [State.interrupt, State.mapCore_core]
  have hv (w : Word) : vectorOf w true code = (w &&& ~~~3) + (if w &&& 3 = 1 then BitVec.ofNat 64 (4 * code) else 0) := by
    simp only [vectorOf, Bool.true_and, beq_iff_eq]
    split
    · rfl
    · exact (BitVec.add_zero _).symm
  have hd : s.core.delegated true code = true ↔ s.core.mode ≠ .m ∧ s.core.c.mideleg.getLsbD code = true := by
    simp [Core.delegated]
  rw [hc]
  split
  next h =>
    rw [hd.2 h]
    exact ⟨by simp only [Core.enter, if_true, hv, interruptCause hcode], Core.enter_toS_mstatus _ _ _ _ _ h.1⟩
  next h =>
    rw [Bool.eq_false_iff.2 fun e => h (hd.1 e)]
    exact ⟨by simp only [Core.enter, if_true, if_false, Bool.false_eq_true, hv, interruptCause hcode],
      Core.enter_toM_mstatus _ _ _ _ _⟩

/-! ### A rollback of a transaction's stack -/

/-- A rollback of the outermost transaction that ends leaves no entry, no write set and no doom (R181, R185). -/
theorem State.rollback_of_outermost {s : State} {e : Entry} (h : s.core.r.stack = [e]) (htxn : e.txn = true) (regs : Bool)
    (hr : (s.rollback 0 regs).2 = true) :
    (s.rollback 0 regs).1.core.r.stack = [] ∧ (s.rollback 0 regs).1.core.r.wset = [] ∧
      (s.rollback 0 regs).1.core.r.doomed = false := by
  simp only [State.rollback, h, List.drop_zero] at hr ⊢
  split at hr
  · simp at hr
  · simp [htxn]

/-- A restart of a stack of one transaction, whose log can be read, begins it anew with its stamp (R175, R185). -/
theorem State.doomedRestart_of_outermost {s : State} {e : Entry} (h : s.core.r.stack = [e]) (htxn : e.txn = true)
    (hdone : s.commandsDone = true) (hr : s.rollsBack 0 true = true) :
    s.doomedRestart =
      (s.rollback 0 true).1.mapCore fun c => { c with r.carry := some (0, some e.stamp), h.pc := e.begin_ } := by
  have hr' : (s.rollback 0 true).2 = true := hr
  simp [State.doomedRestart, State.reexecute, findOutermost, h, htxn, hdone, hr']

/-! ### Writes that nothing watches -/

theorem FMap.get_mem {α : Type} (d : α) (m : FMap α) (k : Nat) : FMap.get d m k = d ∨ (k, FMap.get d m k) ∈ m := by
  unfold FMap.get
  induction m with
  | nil => exact .inl rfl
  | cons p t ih =>
    obtain ⟨j, v⟩ := p
    by_cases h : j = k
    · subst h; simp [FMap.find]
    · simp only [FMap.find, h, if_false]
      exact ih.imp_right (List.mem_cons_of_mem _)

theorem FMap.mem_of_mem_drop {α : Type} {m : FMap α} {k : Nat} {p : Nat × α} (h : p ∈ FMap.drop m k) : p ∈ m := by
  induction m with
  | nil => exact h
  | cons q t ih =>
    obtain ⟨j, v⟩ := q
    by_cases hj : j = k
    · simp only [FMap.drop, hj, if_true] at h
      exact List.mem_cons_of_mem _ (ih h)
    · simp only [FMap.drop, hj, if_false, List.mem_cons] at h
      exact List.mem_cons.2 (h.imp_right ih)

theorem FMap.mem_place {α : Type} {m : FMap α} {k : Nat} {v : α} {p : Nat × α} (h : p ∈ FMap.place m k v) :
    p = (k, v) ∨ p ∈ m := by
  induction m with
  | nil => exact .inl (List.mem_singleton.1 h)
  | cons q t ih =>
    obtain ⟨j, u⟩ := q
    by_cases hk : k < j
    · simpa only [FMap.place, hk, if_true, List.mem_cons] using h
    · simp only [FMap.place, hk, if_false, List.mem_cons] at h ⊢
      rcases h with h | h
      · exact .inr (.inl h)
      · exact (ih h).imp_right .inr

/-- An entry after a write is the one written or was there before. -/
theorem FMap.mem_put {α : Type} [DecidableEq α] {d : α} {m : FMap α} {k : Nat} {v : α} {p : Nat × α}
    (h : p ∈ FMap.put d m k v) : p = (k, v) ∨ p ∈ m := by
  unfold FMap.put at h
  split at h
  · exact .inr (FMap.mem_of_mem_drop h)
  · exact (FMap.mem_place h).imp_right FMap.mem_of_mem_drop

theorem State.noWatchers_iff (s : State) : s.noWatchers = true ↔
    (∀ p ∈ s.cores, p.2.r.rset = [] ∧ p.2.h.resv = none) ∧ ∀ p ∈ s.clusters, p.2.wake = [] := by
  simp only [State.noWatchers, Bool.and_eq_true, List.all_eq_true, List.isEmpty_iff, Option.isNone_iff_eq_none]

/-- A change of a core that leaves its read set and its reservation makes no watcher. -/
theorem State.noWatchers_mapCoreAt {s : State} (h : s.noWatchers = true) (slot : Nat) {f : Core → Core}
    (hrset : ∀ c, (f c).r.rset = c.r.rset) (hresv : ∀ c, (f c).h.resv = c.h.resv) : (s.mapCoreAt slot f).noWatchers = true := by
  rw [State.noWatchers_iff] at h ⊢
  obtain ⟨hcores, hclusters⟩ := h
  refine ⟨fun p hp => ?_, hclusters⟩
  rcases FMap.mem_put hp with rfl | hp
  · simp only [hrset, hresv]
    rcases FMap.get_mem ({} : Core) s.cores slot with hget | hget
    · rw [State.coreAt, hget]; exact ⟨rfl, rfl⟩
    · exact hcores _ hget
  · exact hcores p hp

section
variable {s : State} (h : s.noWatchers = true) (agent : Option Nat)
include h

theorem State.doomLines_of_noWatchers (lines : List Nat) : s.doomLines agent lines = s := by
  obtain ⟨hcores, -⟩ := s.noWatchers_iff.1 h
  have hdoomed : (s.cores.filter fun p => p.2.dooms (some p.1 == agent) lines) = [] :=
    List.filter_eq_nil_iff.2 fun p hp => by simp [Core.dooms, (hcores p hp).1]
  have hreserved : (s.cores.filter fun p => some p.1 ≠ agent && (match p.2.h.resv with
      | some l => lines.contains l
      | none => false)) = [] :=
    List.filter_eq_nil_iff.2 fun p hp => by simp [(hcores p hp).2]
  unfold State.doomLines
  rw [hdoomed]
  exact congrArg (fun l => s.each l _) hreserved

theorem State.watchers_of_noWatchers (cl : Nat) (lines : List Nat) : s.watchers cl lines = [] := by
  obtain ⟨-, hclusters⟩ := s.noWatchers_iff.1 h
  have hwake : (s.clusterAt cl).wake = [] := by
    rcases FMap.get_mem ({} : Cluster) s.clusters cl with hget | hget
    · rw [State.clusterAt, hget]
    · exact hclusters _ hget
  rw [State.watchers, hwake]
  rfl

/-- A write that nothing watches has no effect on another agent. -/
theorem State.touch_of_noWatchers (f : Nat) : s.touch agent f = s := by
  unfold State.touch
  split
  · simp only [State.touchLines, State.doomLines_of_noWatchers h, State.watchers_of_noWatchers h]
    rfl
  · rfl

theorem State.touchAll_of_noWatchers (fs : List Nat) : s.touchAll agent fs = s := by
  unfold State.touchAll State.each
  generalize (fs.map lineAt).eraseDups = l
  induction l with
  | nil => rfl
  | cons f l ih => rw [List.foldl_cons, State.touch_of_noWatchers h, ih]

/-- A piece of a store that nothing watches reaches memory and changes nothing else (R149). -/
theorem State.writePiece_of_noWatchers (hcrc : s.crc = []) (p : List WordWrite) :
    s.writePiece p = s.mapMem fun m => p.foldl (fun m w => m.storeWord w.addr w.mask w.data) m := by
  have hmem : ∀ f : Mem → Mem, (s.mapMem f).noWatchers = true := fun _ => h
  simp only [State.writePiece, State.transfer_of_no_crc hcrc, State.applyWrites, State.touchAll_of_noWatchers (hmem _),
    Bool.false_eq_true, if_false]

end

/-! ### A store's bytes in memory -/

/-- A byte of a word, cut out or counted out. -/
theorem ofNat_div_byte (w : Word) (k : Nat) : BitVec.ofNat 8 (w.toNat / 2 ^ (8 * k)) = w.extractLsb' (8 * k) 8 := by
  apply BitVec.eq_of_toNat_eq
  rw [BitVec.toNat_ofNat, BitVec.extractLsb'_toNat, Nat.shiftRight_eq_div_pow]

theorem Mem.word_byte (m : Mem) (f : Nat) {k : Nat} (hk : k < 8) : (m.word f).extractLsb' (8 * k) 8 = m.byte (f + k) := by
  have hword : (m.word f).toNat = littleEndian m.byte f 8 := by
    rw [Mem.word, Mem.nat_littleEndian, BitVec.toNat_ofNat, Nat.mod_eq_of_lt (littleEndian_lt m.byte f 8)]
  have hin := littleEndian_inside m.byte (f := f) (k := k) (n := 1) (m := 8) (by omega)
  apply BitVec.eq_of_toNat_eq
  rw [BitVec.extractLsb'_toNat, Nat.shiftRight_eq_div_pow, hword, hin]
  rfl

/-- The bits of the first n bytes that a byte mask selects, as Mem.mergeWord selects them. -/
def maskBits (mask : BitVec 8) (n : Nat) : Word :=
  (List.range n).foldl (fun (acc : Word) i => if mask.getLsbD i then acc ||| (0xFF#64 <<< (8 * i)) else acc) 0

theorem maskBits_getLsbD (mask : BitVec 8) (n j : Nat) (hj : j < 64) :
    (maskBits mask n).getLsbD j = (decide (j / 8 < n) && mask.getLsbD (j / 8)) := by
  induction n with
  | zero => simp [maskBits]
  | succ n ih =>
    have hstep : maskBits mask (n + 1) =
        if mask.getLsbD n then maskBits mask n ||| (0xFF#64 <<< (8 * n)) else maskBits mask n := by
      rw [maskBits, List.range_succ, List.foldl_append]; rfl
    have hff : (0xFF#64 <<< (8 * n)).getLsbD j = decide (j / 8 = n) := by
      rw [BitVec.getLsbD_shiftLeft, show (0xFF#64) = BitVec.setWidth 64 (BitVec.allOnes 8) from rfl, BitVec.getLsbD_setWidth,
        BitVec.getLsbD_allOnes]
      by_cases hjn : j / 8 = n
      · simp [hjn, hj]; omega
      · simp [hjn]; omega
    rw [hstep]
    by_cases hn : mask.getLsbD n = true
    · rw [if_pos hn, BitVec.getLsbD_or, ih, hff]
      by_cases hjn : j / 8 = n
      · simp only [hjn, hn]; simp
      · simp only [hjn, show j / 8 < n + 1 ↔ j / 8 < n by omega]; simp
    · rw [if_neg hn, ih]
      by_cases hjn : j / 8 = n
      · simp only [hjn, Bool.eq_false_iff.2 hn]; simp
      · simp only [show j / 8 < n + 1 ↔ j / 8 < n by omega]

/-- A byte of a merged word is the new word's where the mask has its bit, else the old one's. -/
theorem maskBits_merge_byte (old new : Word) (mask : BitVec 8) {k : Nat} (hk : k < 8) :
    ((old &&& ~~~maskBits mask 8) ||| (new &&& maskBits mask 8)).extractLsb' (8 * k) 8 =
      if mask.getLsbD k then new.extractLsb' (8 * k) 8 else old.extractLsb' (8 * k) 8 := by
  apply BitVec.eq_of_getLsbD_eq
  intro i hi
  have hbit : (maskBits mask 8).getLsbD (8 * k + i) = mask.getLsbD k := by
    rw [maskBits_getLsbD _ _ _ (by omega), show (8 * k + i) / 8 = k by omega]
    simp [hk]
  have hlt : 8 * k + i < 64 := by omega
  simp only [apply_ite (fun x : BitVec 8 => x.getLsbD i), BitVec.getLsbD_extractLsb', BitVec.getLsbD_or, BitVec.getLsbD_and,
    BitVec.getLsbD_not, hbit, hi, hlt]
  cases mask.getLsbD k <;> simp

section
variable {m : Mem} {a : Nat} (hpoison : (m.tag a).poison = false) (hflips : (m.tag a).flips = 0)
include hflips

/-- The data of an undamaged word are its bytes (R198). -/
theorem Mem.data_of_clean : m.data a = m.word (wordAt a) := by
  rw [Mem.data, Mem.ecc, hflips]; rfl

theorem Mem.mergeWord_byte (mask : BitVec 8) (d : Word) (g : Nat) :
    (m.mergeWord a mask d).byte g =
      if wordAt a ≤ g ∧ g < wordAt a + 8 ∧ mask.getLsbD (g - wordAt a) = true then d.extractLsb' (8 * (g - wordAt a)) 8
      else m.byte g := by
  by_cases hg : wordAt a ≤ g ∧ g < wordAt a + 8
  · have hk : g - wordAt a < 8 := by omega
    have hold : (m.word (wordAt a)).extractLsb' (8 * (g - wordAt a)) 8 = m.byte g := by
      rw [m.word_byte _ hk, show wordAt a + (g - wordAt a) = g by omega]
    unfold Mem.mergeWord
    split
    next hall =>
      have hbit : mask.getLsbD (g - wordAt a) = true := by rw [hall, BitVec.getLsbD_allOnes, decide_eq_true hk]
      rw [Mem.writeWord_byte, if_pos hg, ofNat_div_byte, if_pos ⟨hg.1, hg.2, hbit⟩]
    next hall =>
      rw [Mem.putTag_byte, Mem.putData_byte, if_pos hg, ofNat_div_byte, Mem.data_of_clean hflips]
      refine (maskBits_merge_byte _ d mask hk).trans ?_
      rw [hold]
      simp only [hg.1, hg.2, true_and]
  · rw [if_neg fun h => hg ⟨h.1, h.2.1⟩]
    unfold Mem.mergeWord
    split
    · rw [Mem.writeWord_byte, if_neg hg]
    · rw [Mem.putTag_byte, Mem.putData_byte, if_neg hg]

include hpoison

theorem Mem.mergeWord_tag (mask : BitVec 8) (d : Word) (g : Nat) : (m.mergeWord a mask d).tag g = m.tag g := by
  have hword (t : MemTag) (ht : t = m.tag a) : (if wordAt g = wordAt a then t else m.tag g) = m.tag g := by
    split
    next hg => rw [ht, Mem.tag, Mem.tag, hg]
    next => rfl
  have hfull : ({ full := (m.tag a).full } : MemTag) = m.tag a := by
    cases h : m.tag a
    simp_all
  unfold Mem.mergeWord
  split
  · rw [Mem.writeWord_tag, hword _ hfull]
  · rw [Mem.putTag_tag, Mem.putData_tag, hword _ (by rw [hpoison]; exact hfull)]

/-- A store to an undamaged word merges its bytes (R199). -/
theorem Mem.storeWord_of_clean (mask : BitVec 8) (d : Word) : m.storeWord a mask d = m.mergeWord a mask d := by
  have hbad : m.isBad a = false := by
    rw [Mem.isBad, hpoison, Mem.ecc, hflips]; rfl
  rw [Mem.storeWord, hbad, Bool.and_false, if_neg Bool.false_ne_true]

end

/-- Stores to undamaged words, one after another: each byte is the last one stored there, and no tag changes (R149, R199). -/
theorem Mem.storeWords_of_clean (l : List WordWrite) (m : Mem)
    (h : ∀ w ∈ l, w.addr % 8 = 0 ∧ (m.tag w.addr).poison = false ∧ (m.tag w.addr).flips = 0) :
    (∀ f, (l.foldl (fun m w => m.storeWord w.addr w.mask w.data) m).byte f = seenByte [.store [l]] f (m.byte f)) ∧
      ∀ f, (l.foldl (fun m w => m.storeWord w.addr w.mask w.data) m).tag f = m.tag f := by
  induction l generalizing m with
  | nil => exact ⟨fun _ => rfl, fun _ => rfl⟩
  | cons w l ih =>
    obtain ⟨halign, hpoison, hflips⟩ := h w (List.mem_cons_self ..)
    have hword : wordAt w.addr = w.addr := by unfold wordAt; omega
    have hstore : m.storeWord w.addr w.mask w.data = m.mergeWord w.addr w.mask w.data :=
      Mem.storeWord_of_clean hpoison hflips ..
    have htag := Mem.mergeWord_tag hpoison hflips w.mask w.data
    obtain ⟨hbytes, htags⟩ := ih (m.mergeWord w.addr w.mask w.data) fun v hv => by
      rw [htag]; exact h v (List.mem_cons_of_mem _ hv)
    simp only [List.foldl_cons, hstore]
    refine ⟨fun f => ?_, fun f => (htags f).trans (htag f)⟩
    rw [hbytes, Mem.mergeWord_byte hflips, hword]
    simp only [seenByte, List.flatten_cons, List.flatten_nil, List.append_nil, List.foldl_cons]

end Sys2Proof.Machine
end

section
/-! PROOF. What happens between two instructions (R66, R67, R96, R163 to R165, R169, R170, R185, R287). -/
namespace Sys2Proof.Machine

/-! ### Events as the hart of their slot -/

theorem atSlot_of_lt {s : State} (h : s.arg.place < slotCount) (k : State → State) : atSlot s k = .next (k s) := if_pos h

/-- An event that acts as the hart of its slot ends in what its meaning gives there. -/
theorem exec_asCore {s : State} {ev : Instr} {F : State → State} {v : State} (hplace : s.arg.place < slotCount)
    (hexec : exec ev s = atSlot s fun s => s.asCore s.arg.place F) (hF : F { s with cur := s.arg.place } = v)
    (hcur : v.cur = s.arg.place) :
    ∃ t, exec ev s = .next t ∧ ({ t with cur := s.arg.place } : State) = v :=
  ⟨_, hexec.trans (atSlot_of_lt hplace _), (s.asCore_back _ _ (hF ▸ hcur)).trans hF⟩

section
variable {s : State} (hplace : s.arg.place < slotCount)
include hplace

/-- A pending enabled interrupt is taken where no overrun stands above it (R163, R165). -/
theorem exec_interruptTaken {code : Nat} (hcode : code < 2 ^ 63) (hboundary : (s.coreAt s.arg.place).atBoundary = true)
    (hnone : (s.coreAt s.arg.place).overrunDue = none)
    (hpend : State.pendingInterrupt { s with cur := s.arg.place } = some code) :
    ∃ t, exec .interruptTaken s = .next t ∧
      State.Interrupts { s with cur := s.arg.place } { t with cur := s.arg.place } code := by
  let u : State := { s with cur := s.arg.place }
  have hcore : u.core = s.coreAt s.arg.place := rfl
  obtain ⟨t, ht, hback⟩ := exec_asCore (ev := .interruptTaken) (v := u.interrupt code) hplace rfl
    (by simp only [← hcore] at hboundary hnone; simp [u, hboundary, hnone, hpend]) rfl
  exact ⟨t, ht, hback ▸ u.interrupt_interrupts hcode⟩

/-- A count that has reached its budget raises cause 28 and is marked (R169, R170). -/
theorem exec_budgetOverrun {k : Task} (hboundary : (s.coreAt s.arg.place).atBoundary = true)
    (htask : (s.coreAt s.arg.place).h.task = some k) (hdue : (s.coreAt s.arg.place).overrunDue = some k)
    (hstack : (s.coreAt s.arg.place).r.stack = []) :
    let u : State := { s with cur := s.arg.place }
    ∃ t, exec .budgetOverrun s = .next t ∧
      State.Traps (u.mapHart fun h => { h with task := some { k with overran := true } }) { t with cur := s.arg.place } 28
        (BitVec.ofNat 64 k.budget) := by
  intro u
  let marked := u.mapHart fun h => { h with task := some { k with overran := true } }
  have hcore : u.core = s.coreAt s.arg.place := rfl
  have hmark : u.overMark = marked := by
    simp [marked, State.overMark, State.mapHart, State.mapCore, State.mapCoreAt, show u.coreAt u.cur = u.core from rfl, hcore,
      htask]
  have hover : u.overrun k = marked.trap 28 (BitVec.ofNat 64 k.budget) := by
    simp only [State.overrun, hcore, hstack, hmark]
  obtain ⟨t, ht, hback⟩ := exec_asCore (ev := .budgetOverrun) (v := u.overrun k) hplace rfl
    (by simp only [← hcore] at hboundary hdue; simp [u, hboundary, hdue]) (by rw [hover]; rfl)
  refine ⟨t, ht, ?_⟩
  rw [hback, hover]
  exact marked.trap_traps ..

/-- A doomed transaction begins anew with its stamp (R185). -/
theorem exec_doomedRestart {e : Entry} (hboundary : (s.coreAt s.arg.place).atBoundary = true)
    (hdue : (s.coreAt s.arg.place).doomDue = true) (hstack : (s.coreAt s.arg.place).r.stack = [e]) (htxn : e.txn = true)
    (hdone : State.commandsDone { s with cur := s.arg.place } = true)
    (hrolls : State.rollsBack { s with cur := s.arg.place } 0 true = true) :
    ∃ t, exec .doomedRestart s = .next t ∧ (t.coreAt s.arg.place).h.pc = e.begin_ ∧ (t.coreAt s.arg.place).r.stack = [] ∧
      (t.coreAt s.arg.place).r.carry = some (0, some e.stamp) ∧ (t.coreAt s.arg.place).r.wset = [] ∧
      (t.coreAt s.arg.place).r.doomed = false := by
  let u : State := { s with cur := s.arg.place }
  have hcore : u.core = s.coreAt s.arg.place := rfl
  have hrestart : u.doomedRestart =
      (u.rollback 0 true).1.mapCore fun c => { c with r.carry := some (0, some e.stamp), h.pc := e.begin_ } :=
    State.doomedRestart_of_outermost hstack htxn hdone hrolls
  have hcur : u.doomedRestart.cur = s.arg.place := by rw [hrestart, State.mapCore_cur, State.rollback_cur]
  obtain ⟨t, ht, hback⟩ := exec_asCore (ev := .doomedRestart) (v := u.doomedRestart) hplace rfl
    (by simp only [← hcore] at hboundary hdue; simp [u, hboundary, hdue]) hcur
  have hslot : t.coreAt s.arg.place = u.doomedRestart.core := by rw [State.core, hcur, ← hback]; rfl
  obtain ⟨hnil, hwset, hdoomed⟩ := State.rollback_of_outermost (s := u) hstack htxn true hrolls
  refine ⟨t, ht, ?_⟩
  rw [hslot, hrestart, State.mapCore_core]
  exact ⟨rfl, hnil, rfl, hwset, hdoomed⟩

/-- A word that is no instruction raises cause 2 with its bits (R67). -/
theorem exec_illegalInstruction {m : Illegal} (hdec : decode (s.arg.word.setWidth 32) = .error m) :
    ∃ t, exec .illegalInstruction s = .next t ∧
      State.Traps { s with cur := s.arg.place } { t with cur := s.arg.place } 2 ((s.arg.word.setWidth 32).setWidth 64) := by
  let u : State := { s with cur := s.arg.place }
  obtain ⟨t, ht, hback⟩ := exec_asCore (ev := .illegalInstruction) (v := u.trap 2 ((s.arg.word.setWidth 32).setWidth 64))
    hplace rfl (by simp only [u, hdec]) rfl
  exact ⟨t, ht, hback ▸ u.trap_traps ..⟩

end

/-! ### The timer (R96, R164) -/

/-- lc that pass at a slot change its core alone of the cores, and nothing of storage. -/
theorem State.passLc_coreAt (s : State) (slot n : Nat) (charged : Bool) (m : Nat) :
    (s.passLc slot n charged).coreAt m = if m = slot then (s.coreAt slot).afterLcs n charged else s.coreAt m := by
  simp only [State.passLc, State.ite_due, State.clusterPass_coreAt, State.dueUnless_coreAt]
  split
  next h => subst h; simp only [State.mapCoreAt_coreAt]; rfl
  next h => rw [State.mapCoreAt_other _ _ _ _ h, State.mapCoreAt_other _ _ _ _ h]

theorem State.passLc_mem (s : State) (slot n : Nat) (charged : Bool) : (s.passLc slot n charged).mem = s.mem := by
  simp only [State.passLc, State.ite_due, State.clusterPass_eq]; rfl

/-- STIP is pending once time has reached stimecmp (R164). -/
theorem State.mip_timer (s : State) (slot : Nat) :
    (s.mip slot).getLsbD 5 = decide ((s.coreAt slot).c.stimecmp.toNat ≤ (s.coreAt slot).n.time.toNat) := by
  simp only [State.mip, BitVec.getLsbD_or]
  cases (s.coreAt slot).c.ssip <;> cases s.seip slot <;>
    by_cases h : (s.coreAt slot).c.stimecmp.toNat ≤ (s.coreAt slot).n.time.toNat <;> simp [h]

/-- The lc until stimecmp, where it lies ahead, pass at a slot. -/
def State.untilTimer (s : State) (slot : Nat) : State :=
  let c := s.coreAt slot
  if c.n.time.toNat < c.c.stimecmp.toNat then s.passLc slot (c.c.stimecmp.toNat - c.n.time.toNat) c.atTask else s

section
variable (s : State) (slot : Nat)

theorem State.untilTimer_mem : (s.untilTimer slot).mem = s.mem := by
  simp only [State.untilTimer]; split
  · exact s.passLc_mem ..
  · rfl

theorem State.untilTimer_other {m : Nat} (h : m ≠ slot) : (s.untilTimer slot).coreAt m = s.coreAt m := by
  simp only [State.untilTimer]; split
  · rw [State.passLc_coreAt, if_neg h]
  · rfl

theorem State.untilTimer_csrs : ((s.untilTimer slot).coreAt slot).c = (s.coreAt slot).c := by
  simp only [State.untilTimer]; split
  · rw [State.passLc_coreAt, if_pos rfl]; rfl
  · rfl

theorem State.untilTimer_time : ((s.untilTimer slot).coreAt slot).n.time =
    if (s.coreAt slot).n.time.toNat < (s.coreAt slot).c.stimecmp.toNat then (s.coreAt slot).c.stimecmp
    else (s.coreAt slot).n.time := by
  simp only [State.untilTimer]; split
  next h =>
    rw [State.passLc_coreAt, if_pos rfl]
    show (s.coreAt slot).n.time + BitVec.ofNat 64 _ = _
    apply BitVec.eq_of_toNat_eq
    have hlt := (s.coreAt slot).c.stimecmp.isLt
    rw [BitVec.toNat_add, BitVec.toNat_ofNat]
    omega
  next h => rfl

theorem State.untilTimer_mip : ((s.untilTimer slot).mip slot).getLsbD 5 = true := by
  rw [State.mip_timer, State.untilTimer_csrs, State.untilTimer_time, decide_eq_true_eq]
  split
  · exact Nat.le_refl _
  · omega

end

/-- A wfi whose mask names STIP finds an interrupt pending then. -/
theorem State.wfiPending_of_timer {s : State} {slot : Nat} (hmip : (s.mip slot).getLsbD 5 = true)
    (hmie : (s.coreAt slot).c.mie.getLsbD 5 = true) : s.wfiPending slot = true := by
  rw [State.wfiPending, bne_iff_ne]
  intro hzero
  have hbit := congrArg (fun w : Word => w.getLsbD 5) hzero
  simp only [BitVec.getLsbD_and, hmip, hmie] at hbit
  simp at hbit

/-- The timer's match: time has come to stimecmp, STIP is pending and ends a wfi that it is enabled for (R96, R164). -/
theorem exec_stimerMatch {s : State} (hplace : s.arg.place < slotCount) :
    let slot := s.arg.place
    let c := s.coreAt slot
    ∃ t, exec .stimerMatch s = .next t ∧ t.mem = s.mem ∧ (∀ n, n ≠ slot → t.coreAt n = s.coreAt n) ∧
      (t.coreAt slot).n.time = (if c.n.time.toNat < c.c.stimecmp.toNat then c.c.stimecmp else c.n.time) ∧
      (t.mip slot).getLsbD 5 = true ∧ (c.h.hs = .wfi → c.c.mie.getLsbD 5 = true → (t.coreAt slot).h.hs = .run) := by
  intro slot c
  let v := s.untilTimer slot
  have hexec : exec .stimerMatch s = .next (if c.h.hs = .wfi ∧ v.wfiPending slot = true then
      v.mapCoreAt slot fun c => { c with h.hs := .run } else v) := by
    show execStimerMatch s = _
    unfold execStimerMatch
    exact atSlot_of_lt hplace _
  have htime := s.untilTimer_time slot
  have hmip := s.untilTimer_mip slot
  refine ⟨_, hexec, ?_⟩
  split
  next hwake =>
    refine ⟨s.untilTimer_mem slot, fun n hn => ?_, ?_, ?_, fun _ _ => ?_⟩
    · rw [State.mapCoreAt_other _ _ _ _ hn]; exact s.untilTimer_other slot hn
    · rw [State.mapCoreAt_coreAt]; exact htime
    · rw [State.mip_timer, State.mapCoreAt_coreAt]
      rwa [State.mip_timer] at hmip
    · rw [State.mapCoreAt_coreAt]
  next hsleep =>
    refine ⟨s.untilTimer_mem slot, fun n hn => s.untilTimer_other slot hn, htime, hmip, fun hwfi hmie => ?_⟩
    exact absurd ⟨hwfi, State.wfiPending_of_timer hmip (by rw [State.untilTimer_csrs]; exact hmie)⟩ hsleep

/-! ### The store buffer (R149, R287) -/

theorem pickPiece_mem {ps : List (List WordWrite)} (h : ps ≠ []) (block : Nat) : pickPiece ps block ∈ ps := by
  unfold pickPiece
  cases hf : ps.find? fun p => pieceBlock p = block with
  | some p => exact List.mem_of_find?_eq_some hf
  | none =>
    cases ps with
    | nil => exact absurd rfl h
    | cons p ps => exact List.mem_cons_self ..

/-- The piece of the block that is asked for, where there is one. -/
theorem pieceBlock_pickPiece {ps : List (List WordWrite)} {block : Nat} (h : ∃ m ∈ ps, pieceBlock m = block) :
    pieceBlock (pickPiece ps block) = block := by
  obtain ⟨m, hm, hblock⟩ := h
  unfold pickPiece
  cases hf : ps.find? fun p => pieceBlock p = block with
  | some p => simpa using List.find?_some hf
  | none => exact absurd hblock (by simpa using List.find?_eq_none.1 hf m hm)

/-- Looking at the engines again changes the agenda alone. -/
theorem State.lookEngines_keeps {β : Type} (p : State → β) (hp : ∀ s ev a, p (s.due ev a) = p s) (s : State) (slot : Nat) :
    p (s.lookEngines slot) = p s := by
  have hat (s : State) (ev : Instr) (n : Nat) : p (s.dueAt ev n) = p s := hp ..
  have hrest : p (s.lookRest slot) = p s := by
    simp only [State.lookRest]
    (repeat' split) <;> simp only [hat]
  unfold State.lookEngines
  extract_lets s0 c s1 s2 s3
  have h1 : p s1 = p s := by
    simp only [s1]; split
    · exact hrest
    · rw [hat]; exact hrest
  have h2 : p s2 = p s := by
    simp only [s2]; split
    · exact h1
    · rw [hat]; exact h1
  have h3 : p s3 = p s := (State.each_keeps p (fun _ _ => hp ..) ..).trans h2
  split
  · exact h3
  · rw [hat]; exact h3

/-- What stays in the buffer of a store whose pieces were ps when piece l has left. -/
def piecesLeft (ps : List (List WordWrite)) (l : List WordWrite) : List SbEntry :=
  if ps.erase l = [] then [] else [.store (ps.erase l)]

theorem piecesLeft_append_ne_nil {ps : List (List WordWrite)} {l : List WordWrite} {rest : List SbEntry}
    (h : ps.erase l ≠ [] ∨ rest ≠ []) : piecesLeft ps l ++ rest ≠ [] := by
  rcases h with h | h <;> simp [piecesLeft, h]

/-- The state when piece l of the buffer's first store has reached memory, and left and rest are in the buffer. -/
def State.afterPiece (s : State) (l : List WordWrite) (left rest : List SbEntry) : State :=
  ((s.mapMem fun m => l.foldl (fun m w => m.storeWord w.addr w.mask w.data) m).mapCore fun c => { c with e.sb := rest }).mapCore
    fun c => { c with e.sb := left ++ c.e.sb }

/-- Then the next drain is due, or with an empty buffer the engines look again. -/
def State.afterDrain (s : State) (empty : Bool) : State :=
  if empty then s.lookEngines s.cur else s.dueAt .storeBufferDrain s.cur

theorem State.afterDrain_keeps {β : Type} (p : State → β) (hp : ∀ s ev a, p (s.due ev a) = p s) (s : State) (empty : Bool) :
    p (s.afterDrain empty) = p s := by
  unfold State.afterDrain; split
  · exact State.lookEngines_keeps p hp ..
  · exact hp ..

section
variable (s : State) (l : List WordWrite) (left rest : List SbEntry)

theorem State.afterPiece_core : (s.afterPiece l left rest).coreAt s.cur = { s.core with e.sb := left ++ rest } := by
  show (s.afterPiece l left rest).core = _
  rw [State.afterPiece, State.mapCore_core, State.mapCore_core]
  rfl

theorem State.afterPiece_other {n : Nat} (h : n ≠ s.cur) : (s.afterPiece l left rest).coreAt n = s.coreAt n :=
  (State.mapCoreAt_other _ _ _ _ h).trans (State.mapCoreAt_other _ _ _ _ h)

end

/-- A store at the head of the buffer gives a piece to memory (R149, R287). -/
theorem State.drainHead_store {s : State} {rest : List SbEntry} (hwatch : s.noWatchers = true) (hcrc : s.crc = [])
    (ps : List (List WordWrite)) (block : Nat) :
    (s.mapCore fun c => { c with e.sb := rest }).drainHead (.store ps) block =
      some ((s.mapCore fun c => { c with e.sb := rest }).mapMem fun m =>
        (pickPiece ps block).foldl (fun m w => m.storeWord w.addr w.mask w.data) m, piecesLeft ps (pickPiece ps block)) := by
  have hunwatched : (s.mapCore fun c => { c with e.sb := rest }).noWatchers = true :=
    State.noWatchers_mapCoreAt hwatch _ (fun _ => rfl) fun _ => rfl
  simp only [State.drainHead, State.writePiece_of_noWatchers hunwatched hcrc, piecesLeft, List.isEmpty_iff]

/-- A drain of a store takes a piece that it holds, of the asked block where there is one, to memory (R287). -/
theorem exec_storeBufferDrain {s : State} (hplace : s.arg.place < slotCount) {ps : List (List WordWrite)} {rest : List SbEntry}
    (hsb : (s.coreAt s.arg.place).e.sb = .store ps :: rest) (hwatch : s.noWatchers = true) (hcrc : s.crc = []) :
    let slot := s.arg.place
    let l := pickPiece ps s.arg.a
    let left := piecesLeft ps l
    ∃ t, exec .storeBufferDrain s = .next t ∧
      ({ t with cur := slot } : State) =
        (State.afterPiece { s with cur := slot } l left rest).afterDrain (left ++ rest).isEmpty := by
  intro slot l left
  refine exec_asCore (ev := .storeBufferDrain) hplace rfl ?_ (State.afterDrain_keeps State.cur (fun _ _ _ => rfl) ..)
  have hcore : ({ s with cur := s.arg.place } : State).core.e.sb = .store ps :: rest := hsb
  simp only [hcore, State.drainHead_store (s := { s with cur := s.arg.place }) hwatch hcrc]
  rfl

/-- The oldest store's piece reaches memory, and the rest of the buffer stays and is due (R149, R287). -/
theorem storeBufferDrain_piece {s : State} (hplace : s.arg.place < slotCount) {ps : List (List WordWrite)} {rest : List SbEntry}
    (hsb : (s.coreAt s.arg.place).e.sb = .store ps :: rest) (hps : ps ≠ []) (hwatch : s.noWatchers = true) (hcrc : s.crc = [])
    (hclean : ∀ l ∈ ps, ∀ w ∈ l, w.addr % 8 = 0 ∧ s.clean w.addr = true) :
    let slot := s.arg.place
    ∃ t l, l ∈ ps ∧ ((∃ m ∈ ps, pieceBlock m = s.arg.a) → pieceBlock l = s.arg.a) ∧ exec .storeBufferDrain s = .next t ∧
      t.coreAt slot = { s.coreAt slot with e.sb := piecesLeft ps l ++ rest } ∧
      (∀ n, n ≠ slot → t.coreAt n = s.coreAt n) ∧
      (∀ f, t.mem.byte f = seenByte [.store [l]] f (s.mem.byte f)) ∧ (∀ f, t.mem.tag f = s.mem.tag f) ∧
      (ps.erase l ≠ [] ∨ rest ≠ [] → ({ ev := .storeBufferDrain, arg := { place := slot } } : Due) ∈ t.agenda) := by
  intro slot
  let u : State := { s with cur := slot }
  let l := pickPiece ps s.arg.a
  let w := u.afterPiece l (piecesLeft ps l) rest
  obtain ⟨t, ht, hback⟩ := exec_storeBufferDrain hplace hsb hwatch hcrc
  have hkeep {β : Type} (p : State → β) (hp : ∀ s ev a, p (s.due ev a) = p s)
      (hcur : p { t with cur := slot } = p t) : p t = p w := by
    rw [← hcur, hback]; exact State.afterDrain_keeps p hp ..
  have hcores (n : Nat) : t.coreAt n = w.coreAt n := hkeep (fun s => s.coreAt n) (fun _ _ _ => rfl) rfl
  have hmem : t.mem = l.foldl (fun m w => m.storeWord w.addr w.mask w.data) s.mem := hkeep State.mem (fun _ _ _ => rfl) rfl
  have hl : l ∈ ps := pickPiece_mem hps _
  obtain ⟨hbyte, htag⟩ := Mem.storeWords_of_clean l s.mem fun w hw =>
    ⟨(hclean l hl w hw).1, (s.clean_iff _).1 (hclean l hl w hw).2⟩
  refine ⟨t, l, hl, pieceBlock_pickPiece, ht, ?_, fun n hn => ?_, fun f => ?_, fun f => ?_, fun hmore => ?_⟩
  · rw [hcores]; exact u.afterPiece_core ..
  · rw [hcores]; exact u.afterPiece_other _ _ _ hn
  · rw [hmem]; exact hbyte f
  · rw [hmem]; exact htag f
  · have hagenda : t.agenda = (w.afterDrain (piecesLeft ps l ++ rest).isEmpty).agenda := (congrArg State.agenda hback :)
    rw [hagenda, State.afterDrain, if_neg (by simpa using piecesLeft_append_ne_nil hmore)]
    exact List.mem_append_right _ (List.mem_singleton_self _)

/-! ### The statement -/

/-- An overrun is due of a running task whose count has reached its budget, once (R169, R170). -/
theorem Core.overrunDue_of_spent {c : Core} {k : Task} (htask : c.h.task = some k) (hat : c.atTask = true) (hrun : c.h.hs = .run)
    (honce : k.overran = false) (hspent : k.budget ≤ k.count) : c.overrunDue = some k := by
  simp [Core.overrunDue, htask, hat, hrun, honce, hspent]

/-- A doomed transaction of a running task is due to restart (R185). -/
theorem Core.doomDue_of_doomed {c : Core} (hdoomed : c.r.doomed = true) (hat : c.atTask = true) (hrun : c.h.hs = .run) :
    c.doomDue = true := by
  simp [Core.doomDue, hdoomed, hat, hrun]

/-- The codes of SEI, SSI and STI are far below 2^63. -/
theorem firstInterrupt_code {w : Word} {code : Nat}
    (h : if w.getLsbD 9 then code = 9 else if w.getLsbD 1 then code = 1 else w.getLsbD 5 = true ∧ code = 5) :
    code < 2 ^ 63 := by
  split at h
  · omega
  · split at h <;> omega

/-- Settles O33: each event of the hart is its meaning as the core of its slot; the meanings are the trap, the rollback, the
pass of lc and the store of a piece, each by its own rule. -/
theorem betweenInstructions : Obligations.BetweenInstructions := by
  unfold Obligations.BetweenInstructions
  intro s hplace slot u c back
  refine ⟨fun code hboundary hnone hcode => ?_, fun k hboundary htask hat hrun honce hspent hstack => ?_,
    fun e hboundary hdoomed hat hrun hstack htxn hdone hrolls => ?_, fun m hdec => exec_illegalInstruction hplace hdec,
    exec_stimerMatch hplace, fun ps rest hsb hps hwatch hcrc hclean => storeBufferDrain_piece hplace hsb hps hwatch hcrc hclean⟩
  · have hpend : u.pendingInterrupt = some code := (firstInterrupt_orElse ..).trans (firstInterrupt_of_first hcode)
    exact exec_interruptTaken hplace (firstInterrupt_code hcode) hboundary hnone hpend
  · exact exec_budgetOverrun hplace hboundary htask (Core.overrunDue_of_spent htask hat hrun honce hspent) hstack
  · exact exec_doomedRestart hplace hboundary (Core.doomDue_of_doomed hdoomed hat hrun) hstack htxn hdone hrolls

end Sys2Proof.Machine
end

section
/-! SUPPORT. What stands before a form acts: the guard of its registers (R161, R166, R184, R247), and the rules that forbid it to
the hart as it is (R21, R67, R118, R127, R162, R349). -/
namespace Sys2Proof.Machine

/-! ### The guard's answers -/

/-- The first source that holds an error token, at the task's own privilege (R166). -/
def Core.tokenSource (c : Core) (srcs : List XReg) : Option XReg :=
  if c.atTask then srcs.find? fun r => hasBit c.h.mark r else none

section
variable {s : State} {srcs dsts : List XReg} (i : Instr) (k : State → State)

/-- A pending register stalls the form (R247). -/
theorem State.guard_of_pending (hpend : s.core.pendingOn (srcs ++ dsts) = true) : s.guard i srcs dsts k = s := by
  simp only [State.guard, hpend, if_true]

/-- A source with an error token raises cause 29 with it; inside an entry the uncorrectable-data token does not (R161, R166). -/
theorem State.guard_of_token {r : XReg} (hpend : s.core.pendingOn (srcs ++ dsts) = false)
    (htoken : s.core.tokenSource srcs = some r) (hraises : s.core.inEntry = false ∨ s.x r ≠ tokenBad) :
    s.guard i srcs dsts k = s.trap 29 (s.x r) := by
  have hconsumed : (s.core.inEntry && s.x r == tokenBad) = false := by
    obtain hentry | hvalue := hraises
    · rw [hentry, Bool.false_and]
    · rw [beq_eq_false_iff_ne.2 hvalue, Bool.and_false]
  unfold Core.tokenSource at htoken
  unfold State.x at hconsumed ⊢
  simp only [State.guard, hpend, htoken, hconsumed, Bool.false_eq_true, if_false]

/-- A register that waits for a held command makes the form a misuse (R184). -/
theorem State.guard_of_held (hpend : s.core.pendingOn (srcs ++ dsts) = false) (htoken : s.core.tokenSource srcs = none)
    (hheld : ((srcs ++ dsts).any fun r => hasBit s.core.h.hpend r) = true) : s.guard i srcs dsts k = s.misuse i := by
  unfold Core.tokenSource at htoken
  simp only [State.guard, hpend, htoken, hheld, Bool.false_eq_true, if_false, if_true]

end

/-! ### The forms behind the guard -/

/-- A form with a word, whose meaning begins with the guard of its sources and destinations. -/
def Guarded (i : Instr) (s : State) (srcs dsts : List XReg) : Prop :=
  i.hasWord = true ∧ ∃ k, exec i s = .next (s.guard i srcs dsts k)

section
variable {i : Instr} {s : State}

theorem guarded_alu {srcs : List XReg} {rd : XReg} {f : State → Word} (hword : i.hasWord = true)
    (hexec : exec i s = .next (alu i srcs rd f s)) : Guarded i s srcs [rd] := ⟨hword, _, hexec⟩

theorem guarded_intForm {srcs : List XReg} {rd : XReg} {v : Word} (h : intForm i s = some (srcs, rd, v)) :
    Guarded i s srcs [rd] := by
  unfold intForm at h
  split at h <;> cases h
  all_goals exact guarded_alu rfl rfl

theorem guarded_jumpForm {srcs : List XReg} {rd : XReg} {target : Option Word} (h : jumpForm i s = some (srcs, rd, target)) :
    Guarded i s srcs (linkRegs i) := by
  unfold jumpForm at h
  split at h <;> cases h
  all_goals exact ⟨rfl, _, rfl⟩

theorem guarded_loadForm {a rd : XReg} {k : BitVec 12} {n : Nat} {signed : Bool} (h : loadForm i = some (a, k, rd, n, signed)) :
    Guarded i s [a] [rd] := by
  unfold loadForm at h
  split at h <;> cases h
  all_goals exact ⟨rfl, _, rfl⟩

theorem guarded_storeForm {a b : XReg} {k : BitVec 12} {n : Nat} (h : storeForm i = some (a, k, b, n)) :
    Guarded i s [a, b] [] := by
  unfold storeForm at h
  split at h <;> cases h
  all_goals exact ⟨rfl, _, rfl⟩

theorem guarded_amoForm {rd a b : XReg} {n : Nat} (h : amoForm i = some (rd, a, b, n)) : Guarded i s [a, b] [rd] := by
  unfold amoForm at h
  split at h <;> cases h
  all_goals exact ⟨rfl, _, rfl⟩

/-- The integer, jump, load, store and AMO forms begin with the guard. -/
theorem guarded_of_scalarRegs {srcs dsts : List XReg} (h : scalarRegs i s = some (srcs, dsts)) : Guarded i s srcs dsts := by
  unfold scalarRegs at h
  split at h
  next hform => cases h; exact guarded_intForm hform
  next hform _ => cases h; exact guarded_jumpForm hform
  next hform _ _ => cases h; exact guarded_loadForm hform
  next hform _ _ _ => cases h; exact guarded_storeForm hform
  next hform _ _ _ _ => cases h; exact guarded_amoForm hform
  next => cases h

end

/-! ### Forbidden forms -/

/-- A trap with an instruction's bits, as the encoder gives them (R67). -/
theorem State.trap_bitsOf {i : Instr} (h : i.hasWord = true) (s : State) (code : Nat) :
    ∃ w, encode i = some w ∧ s.Traps (s.trap code (bitsOf i)) code (w.setWidth 64) := by
  obtain ⟨w, hw⟩ := Option.isSome_iff_exists.1 h
  have hbits : bitsOf i = w.setWidth 64 := by simp only [bitsOf, hw]
  exact ⟨w, hw, hbits ▸ s.trap_traps ..⟩

/-- A test of a word by a mask of one bit. -/
theorem hasBits_twoPow (w : Word) {k : Nat} (hk : k < 64) : hasBits w (BitVec.twoPow 64 k) = w.getLsbD k :=
  hasBits_bit w _ k fun n => by simp [BitVec.getLsbD_twoPow, hk, eq_comm]

/-- A form whose rule forbids it: it has a word, and is an illegal instruction (R67). -/
def RaisesIllegal (i : Instr) (s : State) : Prop := i.hasWord = true ∧ exec i s = .next (s.illegal i)

section
variable {i : Instr} {s : State}

theorem raisesIllegal_mret (h : (s.core.h.mode != .m) = true) : RaisesIllegal .mret s :=
  ⟨rfl, congrArg Host.Outcome.next (if_neg (by simpa using h))⟩

/-- sret is forbidden to U, and to S under mstatus.TSR, bit 22. -/
theorem raisesIllegal_sret (h : (s.core.h.mode == .u || (s.core.h.mode == .s && s.core.c.mstatus.getLsbD 22)) = true) :
    RaisesIllegal .sret s := by
  have htsr : hasBits s.core.c.mstatus 0x400000 = s.core.c.mstatus.getLsbD 22 := hasBits_twoPow _ (k := 22) (by decide)
  have hbelow : s.core.h.mode = .u ∨ (s.core.h.mode = .s ∧ hasBits s.core.c.mstatus 0x400000 = true) := by
    rw [htsr]; simpa using h
  exact ⟨rfl, congrArg Host.Outcome.next (if_pos hbelow)⟩

/-- wfi is forbidden to U, and to S under mstatus.TW, bit 21, where it would wait. -/
theorem raisesIllegal_wfi
    (h : (s.core.h.mode == .u || (s.core.h.mode == .s && s.core.c.mstatus.getLsbD 21 && !s.wfiPending s.cur)) = true) :
    RaisesIllegal .wfi s := by
  have htw : hasBits s.core.c.mstatus 0x200000 = s.core.c.mstatus.getLsbD 21 := hasBits_twoPow _ (k := 21) (by decide)
  refine ⟨rfl, congrArg Host.Outcome.next ?_⟩
  by_cases hu : s.core.h.mode = .u
  · exact if_pos hu
  · have hwaits : (s.core.h.mode = .s ∧ s.core.c.mstatus.getLsbD 21 = true) ∧ s.wfiPending s.cur = false := by
      simpa [hu] using h
    rw [if_neg hu, if_neg (by simp [hwaits.2]), if_pos (htw ▸ hwaits.1)]

/-- sfence.vma is forbidden to U, and to S under mstatus.TVM, bit 20. -/
theorem raisesIllegal_sfenceVma {a b : XReg}
    (h : (s.core.h.mode == .u || (s.core.h.mode == .s && s.core.c.mstatus.getLsbD 20)) = true) :
    RaisesIllegal (.sfenceVma a b) s := by
  have htvm : hasBits s.core.c.mstatus 0x100000 = s.core.c.mstatus.getLsbD 20 := hasBits_twoPow _ (k := 20) (by decide)
  have hbelow : s.core.h.mode = .u ∨ (s.core.h.mode = .s ∧ hasBits s.core.c.mstatus 0x100000 = true) := by
    rw [htvm]; simpa using h
  exact ⟨rfl, congrArg Host.Outcome.next (if_pos hbelow)⟩

/-- A CSR form without its CSR, or whose access the CSR's rule does not allow, is an illegal instruction (R21, R162). -/
theorem csrForm_of_forbidden {srcs : List XReg} {rd : XReg} {csr : BitVec 12} {new : State → Word → Option Word} {writes : Bool}
    (hnew : ∀ old, (new s old).isSome = writes)
    (h : ((s.csrValue s.cur csr.toNat).isNone || !s.core.csrAllowed csr.toNat writes) = true) :
    csrForm i srcs rd csr new s = s.illegal i := by
  cases hvalue : s.csrValue s.cur csr.toNat with
  | none => simp only [csrForm, hvalue]
  | some old =>
    have hdenied : (!s.core.csrAllowed csr.toNat writes) = true := by simpa [hvalue] using h
    simp only [csrForm, hvalue, hnew, hdenied, if_true]

/-- Setting or clearing bits writes unless the operand is x0, or the immediate 0 (published). -/
theorem isSome_unless_zero (r : BitVec 5) (v : Word) : (if r = 0 then none else some v).isSome = decide (r ≠ 0) := by
  by_cases h : r = 0
  · rw [if_pos h, decide_eq_false (not_not_intro h)]; rfl
  · rw [if_neg h, decide_eq_true h]; rfl

/-- The returns, wfi and sfence.vma by their modes, the S forms of R118 and R127 in U, the CSR forms by their CSR; no other rule
forbids a form. -/
theorem raisesIllegal_of_forbidden (h : forbidden i s = true) : RaisesIllegal i s := by
  have hmode (hu : (s.core.h.mode == .u) = true) : s.core.h.mode = .u := by simpa using hu
  cases i
  case mret => exact raisesIllegal_mret h
  case sret => exact raisesIllegal_sret h
  case wfi => exact raisesIllegal_wfi h
  case sfenceVma => exact raisesIllegal_sfenceVma h
  case capMint | sysFreeze | sysRemap => exact ⟨rfl, congrArg Host.Outcome.next (if_pos (hmode h))⟩
  case csrrw | csrrwi => exact ⟨rfl, congrArg Host.Outcome.next (csrForm_of_forbidden (fun _ => rfl) h)⟩
  case csrrs | csrrc | csrrsi | csrrci =>
    exact ⟨rfl, congrArg Host.Outcome.next (csrForm_of_forbidden (fun _ => isSome_unless_zero ..) h)⟩
  all_goals cases h

end

end Sys2Proof.Machine
end

section
/-! PROOF. What stands before a form acts (R161, R166, R184, R247, R67, R97, R162). -/
namespace Sys2Proof.Machine

/-- Settles O55: the scalar forms begin with the guard, whose three answers are the stall and the two traps; a forbidden form is an
illegal instruction. -/
theorem registersStandGuard : Obligations.RegistersStandGuard := by
  unfold Obligations.RegistersStandGuard
  refine ⟨fun i s srcs dsts hregs => ?_, fun i s hforbidden => ?_⟩
  · obtain ⟨hword, k, hexec⟩ := guarded_of_scalarRegs hregs
    refine ⟨fun hpend => ?_, fun hpend => ⟨fun r htoken hraises => ?_, fun htoken hheld => ?_⟩⟩
    · exact hexec.trans (congrArg Host.Outcome.next (State.guard_of_pending i k hpend))
    · exact ⟨_, hexec, State.guard_of_token i k hpend htoken hraises ▸ s.trap_traps ..⟩
    · obtain ⟨w, hw, htraps⟩ := s.trap_bitsOf hword 49
      exact ⟨_, w, hexec, hw, State.guard_of_held i k hpend htoken hheld ▸ htraps⟩
  · obtain ⟨hword, hexec⟩ := raisesIllegal_of_forbidden hforbidden
    obtain ⟨w, hw, htraps⟩ := s.trap_bitsOf hword 2
    exact ⟨_, w, hexec, hw, htraps⟩

end Sys2Proof.Machine
end
